-- ==== Sys2Proof/Config.lean ====
section
/-! DEFINITION. What the spec leaves to the implementation: free values and functions with no body. A statement about one of
them holds for every value. State.fresh numbers the uses that may differ from each other (log 2). -/

namespace Sys2Proof.Config

/-- A fetch with no IFENCE since an older word was fetched: true returns the older word (07 R209). Context, address, old word, new word. -/
opaque fetchOld : Nat → Nat → Nat → Nat → Bool

/-- The loaded register is lost to a write made before the load's completion (07 R194): true keeps the written value. -/
opaque keepWrite : Nat → Bool

/-- Correctly rounded FSPC result that the model's bounded interval refinement could not settle: entry word, op, element, mode, seed. -/
opaque specialResult : Word → Nat → Nat → Nat → Word → Nat

/-- Which of several candidates the device takes where the choice is its own: the use's number, and how many candidates. -/
opaque choice : Nat → Nat → Nat

/-- A peer's import table or home slice refuses a request (13 R369): VD, physical address, write, number of the request. -/
opaque peerRefuses : Nat → Nat → Bool → Nat → Bool

/-- Calibrated trim steps of an island at a point (09 R255). -/
opaque trim : Nat → Nat → Nat

/-- Energy that a regulator has measured, in units of 64 qpJ (09 R245), and remaining life in hours that an ageing monitor reports (11 R320):
domain or cluster, and the use's number. -/
opaque measured : Nat → Nat → Nat
opaque lifeHours : Nat → Nat → Nat

/-- CORR of a meter record whose EST is 0 or whose MEAS is negative, where R261's quotient is not defined. -/
opaque recordCorr : Int → Nat → Nat

/-- The 96 bytes of an ECDSA P-384 signature (r, s) under the attestation key, over these bytes (09 R261, 13 R359). -/
opaque sign : List Byte → List Byte

/-- SHA-384 as a number (13 R358). -/
opaque sha384 : List Byte → BitVec 384

/-- SHA-384 of boot stage 1 to 4: ROM, security processor, command processor and power controller firmware (13 R358); of the configuration: the
weights, with the pool tables and trims of this reset. -/
opaque stageDigest : Nat → BitVec 384
opaque configDigest : List Nat → BitVec 384

/-- Address in a new image at which a processor resumes from its safe point (13 R363): the image, the processor, its old pc. -/
opaque resumePc : Nat → Nat → Nat → Nat

/-- A signature of the device's authorities verifies: the kind of what is signed, the signed value, the signature (13 R360, R361, R363). -/
opaque authentic : Nat → Nat → Nat → Bool

/-- SHA-384 of the device identity public key (13 R361). -/
opaque deviceId : BitVec 384

/-- Minor and patch number of the firmware bundle (12 R343), by position 1 and 2. -/
opaque bundle : Nat → Nat

/-- Survey weight word of a table row whose weight has several parts (12 R343): the row, its parts. -/
opaque weightWord : Nat → List Nat → Nat

/-- The 256-bit keys that a draw of the security processor's random source gives a key slot: KE (false), KA (true) (11 R297). -/
opaque sealKey : Nat → Nat → Bool → BitVec 256

/-- Payload of a request or write-data flit, whose layout is not stated (13 R365, R369): package, VD, address, write. -/
opaque requestPayload : Nat → Nat → Nat → Bool → Nat

end Sys2Proof.Config
end

