-- ==== Sys2Proof/Syntax.lean ====
section
/-! DEFINITION. The instructions of the convoys (14 R370-R384), the Xfolale instructions of the firmware
processors (13 R353) and the events of the device: one constructor per row of spec/opcode_table.json.
Fields hold the encoded field values as numbers; WellFormed.lean gives their ranges and reserved values.
Events have no encoding; their parameters say to which unit the event happens and, where the environment decides it, with what value. -/

namespace Sys2Proof

/-- One row of the opcode table each; rows with operands first, rows without after them. -/
inductive Instr where
  /-- IADD R443: Adds the elements of vA and xB modulo 2^w in each active member. -/
  | iadd (d a b g m : Nat)
  /-- ISUB R443: Subtracts the elements of xB from vA modulo 2^w in each active member. -/
  | isub (d a b g m : Nat)
  /-- IMUL R443: Writes the low half of the elementwise product of vA and xB. -/
  | imul (d a b g m : Nat)
  /-- IMULH R443: Writes the high half of the signed elementwise product. -/
  | imulh (d a b g m : Nat)
  /-- IMULHU R443: Writes the high half of the unsigned elementwise product. -/
  | imulhu (d a b g m : Nat)
  /-- IMAD R443: Writes a times b plus the old D element modulo 2^w. -/
  | imad (d a b g m : Nat)
  /-- IMIN R443: Writes the signed lesser of each element pair. -/
  | imin (d a b g m : Nat)
  /-- IMAX R443: Writes the signed greater of each element pair. -/
  | imax (d a b g m : Nat)
  /-- IMINU R443: Writes the unsigned lesser of each element pair. -/
  | iminu (d a b g m : Nat)
  /-- IMAXU R443: Writes the unsigned greater of each element pair. -/
  | imaxu (d a b g m : Nat)
  /-- IADDS R443: Adds elements with signed saturation. -/
  | iadds (d a b g m : Nat)
  /-- ISUBS R443: Subtracts elements with signed saturation. -/
  | isubs (d a b g m : Nat)
  /-- IABS R443: Writes the absolute value of each signed element of vA modulo 2^w. -/
  | iabs (d a g m : Nat)
  /-- AND R402: Writes the 64-bit AND of vA and xB. -/
  | andl (d a b g : Nat)
  /-- OR R471: Writes the 64-bit OR of vA and xB. -/
  | orl (d a b g : Nat)
  /-- XOR R471: Writes the 64-bit XOR of vA and xB. -/
  | xorl (d a b g : Nat)
  /-- ANDN R402: Writes vA AND NOT xB over 64 bits. -/
  | andnl (d a b g : Nat)
  /-- SHL R481: Shifts each element left by xB mod w. -/
  | shl (d a b g m : Nat)
  /-- SHR R481: Shifts each element right logically by xB mod w. -/
  | shr (d a b g m : Nat)
  /-- SAR R481: Shifts each element right arithmetically by xB mod w. -/
  | sar (d a b g m : Nat)
  /-- ROL R481: Rotates each element left by xB mod w. -/
  | rol (d a b g m : Nat)
  /-- POPC R473: Writes the population count of each element. -/
  | popc (d a g m : Nat)
  /-- CLZ R413: Writes the leading-zero count of each element. -/
  | clz (d a g m : Nat)
  /-- BREV R413: Writes the bit-reversed value of each element. -/
  | brev (d a g m : Nat)
  /-- ICMP R445: Writes an all-ones or zero mask per element from an integer comparison. -/
  | icmp (d a b c m : Nat)
  /-- SEL R482: Writes vA or xB in each member according to predicate qG. -/
  | sel (d a b q : Nat)
  /-- MOV R463: Copies xB into vD. -/
  | mov (d b g : Nat)
  /-- PERM R472: Permutes the bytes of vA and xB under the byte selectors held in vD. -/
  | perm (d a b g : Nat)
  /-- MOVI R464: Writes a sign-extended 16-bit immediate into every element of vD. -/
  | movi (d i m : Nat)
  /-- MOVX R465: Writes a 32-bit immediate into the low or high half of vD, or sign-extends it into all of vD. -/
  | movx (d m imm : Nat)
  /-- BFX R410: Extracts a bit field of vA, optionally sign-extended. -/
  | bfx (d a b g s : Nat)
  /-- BFI R410: Inserts a bit field of vA into vD. -/
  | bfi (d a b g : Nat)
  /-- FADD R425: Adds elements exactly and rounds once into entry Fn. -/
  | fadd (d a b g n : Nat)
  /-- FSUB R425: Subtracts elements exactly and rounds once into entry Fn. -/
  | fsub (d a b g n : Nat)
  /-- FMUL R425: Multiplies elements exactly and rounds once into entry Fn. -/
  | fmul (d a b g n : Nat)
  /-- FFMA R431: Computes a times b plus d exactly and rounds once per element. -/
  | ffma (d a b g n : Nat)
  /-- FFMS R431: Computes a times b minus d exactly and rounds once per element. -/
  | ffms (d a b g n : Nat)
  /-- FMIN R425: Writes the lesser element under the ordering of R426. -/
  | fmin (d a b g n : Nat)
  /-- FMAX R425: Writes the greater element under the ordering of R426. -/
  | fmax (d a b g n : Nat)
  /-- FCMP R428: Writes an all-ones or zero mask per element from a float comparison. -/
  | fcmp (d a b c n : Nat)
  /-- FSGN R433: Applies a sign operation to each element value and rounds it into Fn. -/
  | fsgn (d a b o n : Nat)
  /-- FSPC R434: Computes a correctly rounded special function of each element. -/
  | fspc (d a o n : Nat)
  /-- FCLASS R427: Writes the class mask of element e of vA. -/
  | fclass (d a e n : Nat)
  /-- CVT R420: Converts a part of a source register span from entry Fs to entry Fd. -/
  | cvt (d a s p g f : Nat)
  /-- CVTI R420: Converts entry Fs elements to signed integers of width code M. -/
  | cvti (d a s p g m : Nat)
  /-- CVTF R420: Converts signed integers of a width code to entry Fd. -/
  | cvtf (d a w p g f : Nat)
  /-- FDOT R429: Adds the dot products of narrow inputs into each wider destination element with one rounding. -/
  | fdot (d a b i f : Nat)
  /-- SHFL R483: Reads xB from a selected source lane, rotated, and writes a presence predicate. -/
  | shfl (d a b q m : Nat)
  /-- VOTE R501: Evaluates a predicate over the named present lanes and reports absent lanes. -/
  | vote (d b q m : Nat)
  /-- SCAN R476: Writes an inclusive or exclusive integer prefix combination over the present lanes. -/
  | scan (d a x o m : Nat)
  /-- SCAN_FADD R477: Writes a float prefix sum over the present lanes, rounding at each step. -/
  | scanFadd (d a n x : Nat)
  /-- RED R476: Writes the integer combination of all present lanes to every member. -/
  | red (d a o m : Nat)
  /-- RED_FADD R477: Writes the float sum of all present lanes in ascending lane order to every member. -/
  | redFadd (d a n : Nat)
  /-- QOP R474: Combines predicates into predicate qd. -/
  | qop (d a b g m : Nat)
  /-- MOVQ_TO_PREDICATE R466: Sets predicate qd to 1 when vA is nonzero. -/
  | movqToPredicate (q a g : Nat)
  /-- MOVQ_TO_VECTOR R466: Writes predicate qa, zero-extended, into vD. -/
  | movqToVector (d q g : Nat)
  /-- LD R451: Loads 8 to 512 bits per member through a buffer record into vector registers. -/
  | ld (v i k o w : Nat)
  /-- ST R489: Stores 8 to 512 bits per member through a buffer record. -/
  | st (v i k o w : Nat)
  /-- AADD R396: Atomically adds vS to a memory word at the place its scope names. -/
  | aadd (v i k sr w scope order n : Nat)
  /-- AAND R396: Atomically ANDs vS into a memory word. -/
  | aand (v i k sr w scope order n : Nat)
  /-- AOR R396: Atomically ORs vS into a memory word. -/
  | aor (v i k sr w scope order n : Nat)
  /-- AXOR R396: Atomically XORs vS into a memory word. -/
  | axor (v i k sr w scope order n : Nat)
  /-- AMIN R396: Atomically writes the signed minimum of vS and a memory word. -/
  | amin (v i k sr w scope order n : Nat)
  /-- AMAX R396: Atomically writes the signed maximum of vS and a memory word. -/
  | amax (v i k sr w scope order n : Nat)
  /-- AMINU R396: Atomically writes the unsigned minimum of vS and a memory word. -/
  | aminu (v i k sr w scope order n : Nat)
  /-- AMAXU R396: Atomically writes the unsigned maximum of vS and a memory word. -/
  | amaxu (v i k sr w scope order n : Nat)
  /-- AXCHG R396: Atomically exchanges vS with a memory word. -/
  | axchg (v i k sr w scope order n : Nat)
  /-- ACAS R396: Atomically writes vS when the memory word equals the compare value in vV. -/
  | acas (v i k sr w scope order n : Nat)
  /-- AFADD R398: Atomically adds a float value to a memory word, rounding under entry Fn. -/
  | afadd (v i k sr w scope order f n : Nat)
  /-- MSIGN R130: Deposits each member's rows of A, and optionally block scales, into a waypoint latch. -/
  | msign (v w n f s : Nat)
  /-- GADD R437: Adds two g registers modulo 2^64. -/
  | gadd (d a b : Nat)
  /-- GSUB R437: Subtracts two g registers modulo 2^64. -/
  | gsub (d a b : Nat)
  /-- GMUL R437: Multiplies two g registers modulo 2^64. -/
  | gmul (d a b : Nat)
  /-- GAND R437: Writes the AND of two g registers. -/
  | gand (d a b : Nat)
  /-- GOR R437: Writes the OR of two g registers. -/
  | gor (d a b : Nat)
  /-- GXOR R437: Writes the XOR of two g registers. -/
  | gxor (d a b : Nat)
  /-- GSHL R437: Shifts a g register left by gB[5:0]. -/
  | gshl (d a b : Nat)
  /-- GSHR R437: Shifts a g register right logically by gB[5:0]. -/
  | gshr (d a b : Nat)
  /-- GSAR R437: Shifts a g register right arithmetically by gB[5:0]. -/
  | gsar (d a b : Nat)
  /-- GMIN R437: Writes the signed lesser of two g registers. -/
  | gmin (d a b : Nat)
  /-- GMAX R437: Writes the signed greater of two g registers. -/
  | gmax (d a b : Nat)
  /-- GSEL R437: Writes gA when gT is nonzero, otherwise gB. -/
  | gsel (d a b t : Nat)
  /-- GADDI R438: Adds a signed 13-bit immediate to a g register. -/
  | gaddi (d a i : Nat)
  /-- GMOVI R438: Writes a sign-extended 19-bit immediate into a g register. -/
  | gmovi (d i : Nat)
  /-- GLUI R438: Shifts gD left by 19 and ORs in an unsigned 19-bit immediate. -/
  | glui (d i : Nat)
  /-- GRDL R439: Reads vA of the member in lane n into gD, or zero when that lane is absent. -/
  | grdl (d a n : Nat)
  /-- BR R411: Branches each member on its predicate and may split the convoy. -/
  | br (q n d : Nat)
  /-- BRG R411: Branches the whole convoy on a condition of a g register. -/
  | brg (a c d : Nat)
  /-- JMP R448: Continues each member at the address in its vA, grouping members by target. -/
  | jmp (a : Nat)
  /-- CALL R411: Branches to the target and writes the return address into v63 of every member. -/
  | call (d : Nat)
  /-- JOIN R55: Passes the convoy on, or parks all its members in the layby of the next address. -/
  | join (n : Nat)
  /-- SPAWN R62: Creates one child thread per selected lane as a new cohort spilled to an entry's layby. -/
  | spawn (e s a : Nat)
  /-- TRAP R499: Faults every member with TRAP_INSTRUCTION and a program code. -/
  | trap (c : Nat)
  /-- ERET R286: Returns handler members to TRPC, or past the faulting instruction with .SKIP, and ends the convoy. -/
  | eret (s : Nat)
  /-- BARI R405: Arms a barrier with an expected arrival count and a transaction byte count. -/
  | bari (b a c : Nat)
  /-- BARA R406: Performs a release and then counts the convoy's members as arrivals at a barrier. -/
  | bara (b : Nat)
  /-- BARW R408: Holds the convoy until the barrier's phase differs from the given parity, then acquires. -/
  | barw (b a : Nat)
  /-- BART R407: Adds a signed byte count to a barrier's TXBYTES. -/
  | bart (b a : Nat)
  /-- SYNCM R71: Parks each member in its cohort's sync record until every lane of the mask has arrived. -/
  | syncm (a : Nat)
  /-- MLWAIT R458: Holds until milestone m reaches gA, then acquires at device scope. -/
  | mlwait (a m : Nat)
  /-- MLPASS R457: Releases at device scope and sends a pass that raises milestone m to gA. -/
  | mlpass (a m : Nat)
  /-- WAIT R196: Holds the convoy until every member's outstanding counters are at or below the thresholds. -/
  | wait (l s c t : Nat)
  /-- FENCE R200: Performs a release, an acquire or both at a scope over the named kinds. -/
  | fence (s k d : Nat)
  /-- TFENCE R496: Waits for earlier stores and invalidates the context's TLB entries within a scope. -/
  | tfence (s : Nat)
  /-- IFENCE R446: Waits for earlier stores and invalidates the instruction paths within a scope. -/
  | ifence (s : Nat)
  /-- TAKE R78: Asks the run's signpost for the next work coordinate. -/
  | take (d : Nat)
  /-- HPUT R75: Appends gA to handoff queue n, holding while the queue is full. -/
  | hput (a n : Nat)
  /-- HGET R75: Takes the head of handoff queue n into gD, holding while the queue is empty. -/
  | hget (d n : Nat)
  /-- CPY R414: Queues a copy of contiguous record elements between global memory and stage memory. -/
  | cpy (c s x dir k cmp bar : Nat)
  /-- CPYG R414: Queues a gather or scatter copy driven by an index list in stage memory. -/
  | cpyg (c s x dir k cmp bar : Nat)
  /-- CPYT R149: Queues a raw byte copy between stage memory and the operand buffer or tile store. -/
  | cpyt (t a tgt dir cmp bar len row : Nat)
  /-- RESV R133: Creates a reservation record of operand-buffer units for a B operand. -/
  | resv (u c b bs s n bl soff : Nat)
  /-- RELS_UNIT R135: Ends the reservation whose FIRST is unit U. -/
  | relsUnit (u : Nat)
  /-- RELS_WAYPOINT R131: Discards the deposits of waypoint wN's A latch. -/
  | relsWaypoint (n : Nat)
  /-- MMA R137: Queues one matrix multiply-accumulate on the issuing core's engine. -/
  | mma (d a b ba keep u cmp bar rf : Nat)
  /-- MMAB R139: Queues paired matrix operations on both cores of a cluster sharing one B operand. -/
  | mmab (d a b ba keep u cmp bar rf : Nat)
  /-- MMAJ R140: Queues this crew's part of a joint matrix operation across four clusters. -/
  | mmaj (d a b ba keep u cmp bar rf : Nat)
  /-- TZERO R146: Queues an entry that writes +0 to every element of an accumulator. -/
  | tzero (d : Nat)
  /-- TLD R148: Queues a converting load of accumulator elements into vector registers. -/
  | tld (d a acc c n : Nat)
  /-- TST R148: Queues a converting store of vector register elements into an accumulator. -/
  | tst (d a acc c n cmp bar : Nat)
  /-- FMTW R106: Writes format entry Fn from gA after checking its legality. -/
  | fmtw (a n : Nat)
  /-- FMTR R106: Reads format entry Fn into gD. -/
  | fmtr (d n : Nat)
  /-- SRR R94: Reads a system register into a v or g register. -/
  | srr (d n : Nat)
  /-- SRW R94: Writes a system register from a v or g register. -/
  | srw (a n : Nat)
  /-- TCLAIM R232: Sets the convoy's token holding to its grant, collecting any shortfall. -/
  | tclaim (n : Nat)
  /-- XRFETCH R354: Reads a queue's packet slot at HEAD into local SRAM and reports its validity. -/
  | xrfetch (b a d : Nat)
  /-- XBFEXT R354: Extracts a zero-extended bit field of rs1. -/
  | xbfext (l p a d : Nat)
  /-- XSWAIT R354: Waits for any of the selected firmware signals or a timeout. -/
  | xswait (b a d : Nat)
  /-- XDISP R354: Hands a launch order to a core's context engine. -/
  | xdisp (a d : Nat)
  /-- XMEAS R354: Reads and restarts a domain's measured energy integral. -/
  | xmeas (a d : Nat)
  /-- XSWAIT_RETURN R354: A waiting XSWAIT returns when a selected signal rises or its timeout expires. -/
  | xswaitReturn (proc : Nat)
  /-- EVACK_WRITE R329: A write to EVACK frees event-ring slots and lets kept events be written. -/
  | evackWrite (val : Nat)
  /-- KICK R334: A kick register write proposes a new TAIL for a queue. -/
  | kick (vd q val : Nat)
  /-- REARM R334: A kick write with bit 63 set clears FAULT and resumes fetching. -/
  | rearm (vd q val : Nat)
  /-- QUEUE_DRAIN R270: Writing DRAIN moves a running launch queue to draining. -/
  | queueDrain (vd q val : Nat)
  /-- QUEUE_RESUME R270: Writing RESUME moves a draining or drained queue to running. -/
  | queueResume (vd q val : Nat)
  /-- QUEUE_ENABLE R333: Setting EN in a queue record checks it, translates KICKVA and resets HEAD, TAIL and FAULT. -/
  | queueEnable (vd q val : Nat)
  /-- QUEUE_DISABLE R333: Clearing EN stops fetching once the current packet is admitted or completed. -/
  | queueDisable (vd q val : Nat)
  /-- POINT_REQUEST R256: A write of REQ to an island's point register requests a new operating point. -/
  | pointRequest (vd cluster val : Nat)
  /-- POOL_TABLE_WRITE R220: Firmware rewrites an island's pool table, changing P when the current entry changes. -/
  | poolTableWrite (island point val : Nat)
  /-- REGISTER_WRITE R7: A write to a register with no behaviour of its own stores its writable fields. -/
  | registerWrite (fn off size val : Nat)
  /-- ISLAND_POWER_UP R217: A powered-up island's mint places the whole pool in the bin at stop 0 and the ring starts. -/
  | islandPowerUp (island : Nat)
  /-- RING_CYCLE R216: Each island cycle the ring moves its bins and runs claims, returns, mint, collection and issue. -/
  | ringCycle (island : Nat)
  /-- CLAIM_OPEN R235: A demand unmet for 20 island cycles opens a claim, gathering collectors and revoking holdings. -/
  | claimOpen (island stop : Nat)
  /-- HOLD_WINDOW_END R224: When an instruction's hold window ends its tokens are given up by Return. -/
  | holdWindowEnd (island : Nat)
  /-- TCLAIM_COMPLETE R232: A held TCLAIM completes when its collector holds the shortfall. -/
  | tclaimComplete (convoy : Nat)
  /-- SPILL_RETRY R49: An event waiting on a full layby table retries its spills each core cycle. -/
  | spillRetry (convoy : Nat)
  /-- FORMER R52: Each core cycle each layby table's former forms at most one convoy. -/
  | former (core quad slot : Nat)
  /-- FORMATION_WAIT_EXPIRY R51: A layby's age reaching the formation wait makes it ready, and W + 64 makes it overdue. -/
  | formationWaitExpiry (core quad slot addr : Nat)
  /-- BARA_ARRIVE R406: After its release is done a BARA counts its members as arrivals. -/
  | baraArrive (convoy : Nat)
  /-- BARW_RELEASE R408: A held BARW is released by a phase completion and performs its acquire. -/
  | barwRelease (convoy : Nat)
  /-- MLPASS_RECORD R457: The signpost unit records a pass as the maximum of the milestone and its value. -/
  | mlpassRecord (run : Nat)
  /-- MLWAIT_RELEASE R458: A held MLWAIT is released when its milestone reaches its value and then acquires. -/
  | mlwaitRelease (convoy : Nat)
  /-- WAIT_RELEASE R196: A held WAIT releases when every member's counters fall to their thresholds. -/
  | waitRelease (convoy : Nat)
  /-- FENCE_COMPLETE R197: A held FENCE completes once its counters are zero, its drain done and its L1 invalidated. -/
  | fenceComplete (convoy : Nat)
  /-- TFENCE_COMPLETE R174: TFENCE completes when accesses translated through invalidated entries are performed. -/
  | tfenceComplete (convoy : Nat)
  /-- IFENCE_COMPLETE R209: IFENCE completes when every convoy in scope has finished earlier fetches. -/
  | ifenceComplete (convoy : Nat)
  /-- HPUT_PERFORM R441: A held HPUT is performed when its queue frees an entry. -/
  | hputPerform (convoy : Nat)
  /-- HGET_PERFORM R441: A held HGET is performed when its queue gains an entry. -/
  | hgetPerform (convoy : Nat)
  /-- TAKE_RETURN R494: The signpost hands out the next index and writes gD of the waiting TAKE. -/
  | takeReturn (convoy : Nat)
  /-- SPAWN_COMPLETE R62: A held SPAWN creates its children once its release, rows, cohort number and layby room are available. -/
  | spawnComplete (convoy : Nat)
  /-- ROW_FREE R65: An exiting thread's row frees once its loads and TLDs have completed. -/
  | rowFree (thread : Nat)
  /-- REGION_WRITEBACK R424: After a crew's engine work and stores complete its out-regions are written back. -/
  | regionWriteback (crew : Nat)
  /-- RUN_COMPLETE R272: A run whose crews ended and write-backs performed writes its event word, lowers ACTIVE and writes its completion record. -/
  | runComplete (run : Nat)
  /-- FETCH_SLOT R336: The fetcher reads the packet slot at HEAD while HEAD differs from TAIL. -/
  | fetchSlot (vd q : Nat)
  /-- FETCH_RETRY R336: After 1 us the fetcher rereads a slot whose mark or check failed, faulting after four retries. -/
  | fetchRetry (vd q : Nat)
  /-- EVENT_WAIT_EVAL R271: Pending runs' event waits are evaluated on run completion and every 1 us. -/
  | eventWaitEval (part : Nat)
  /-- DISPATCH R273: The partition's dispatcher places the highest-priority ready run or saved context. -/
  | dispatch (part : Nat)
  /-- CREW_START R277: After its staging completes a crew starts its launch cohorts. -/
  | crewStart (crew : Nat)
  /-- STREAM_OUT R279: The context engine stops, drains and saves a context's crew image. -/
  | streamOut (crew : Nat)
  /-- STREAM_IN R279: The context engine reads a crew image back and resumes the context. -/
  | streamIn (crew core slot : Nat)
  /-- RESELECT R254: A core reselects its running context every 4,096 cycles, on drying or on lack of issuable work. -/
  | reselect (core : Nat)
  /-- RESIDENCY_TIMEOUT R278: A context resident 50 ms while an equal or higher priority context waits is streamed out. -/
  | residencyTimeout (core ctx : Nat)
  /-- LEASE_ANSWER R250: The bucket's grant or refusal reaches the meter unit. -/
  | leaseAnswer (core ctx : Nat)
  /-- CORRECT R245: At the end of a correction interval the residual is apportioned and CF updated. -/
  | correct (dom measured : Nat)
  /-- LIMIT_BIND_CHANGE R258: The sustained limit begins or stops binding on the 1 ms power average. -/
  | limitBindChange (watts : Nat)
  /-- POOL_HALVE R258: When the 2 us power average exceeds 3,400 W every island's pool entry is halved. -/
  | poolHalve (watts : Nat)
  /-- POOL_RESTORE R258: When the 10 us average falls below 3,200 W the pool entries are restored. -/
  | poolRestore (watts : Nat)
  /-- BUDGET_WINDOW R259: At each 4,096-slice-cycle window USED clears and waiting requests are served. -/
  | budgetWindow (slice : Nat)
  /-- POINT_CHANGE_COMPLETE R257: An island's new clock takes effect, changing CUR and its pool. -/
  | pointChangeComplete (island : Nat)
  /-- PLOBRIT_EPOCH R263: Each 1 ms epoch a rack member sends its budget message and computes the next allocation. -/
  | plobritEpoch (demand : Nat)
  /-- SILENT_MEMBER R265: After 3 epochs without a member's message the package falls back to a conservative limit. -/
  | silentMember (pkg : Nat)
  /-- BUDGET_MESSAGE R263: A budget message flit from a rack member is received. -/
  | budgetMessage (pkg epoch demand weight group : Nat)
  /-- LOAD_COMPLETE R452: A load's data returns and its destination registers and OCL are updated. -/
  | loadComplete (id part : Nat)
  /-- STORE_PERFORMED R189: A store line is written at its home slice, bank, host or peer and OCS falls. -/
  | storePerformed (id : Nat)
  /-- ATOMIC_PERFORMED R397: An atomic is read and written at its place and its acquire, if any, follows. -/
  | atomicPerformed (id : Nat)
  /-- SIDE_LOG_REPLAY R178: A side-log entry is walked again and performed, kept or discarded with a context fault. -/
  | sideLogReplay (core ctx page : Nat)
  /-- MATRIX_ENTRY_START R141: A queue entry at the head with its toll collected starts on its engine. -/
  | matrixEntryStart (core : Nat)
  /-- MATRIX_ENTRY_COMPLETE R142: A matrix or tile entry completes, decrementing OCT and updating its barrier. -/
  | matrixEntryComplete (core : Nat)
  /-- COPY_START R415: A copy at the head of the copy queue with its toll collected starts. -/
  | copyStart (core : Nat)
  /-- COPY_COMPLETE R416: A copy completes, decrementing OCC and updating its barrier. -/
  | copyComplete (core : Nat)
  /-- MSC_SERVE R166: A slice serves a request, allocating, filling or writing back tiles by policy. -/
  | mscServe (id : Nat)
  /-- RESEAL_TILE R306: A slice's reseal engine moves its next tile of the slot to the new generation. -/
  | resealTile (slot slice : Nat)
  /-- RESEAL_END R306: When every slice has finished firmware destroys the previous generation. -/
  | resealEnd (slot : Nat)
  /-- FW_SRAM_UNCORRECTABLE R351: An uncorrectable firmware-processor SRAM error halts it and fails the device. -/
  | fwSramUncorrectable (proc : Nat)
  /-- TRANSFER_ACTIVATE R315: The controller activates the oldest queued transfer whose bank and bus slot are free. -/
  | transferActivate (pc cycle : Nat)
  /-- TILE_TRANSFER_COMPLETE R315: A tile transfer's last burst ends and its bank frees. -/
  | tileTransferComplete (pc bank cycle : Nat)
  /-- REFRESH_DUE R316: Every 341 controller cycles a refresh comes due and is issued, postponed or forced. -/
  | refreshDue (pc cycle : Nat)
  /-- PSEUDO_CHANNEL_IDLE R316: After 512 idle cycles a pseudo-channel starts paying owed refreshes. -/
  | pseudoChannelIdle (pc cycle : Nat)
  /-- REFPB_ISSUE R316: A per-bank refresh issues once its bank is free. -/
  | refpbIssue (pc cycle : Nat)
  /-- REFAB_ISSUE R316: A forced all-bank refresh issues once every bank is free. -/
  | refabIssue (pc cycle : Nat)
  /-- REFAB_END R316: An all-bank refresh ends after tRFCab and activates may issue again. -/
  | refabEnd (pc cycle : Nat)
  /-- SCRUB_PASS_START R319: Every 24 hours a slice starts a patrol scrub pass. -/
  | scrubPassStart (slice : Nat)
  /-- SCRUB_TILE R319: A slice scrubs its next tile, rewriting corrected bursts. -/
  | scrubTile (slice result : Nat)
  /-- CLUSTER_RETIRE R16: A cluster marked for retirement is retired once no context is resident. -/
  | clusterRetire (cluster : Nat)
  /-- WEAR_MONITOR_UPDATE R320: An island's ageing monitor updates its prediction and may trigger a wear notice. -/
  | wearMonitorUpdate (cluster hours : Nat)
  /-- SURVEY_UPDATE R342: Firmware updates the survey window in place under the GEN protocol. -/
  | surveyUpdate (elapsed : Nat)
  /-- HOST_MEM_REQUEST R322: A host CXL.mem request in an HDM window is served with an ownership check. -/
  | hostMemRequest (addr write val : Nat)
  /-- HOST_TIMEOUT R323: A host request unanswered for 50 ms stops its context. -/
  | hostTimeout (ctx : Nat)
  /-- LOCK_INTERFACE R332: A TDISP lock moves a VD to CONFIG_LOCKED after earlier changes. -/
  | lockInterface (vd ide : Nat)
  /-- START_INTERFACE R331: A TDISP message moves a locked VD to RUN. -/
  | startInterface (vd : Nat)
  /-- STOP_INTERFACE R331: Unlocking returns a VD to CONFIG_UNLOCKED and clears REFUSED. -/
  | stopInterface (vd : Nat)
  /-- INTERFACE_ERROR R331: A move to ERROR stops every context of the VD with LINK_LOST. -/
  | interfaceError (vd : Nat)
  /-- UNLOCK_TOKEN R362: A valid unlock token destroys tenant keys, zeroes frames and opens the debug port. -/
  | unlockToken (token : Nat)
  /-- DEPLOY_COMMAND R360: A signed deploy command moves the device from manufacturing to deployed. -/
  | deployCommand (signature : Nat)
  /-- DECOMMISSION_COMMAND R360: A signed decommission command moves the device to decommissioned. -/
  | decommissionCommand (signature : Nat)
  /-- HANDOVER_STAGE R363: A staged firmware image is verified, measured into block 7 and the hand-over signalled. -/
  | handoverStage (kind image signature : Nat)
  /-- SAFE_POINT R363: A firmware processor reaches its safe point, and the last one triggers the commit point. -/
  | safePoint (proc : Nat)
  /-- FLIT_RECEIVE R366: A fabric flit is received, checked and delivered in order or discarded with a NAK. -/
  | flitReceive (port header payload crc laneBad : Nat)
  /-- NAK R366: A received NAK makes the sender replay from the oldest unacknowledged flit. -/
  | nak (port seq laneBad : Nat)
  /-- ACK_TIMEOUT R366: No ACK for 1 us makes the sender replay. -/
  | ackTimeout (port : Nat)
  /-- FREEZE_END R367: The spare lane is in place and transmit resumes in SPARED. -/
  | freezeEnd (port : Nat)
  /-- FREEZE_TIMEOUT R367: A freeze longer than 2 us takes the port DOWN. -/
  | freezeTimeout (port : Nat)
  /-- FABRIC_REQUEST R369: A peer request is mapped through the import table and checked at the home slice. -/
  | fabricRequest (port pkg vd addr write val : Nat)
  /-- ISLAND_POWER_DOWN R217: An island is powered down, its pool goes to 0 and its ring holds no tokens. -/
  | islandPowerDown (island : Nat)
  /-- CORE_CLOCK_GATE R9: A core is clock-gated and its core clock stops while the island clock runs on. -/
  | coreClockGate (core : Nat)
  /-- CORE_CLOCK_UNGATE R9: A clock-gated core's clock restarts. -/
  | coreClockUngate (core : Nat)
  /-- POISONED_FRAME_RETIRE R311: Firmware retires the frame of a poisoned tile by a shoot-down and by setting its owner to 0 permanently. -/
  | poisonedFrameRetire (frame : Nat)
  /-- RET R480: Continues each member at its v63, as JMP v63 does. -/
  | ret
  /-- EXIT R65: Ends every member of the convoy and the convoy itself. -/
  | exit
  /-- BRK R423: Faults every member with BREAKPOINT. -/
  | brk
  /-- NOP R470: Advances the PC and changes nothing else. -/
  | nop
  /-- YIELD R503: Resets the convoy's age to the current core cycle. -/
  | yield
  /-- TFREE R233: Ends the convoy's token holding. -/
  | tfree
  /-- CONTEXT_CREATE R328: Mailbox command 0x01 with CONTEXT all ones creates a context record and returns its number. -/
  | contextCreate
  /-- CONTEXT_REWRITE R328: Mailbox command 0x01 naming a context rewrites its record while it is resident nowhere. -/
  | contextRewrite
  /-- BUCKET_DEPOSIT R249: Mailbox command 0x02 deposits energy into a context's bucket up to CAP. -/
  | bucketDeposit
  /-- BUCKET_CAP_WRITE R248: Mailbox command 0x03 with bit 0 set writes a bucket's CAP. -/
  | bucketCapWrite
  /-- BUCKET_SHARE_WRITE R248: Mailbox command 0x03 with bit 1 set writes a bucket's SHARE. -/
  | bucketShareWrite
  /-- BUCKET_READ R327: Mailbox command 0x03 with no write bit returns LEVEL, CAP and SHARE. -/
  | bucketRead
  /-- SET_ALLOW R256: Mailbox command 0x04 sets the permitted operating points of an island. -/
  | setAllow
  /-- WAY_MASK_WRITE R167: Mailbox command 0x05 writes a way-mask record into all 16 slices. -/
  | wayMaskWrite
  /-- HDM_BIND R322: Mailbox command 0x06 operation 0 binds an HDM window to a VD. -/
  | hdmBind
  /-- HDM_MOVE R322: Mailbox command 0x06 operation 1 moves an HDM window. -/
  | hdmMove
  /-- HDM_CLEAR R322: Mailbox command 0x06 operation 2 clears an HDM window. -/
  | hdmClear
  /-- SET_SUSTAINED_LIMIT R26: Mailbox command 0x07 operation 0 sets the package sustained limit. -/
  | setSustainedLimit
  /-- SET_RACK_CAP R263: Mailbox command 0x07 operation 1 sets the rack cap, group, epoch and weight. -/
  | setRackCap
  /-- METER_RECORD_REQUEST R262: Mailbox command 0x08 writes a signed meter record of an account to host memory. -/
  | meterRecordRequest
  /-- STREAM_OUT_ORDER R278: Mailbox command 0x09 orders a context streamed out of one core or every core. -/
  | streamOutOrder
  /-- VD_DRAIN_SET R349: Mailbox command 0x0A sets a drain over one VD. -/
  | vdDrainSet
  /-- VD_DRAIN_CLEAR R349: Mailbox command 0x0A clears a VD drain and resumes its queues. -/
  | vdDrainClear
  /-- DEVICE_DRAIN_SET R349: Mailbox command 0x0A sets a drain over the whole device. -/
  | deviceDrainSet
  /-- DEVICE_DRAIN_CLEAR R349: Mailbox command 0x0A clears the device drain. -/
  | deviceDrainClear
  /-- PAGE_RESUME R180: Mailbox command 0x0B with verdict 0 resumes held accesses and replays of a context's page. -/
  | pageResume
  /-- PAGE_INVALID R287: Mailbox command 0x0B with verdict 1 stops the context with PAGE_NOT_PRESENT. -/
  | pageInvalid
  /-- FRAME_OWNER_CHANGE R175: Mailbox command 0x0C shoots down frames, zero-fills them under the new owner and commits the owner change. -/
  | frameOwnerChange
  /-- PARTITION_CREATE R328: Mailbox command 0x0D operation 0 creates a partition from free enabled clusters. -/
  | partitionCreate
  /-- PARTITION_DESTROY R328: Mailbox command 0x0D operation 1 destroys an empty partition. -/
  | partitionDestroy
  /-- VD_ATTACH R328: Mailbox command 0x0E attaches a VD to a partition. -/
  | vdAttach
  /-- VD_DETACH R328: Mailbox command 0x0E with partition 0xFF detaches a VD. -/
  | vdDetach
  /-- IMPORT_WRITE R369: Mailbox command 0x0F writes a fabric import-table entry. -/
  | importWrite
  /-- IMPORT_CLEAR R369: Mailbox command 0x0F clears a fabric import-table entry. -/
  | importClear
  /-- CONTEXT_DESTROY R328: Mailbox command 0x10 destroys a context with no runs, images or side-log entries. -/
  | contextDestroy
  /-- EVENT_RING_ENABLE R328: Mailbox command 0x11 with enable set starts or moves the event ring. -/
  | eventRingEnable
  /-- EVENT_RING_DISABLE R328: Mailbox command 0x11 with enable clear stops writing the event ring. -/
  | eventRingDisable
  /-- DEVICE_RESET R7: Device reset returns every register and unit to its reset value. -/
  | deviceReset
  /-- DISPATCH_WINDOW R260: At the end of each 1 ms window deficits rise and queues are paused or unpaused. -/
  | dispatchWindow
  /-- SOFT_ERROR_WINDOW R318: Each 3,600 s window of uptime restarts the correction counts. -/
  | softErrorWindow
  /-- LINK_LOST R323: The CXL link going down stops every context and every queue. -/
  | linkLost
  /-- GET_MEASUREMENTS R359: An SPDM request returns signed measurement blocks from one snapshot. -/
  | getMeasurements
  /-- KEY_EXCHANGE R359: An SPDM KEY_EXCHANGE establishes a secured session. -/
  | keyExchange
  /-- HANDOVER_ABORT R363: A hand-over not committed within 10 ms aborts and the old image continues. -/
  | handoverAbort
  /-- UNLOCK_CHALLENGE R361: The security processor issues a challenge nonce, and the next unlock token must carry it. -/
  | unlockChallenge
  /-- MAILBOX_UNKNOWN_COMMAND R326: A mailbox request with an unassigned command byte completes with STATUS 2 and clears the doorbell. -/
  | mailboxUnknownCommand
deriving DecidableEq, Repr

end Sys2Proof
end

