-- ==== Sys2Proof/WellFormed.lean ====
section
/-! DEFINITION. Which instructions are well formed: every field within its width, no reserved field value
(14 R374 steps 2 and 3, R375-R383). Checks that depend on the crew, the run or a format entry (R374 step 4) are made by the machine. -/

namespace Sys2Proof

/-- `v` fits a field of `w` bits. -/
def fits (v w : Nat) : Bool := decide (v < 2^w)

/-- Registers that an LD or ST of access-width code `w` moves (16 R451). -/
def lmRegs (w : Nat) : Nat := if w = 6 then 8 else if w = 5 then 4 else if w = 4 then 2 else 1

/-- System register numbers of thread scope (03 R95). -/
def srThreadScope (n : Nat) : Bool :=
  n == 0 || n == 4 || n == 7 || (0x22 == n) || (0x30 ≤ n && n ≤ 0x34) || (0x40 ≤ n && n ≤ 0x44)

/-- Assigned system register numbers below the firmware range (03 R95). -/
def srAssigned (n : Nat) : Bool :=
  n ≤ 8 || n == 0x10 || (0x20 ≤ n && n ≤ 0x22) || (0x30 ≤ n && n ≤ 0x34) || (0x40 ≤ n && n ≤ 0x44)
    || (0x50 ≤ n && n ≤ 0x52) || (0x100 ≤ n && n ≤ 0x12F)

/-- System registers that SRW may write (03 R95, 17 R488). -/
def srWritable (n : Nat) : Bool :=
  n == 0x20 || n == 0x22 || (0x30 ≤ n && n ≤ 0x34) || (0x100 ≤ n && n ≤ 0x12F)

/-- Firmware numbers (03 R94): never an encoding fault, always PRIVILEGE. -/
def srFirmware (n : Nat) : Bool := 0x1000 ≤ n && n ≤ 0x1FFF

/-- SRR: the number is firmware's, or assigned with D naming v0-v63 for thread scope and g16-g63 else (03 R94). -/
def srrOk (d n : Nat) : Bool := srFirmware n || (srAssigned n && (srThreadScope n || 16 ≤ d))

/-- SRW: the number is firmware's or writable (03 R94). -/
def srwOk (n : Nat) : Bool := srFirmware n || srWritable n

/-- Rows that have an encoding in the convoys' words. -/
def Instr.isConvoy : Instr → Bool
  | .xrfetch _ _ _ => false
  | .xbfext _ _ _ _ => false
  | .xswait _ _ _ => false
  | .xdisp _ _ => false
  | .xmeas _ _ => false
  | .xswaitReturn _ => false
  | .contextCreate => false
  | .contextRewrite => false
  | .bucketDeposit => false
  | .bucketCapWrite => false
  | .bucketShareWrite => false
  | .bucketRead => false
  | .setAllow => false
  | .wayMaskWrite => false
  | .hdmBind => false
  | .hdmMove => false
  | .hdmClear => false
  | .setSustainedLimit => false
  | .setRackCap => false
  | .meterRecordRequest => false
  | .streamOutOrder => false
  | .vdDrainSet => false
  | .vdDrainClear => false
  | .deviceDrainSet => false
  | .deviceDrainClear => false
  | .pageResume => false
  | .pageInvalid => false
  | .frameOwnerChange => false
  | .partitionCreate => false
  | .partitionDestroy => false
  | .vdAttach => false
  | .vdDetach => false
  | .importWrite => false
  | .importClear => false
  | .contextDestroy => false
  | .eventRingEnable => false
  | .eventRingDisable => false
  | .evackWrite _ => false
  | .kick _ _ _ => false
  | .rearm _ _ _ => false
  | .queueDrain _ _ _ => false
  | .queueResume _ _ _ => false
  | .queueEnable _ _ _ => false
  | .queueDisable _ _ _ => false
  | .pointRequest _ _ _ => false
  | .poolTableWrite _ _ _ => false
  | .registerWrite _ _ _ _ => false
  | .deviceReset => false
  | .islandPowerUp _ => false
  | .ringCycle _ => false
  | .claimOpen _ _ => false
  | .holdWindowEnd _ => false
  | .tclaimComplete _ => false
  | .spillRetry _ => false
  | .former _ _ _ => false
  | .formationWaitExpiry _ _ _ _ => false
  | .baraArrive _ => false
  | .barwRelease _ => false
  | .mlpassRecord _ => false
  | .mlwaitRelease _ => false
  | .waitRelease _ => false
  | .fenceComplete _ => false
  | .tfenceComplete _ => false
  | .ifenceComplete _ => false
  | .hputPerform _ => false
  | .hgetPerform _ => false
  | .takeReturn _ => false
  | .spawnComplete _ => false
  | .rowFree _ => false
  | .regionWriteback _ => false
  | .runComplete _ => false
  | .fetchSlot _ _ => false
  | .fetchRetry _ _ => false
  | .eventWaitEval _ => false
  | .dispatch _ => false
  | .crewStart _ => false
  | .streamOut _ => false
  | .streamIn _ _ _ => false
  | .reselect _ => false
  | .residencyTimeout _ _ => false
  | .leaseAnswer _ _ => false
  | .correct _ _ => false
  | .limitBindChange _ => false
  | .poolHalve _ => false
  | .poolRestore _ => false
  | .budgetWindow _ => false
  | .dispatchWindow => false
  | .pointChangeComplete _ => false
  | .plobritEpoch _ => false
  | .silentMember _ => false
  | .budgetMessage _ _ _ _ _ => false
  | .loadComplete _ _ => false
  | .storePerformed _ => false
  | .atomicPerformed _ => false
  | .sideLogReplay _ _ _ => false
  | .matrixEntryStart _ => false
  | .matrixEntryComplete _ => false
  | .copyStart _ => false
  | .copyComplete _ => false
  | .mscServe _ => false
  | .resealTile _ _ => false
  | .resealEnd _ => false
  | .fwSramUncorrectable _ => false
  | .transferActivate _ _ => false
  | .tileTransferComplete _ _ _ => false
  | .refreshDue _ _ => false
  | .pseudoChannelIdle _ _ => false
  | .refpbIssue _ _ => false
  | .refabIssue _ _ => false
  | .refabEnd _ _ => false
  | .scrubPassStart _ => false
  | .scrubTile _ _ => false
  | .softErrorWindow => false
  | .clusterRetire _ => false
  | .wearMonitorUpdate _ _ => false
  | .surveyUpdate _ => false
  | .hostMemRequest _ _ _ => false
  | .hostTimeout _ => false
  | .linkLost => false
  | .lockInterface _ _ => false
  | .startInterface _ => false
  | .stopInterface _ => false
  | .interfaceError _ => false
  | .getMeasurements => false
  | .keyExchange => false
  | .unlockToken _ => false
  | .deployCommand _ => false
  | .decommissionCommand _ => false
  | .handoverStage _ _ _ => false
  | .safePoint _ => false
  | .handoverAbort => false
  | .flitReceive _ _ _ _ _ => false
  | .nak _ _ _ => false
  | .ackTimeout _ => false
  | .freezeEnd _ => false
  | .freezeTimeout _ => false
  | .fabricRequest _ _ _ _ _ _ => false
  | .unlockChallenge => false
  | .islandPowerDown _ => false
  | .coreClockGate _ => false
  | .coreClockUngate _ => false
  | .poisonedFrameRetire _ => false
  | .mailboxUnknownCommand => false
  | _ => true

/-- Rows of the Xfolale extension (13 R353). -/
def Instr.isXfolale : Instr → Bool
  | .xrfetch _ _ _ => true
  | .xbfext _ _ _ _ => true
  | .xswait _ _ _ => true
  | .xdisp _ _ => true
  | .xmeas _ _ => true
  | _ => false

/-- Fields in range and no reserved value. Events are always well formed. -/
def Instr.wf : Instr → Bool
  | .iadd d a b g m => fits d 6 && fits a 6 && fits b 7 && fits g 3 && fits m 3 && decide (m ≤ 4)
  | .isub d a b g m => fits d 6 && fits a 6 && fits b 7 && fits g 3 && fits m 3 && decide (m ≤ 4)
  | .imul d a b g m => fits d 6 && fits a 6 && fits b 7 && fits g 3 && fits m 3 && decide (m ≤ 4)
  | .imulh d a b g m => fits d 6 && fits a 6 && fits b 7 && fits g 3 && fits m 3 && decide (m ≤ 4)
  | .imulhu d a b g m => fits d 6 && fits a 6 && fits b 7 && fits g 3 && fits m 3 && decide (m ≤ 4)
  | .imad d a b g m => fits d 6 && fits a 6 && fits b 7 && fits g 3 && fits m 3 && decide (m ≤ 4)
  | .imin d a b g m => fits d 6 && fits a 6 && fits b 7 && fits g 3 && fits m 3 && decide (m ≤ 4)
  | .imax d a b g m => fits d 6 && fits a 6 && fits b 7 && fits g 3 && fits m 3 && decide (m ≤ 4)
  | .iminu d a b g m => fits d 6 && fits a 6 && fits b 7 && fits g 3 && fits m 3 && decide (m ≤ 4)
  | .imaxu d a b g m => fits d 6 && fits a 6 && fits b 7 && fits g 3 && fits m 3 && decide (m ≤ 4)
  | .iadds d a b g m => fits d 6 && fits a 6 && fits b 7 && fits g 3 && fits m 3 && decide (m ≤ 4)
  | .isubs d a b g m => fits d 6 && fits a 6 && fits b 7 && fits g 3 && fits m 3 && decide (m ≤ 4)
  | .iabs d a g m => fits d 6 && fits a 6 && fits g 3 && fits m 3 && decide (m ≤ 4)
  | .andl d a b g => fits d 6 && fits a 6 && fits b 7 && fits g 3
  | .orl d a b g => fits d 6 && fits a 6 && fits b 7 && fits g 3
  | .xorl d a b g => fits d 6 && fits a 6 && fits b 7 && fits g 3
  | .andnl d a b g => fits d 6 && fits a 6 && fits b 7 && fits g 3
  | .shl d a b g m => fits d 6 && fits a 6 && fits b 7 && fits g 3 && fits m 3 && decide (m ≤ 4)
  | .shr d a b g m => fits d 6 && fits a 6 && fits b 7 && fits g 3 && fits m 3 && decide (m ≤ 4)
  | .sar d a b g m => fits d 6 && fits a 6 && fits b 7 && fits g 3 && fits m 3 && decide (m ≤ 4)
  | .rol d a b g m => fits d 6 && fits a 6 && fits b 7 && fits g 3 && fits m 3 && decide (m ≤ 4)
  | .popc d a g m => fits d 6 && fits a 6 && fits g 3 && fits m 3 && decide (m ≤ 4)
  | .clz d a g m => fits d 6 && fits a 6 && fits g 3 && fits m 3 && decide (m ≤ 4)
  | .brev d a g m => fits d 6 && fits a 6 && fits g 3 && fits m 3 && decide (m ≤ 4)
  | .icmp d a b c m => fits d 6 && fits a 6 && fits b 7 && fits c 3 && fits m 3 && decide (c ≤ 5) && decide (m ≤ 4)
  | .sel d a b q => fits d 6 && fits a 6 && fits b 7 && fits q 3 && decide (q ≠ 0)
  | .mov d b g => fits d 6 && fits b 7 && fits g 3
  | .perm d a b g => fits d 6 && fits a 6 && fits b 7 && fits g 3
  | .movi d i m => fits d 6 && fits i 16 && fits m 3 && decide (m ≤ 4)
  | .movx d m imm => fits d 6 && fits m 3 && fits imm 32 && decide (m ≤ 2)
  | .bfx d a b g s => fits d 6 && fits a 6 && fits b 7 && fits g 3 && fits s 1
  | .bfi d a b g => fits d 6 && fits a 6 && fits b 7 && fits g 3
  | .fadd d a b g n => fits d 6 && fits a 6 && fits b 7 && fits g 3 && fits n 3
  | .fsub d a b g n => fits d 6 && fits a 6 && fits b 7 && fits g 3 && fits n 3
  | .fmul d a b g n => fits d 6 && fits a 6 && fits b 7 && fits g 3 && fits n 3
  | .ffma d a b g n => fits d 6 && fits a 6 && fits b 7 && fits g 3 && fits n 3
  | .ffms d a b g n => fits d 6 && fits a 6 && fits b 7 && fits g 3 && fits n 3
  | .fmin d a b g n => fits d 6 && fits a 6 && fits b 7 && fits g 3 && fits n 3
  | .fmax d a b g n => fits d 6 && fits a 6 && fits b 7 && fits g 3 && fits n 3
  | .fcmp d a b c n => fits d 6 && fits a 6 && fits b 7 && fits c 3 && fits n 3 && decide (c ≤ 6)
  | .fsgn d a b o n => fits d 6 && fits a 6 && fits b 7 && fits o 3 && fits n 3 && decide (o ≤ 3) && decide ((2 ≤ o ∨ b = 0))
  | .fspc d a o n => fits d 6 && fits a 6 && fits o 3 && fits n 3 && decide (o ≤ 5)
  | .fclass d a e n => fits d 6 && fits a 6 && fits e 3 && fits n 3
  | .cvt d a s p g f => fits d 6 && fits a 6 && fits s 3 && fits p 4 && fits g 3 && fits f 3
  | .cvti d a s p g m => fits d 6 && fits a 6 && fits s 3 && fits p 4 && fits g 3 && fits m 3 && decide (m ≤ 4)
  | .cvtf d a w p g f => fits d 6 && fits a 6 && fits w 3 && fits p 4 && fits g 3 && fits f 3 && decide (w ≤ 4)
  | .fdot d a b i f => fits d 6 && fits a 6 && fits b 7 && fits i 3 && fits f 3
  | .shfl d a b q m => fits d 6 && fits a 6 && fits b 7 && fits q 3 && fits m 3 && decide (m ≤ 4)
  | .vote d b q m => fits d 6 && fits b 7 && fits q 3 && fits m 3 && decide (m ≤ 3)
  | .scan d a x o m => fits d 6 && fits a 6 && fits x 1 && fits o 3 && fits m 3 && decide (m ≤ 4)
  | .scanFadd d a n x => fits d 6 && fits a 6 && fits n 3 && fits x 1
  | .red d a o m => fits d 6 && fits a 6 && fits o 3 && fits m 3 && decide (m ≤ 4)
  | .redFadd d a n => fits d 6 && fits a 6 && fits n 3
  | .qop d a b g m => fits d 3 && fits a 3 && fits b 3 && fits g 3 && fits m 3 && decide (d ≠ 0) && decide (m ≤ 6) && decide ((m ≤ 3 ∨ b = 0)) && decide ((m ≤ 4 ∨ a = 0))
  | .movqToPredicate q a g => fits q 3 && fits a 6 && fits g 3 && decide (q ≠ 0)
  | .movqToVector d q g => fits d 6 && fits q 3 && fits g 3
  | .ld v i k o w => fits v 6 && fits i 6 && fits k 4 && fits o 6 && fits w 3 && decide (w ≤ 6) && decide (v + lmRegs w ≤ 64)
  | .st v i k o w => fits v 6 && fits i 6 && fits k 4 && fits o 6 && fits w 3 && decide (w ≤ 6) && decide (v + lmRegs w ≤ 64)
  | .aadd v i k sr w scope order n => fits v 6 && fits i 6 && fits k 4 && fits sr 6 && fits w 3 && fits scope 3 && fits order 2 && fits n 1 && decide (w ≤ 1) && decide (scope ≤ 4) && decide ((n = 0 ∨ v = 0))
  | .aand v i k sr w scope order n => fits v 6 && fits i 6 && fits k 4 && fits sr 6 && fits w 3 && fits scope 3 && fits order 2 && fits n 1 && decide (w ≤ 1) && decide (scope ≤ 4) && decide ((n = 0 ∨ v = 0))
  | .aor v i k sr w scope order n => fits v 6 && fits i 6 && fits k 4 && fits sr 6 && fits w 3 && fits scope 3 && fits order 2 && fits n 1 && decide (w ≤ 1) && decide (scope ≤ 4) && decide ((n = 0 ∨ v = 0))
  | .axor v i k sr w scope order n => fits v 6 && fits i 6 && fits k 4 && fits sr 6 && fits w 3 && fits scope 3 && fits order 2 && fits n 1 && decide (w ≤ 1) && decide (scope ≤ 4) && decide ((n = 0 ∨ v = 0))
  | .amin v i k sr w scope order n => fits v 6 && fits i 6 && fits k 4 && fits sr 6 && fits w 3 && fits scope 3 && fits order 2 && fits n 1 && decide (w ≤ 1) && decide (scope ≤ 4) && decide ((n = 0 ∨ v = 0))
  | .amax v i k sr w scope order n => fits v 6 && fits i 6 && fits k 4 && fits sr 6 && fits w 3 && fits scope 3 && fits order 2 && fits n 1 && decide (w ≤ 1) && decide (scope ≤ 4) && decide ((n = 0 ∨ v = 0))
  | .aminu v i k sr w scope order n => fits v 6 && fits i 6 && fits k 4 && fits sr 6 && fits w 3 && fits scope 3 && fits order 2 && fits n 1 && decide (w ≤ 1) && decide (scope ≤ 4) && decide ((n = 0 ∨ v = 0))
  | .amaxu v i k sr w scope order n => fits v 6 && fits i 6 && fits k 4 && fits sr 6 && fits w 3 && fits scope 3 && fits order 2 && fits n 1 && decide (w ≤ 1) && decide (scope ≤ 4) && decide ((n = 0 ∨ v = 0))
  | .axchg v i k sr w scope order n => fits v 6 && fits i 6 && fits k 4 && fits sr 6 && fits w 3 && fits scope 3 && fits order 2 && fits n 1 && decide (w ≤ 1) && decide (scope ≤ 4) && decide ((n = 0 ∨ v = 0))
  | .acas v i k sr w scope order n => fits v 6 && fits i 6 && fits k 4 && fits sr 6 && fits w 3 && fits scope 3 && fits order 2 && fits n 1 && decide (w ≤ 1) && decide (scope ≤ 4)
  | .afadd v i k sr w scope order f n => fits v 6 && fits i 6 && fits k 4 && fits sr 6 && fits w 3 && fits scope 3 && fits order 2 && fits f 3 && fits n 1 && decide (w ≤ 1) && decide (scope ≤ 4) && decide ((n = 0 ∨ v = 0))
  | .msign v w n f s => fits v 6 && fits w 4 && fits n 5 && fits f 3 && fits s 1 && decide (v + n + 4 * s ≤ 63) && decide ((s = 0 ∨ f ≠ 7))
  | .gadd d a b => fits d 6 && fits a 6 && fits b 6 && decide (16 ≤ d)
  | .gsub d a b => fits d 6 && fits a 6 && fits b 6 && decide (16 ≤ d)
  | .gmul d a b => fits d 6 && fits a 6 && fits b 6 && decide (16 ≤ d)
  | .gand d a b => fits d 6 && fits a 6 && fits b 6 && decide (16 ≤ d)
  | .gor d a b => fits d 6 && fits a 6 && fits b 6 && decide (16 ≤ d)
  | .gxor d a b => fits d 6 && fits a 6 && fits b 6 && decide (16 ≤ d)
  | .gshl d a b => fits d 6 && fits a 6 && fits b 6 && decide (16 ≤ d)
  | .gshr d a b => fits d 6 && fits a 6 && fits b 6 && decide (16 ≤ d)
  | .gsar d a b => fits d 6 && fits a 6 && fits b 6 && decide (16 ≤ d)
  | .gmin d a b => fits d 6 && fits a 6 && fits b 6 && decide (16 ≤ d)
  | .gmax d a b => fits d 6 && fits a 6 && fits b 6 && decide (16 ≤ d)
  | .gsel d a b t => fits d 6 && fits a 6 && fits b 6 && fits t 6 && decide (16 ≤ d)
  | .gaddi d a i => fits d 6 && fits a 6 && fits i 13 && decide (16 ≤ d)
  | .gmovi d i => fits d 6 && fits i 19 && decide (16 ≤ d)
  | .glui d i => fits d 6 && fits i 19 && decide (16 ≤ d)
  | .grdl d a n => fits d 6 && fits a 6 && fits n 5 && decide (16 ≤ d)
  | .br q n d => fits q 3 && fits n 1 && fits d 21 && decide (¬(q = 0 ∧ n = 1))
  | .brg a c d => fits a 6 && fits c 2 && fits d 17
  | .jmp a => fits a 6
  | .call d => fits d 21
  | .ret => true
  | .join n => fits n 6 && decide (1 ≤ n) && decide (n ≤ 32)
  | .exit => true
  | .spawn e s a => fits e 4 && fits s 3 && fits a 6
  | .trap c => fits c 16
  | .eret s => fits s 1
  | .brk => true
  | .nop => true
  | .yield => true
  | .bari b a c => fits b 7 && fits a 6 && fits c 6
  | .bara b => fits b 7
  | .barw b a => fits b 7 && fits a 6
  | .bart b a => fits b 7 && fits a 6
  | .syncm a => fits a 6
  | .mlwait a m => fits a 6 && fits m 7
  | .mlpass a m => fits a 6 && fits m 7
  | .wait l s c t => fits l 6 && fits s 6 && fits c 4 && fits t 4
  | .fence s k d => fits s 3 && fits k 4 && fits d 2 && decide (s ≤ 4) && decide (k ≠ 0) && decide (d ≠ 0)
  | .tfence s => fits s 3 && decide (s ≤ 4)
  | .ifence s => fits s 3 && decide (s ≤ 4)
  | .take d => fits d 6 && decide (16 ≤ d)
  | .hput a n => fits a 6 && fits n 3
  | .hget d n => fits d 6 && fits n 3 && decide (16 ≤ d)
  | .cpy c s x dir k cmp bar => fits c 6 && fits s 6 && fits x 6 && fits dir 1 && fits k 4 && fits cmp 2 && fits bar 7 && decide (cmp ≤ 1) && decide ((cmp = 1 ∨ bar = 0))
  | .cpyg c s x dir k cmp bar => fits c 6 && fits s 6 && fits x 6 && fits dir 1 && fits k 4 && fits cmp 2 && fits bar 7 && decide (cmp ≤ 1) && decide ((cmp = 1 ∨ bar = 0))
  | .cpyt t a tgt dir cmp bar len row => fits t 6 && fits a 6 && fits tgt 1 && fits dir 1 && fits cmp 2 && fits bar 7 && fits len 9 && fits row 7 && decide (cmp ≤ 1) && decide ((cmp = 1 ∨ bar = 0)) && decide ((if tgt = 1 then (len + 1) % 4 = 0 ∧ row + (len + 1) / 4 ≤ 128 else row = 0))
  | .resv u c b bs s n bl soff => fits u 6 && fits c 6 && fits b 6 && fits bs 1 && fits s 3 && fits n 3 && fits bl 2 && fits soff 8 && decide (c ≤ 7) && decide ((bs = 1 ∨ b = 0)) && decide ((bl ≠ 0 ∨ (s = 0 ∧ soff = 0)))
  | .relsUnit u => fits u 6
  | .relsWaypoint n => fits n 4
  | .mma d a b ba keep u cmp bar rf => fits d 6 && fits a 6 && fits b 6 && fits ba 1 && fits keep 1 && fits u 6 && fits cmp 2 && fits bar 7 && fits rf 3 && decide (a ≤ 15) && decide ((ba = 1 ∨ b = 0)) && decide (cmp ≤ 1) && decide ((cmp = 1 ∨ bar = 0))
  | .mmab d a b ba keep u cmp bar rf => fits d 6 && fits a 6 && fits b 6 && fits ba 1 && fits keep 1 && fits u 6 && fits cmp 2 && fits bar 7 && fits rf 3 && decide (a % 2 = 0) && decide (a ≤ 15) && decide ((ba = 1 ∨ b = 0)) && decide (cmp ≤ 1) && decide ((cmp = 1 ∨ bar = 0))
  | .mmaj d a b ba keep u cmp bar rf => fits d 6 && fits a 6 && fits b 6 && fits ba 1 && fits keep 1 && fits u 6 && fits cmp 2 && fits bar 7 && fits rf 3 && decide (a ≤ 15) && decide ((ba = 1 ∨ b = 0)) && decide (cmp ≤ 1) && decide ((cmp = 1 ∨ bar = 0))
  | .tzero d => fits d 6
  | .tld d a acc c n => fits d 6 && fits a 6 && fits acc 6 && fits c 4 && fits n 3 && decide (d + c ≤ 63)
  | .tst d a acc c n cmp bar => fits d 6 && fits a 6 && fits acc 6 && fits c 4 && fits n 3 && fits cmp 2 && fits bar 7 && decide (d + c ≤ 63) && decide (cmp ≤ 1) && decide ((cmp = 1 ∨ bar = 0))
  | .fmtw a n => fits a 6 && fits n 3
  | .fmtr d n => fits d 6 && fits n 3 && decide (16 ≤ d)
  | .srr d n => fits d 6 && fits n 13 && srrOk d n
  | .srw a n => fits a 6 && fits n 13 && srwOk n
  | .tclaim n => fits n 8 && decide (1 ≤ n)
  | .tfree => true
  | .xrfetch b a d => fits b 5 && fits a 5 && fits d 5
  | .xbfext l p a d => fits l 6 && fits p 6 && fits a 5 && fits d 5
  | .xswait b a d => fits b 5 && fits a 5 && fits d 5
  | .xdisp a d => fits a 5 && fits d 5
  | .xmeas a d => fits a 5 && fits d 5
  | .xswaitReturn _ => true
  | .contextCreate => true
  | .contextRewrite => true
  | .bucketDeposit => true
  | .bucketCapWrite => true
  | .bucketShareWrite => true
  | .bucketRead => true
  | .setAllow => true
  | .wayMaskWrite => true
  | .hdmBind => true
  | .hdmMove => true
  | .hdmClear => true
  | .setSustainedLimit => true
  | .setRackCap => true
  | .meterRecordRequest => true
  | .streamOutOrder => true
  | .vdDrainSet => true
  | .vdDrainClear => true
  | .deviceDrainSet => true
  | .deviceDrainClear => true
  | .pageResume => true
  | .pageInvalid => true
  | .frameOwnerChange => true
  | .partitionCreate => true
  | .partitionDestroy => true
  | .vdAttach => true
  | .vdDetach => true
  | .importWrite => true
  | .importClear => true
  | .contextDestroy => true
  | .eventRingEnable => true
  | .eventRingDisable => true
  | .evackWrite _ => true
  | .kick _ _ _ => true
  | .rearm _ _ _ => true
  | .queueDrain _ _ _ => true
  | .queueResume _ _ _ => true
  | .queueEnable _ _ _ => true
  | .queueDisable _ _ _ => true
  | .pointRequest _ _ _ => true
  | .poolTableWrite _ _ _ => true
  | .registerWrite _ _ _ _ => true
  | .deviceReset => true
  | .islandPowerUp _ => true
  | .ringCycle _ => true
  | .claimOpen _ _ => true
  | .holdWindowEnd _ => true
  | .tclaimComplete _ => true
  | .spillRetry _ => true
  | .former _ _ _ => true
  | .formationWaitExpiry _ _ _ _ => true
  | .baraArrive _ => true
  | .barwRelease _ => true
  | .mlpassRecord _ => true
  | .mlwaitRelease _ => true
  | .waitRelease _ => true
  | .fenceComplete _ => true
  | .tfenceComplete _ => true
  | .ifenceComplete _ => true
  | .hputPerform _ => true
  | .hgetPerform _ => true
  | .takeReturn _ => true
  | .spawnComplete _ => true
  | .rowFree _ => true
  | .regionWriteback _ => true
  | .runComplete _ => true
  | .fetchSlot _ _ => true
  | .fetchRetry _ _ => true
  | .eventWaitEval _ => true
  | .dispatch _ => true
  | .crewStart _ => true
  | .streamOut _ => true
  | .streamIn _ _ _ => true
  | .reselect _ => true
  | .residencyTimeout _ _ => true
  | .leaseAnswer _ _ => true
  | .correct _ _ => true
  | .limitBindChange _ => true
  | .poolHalve _ => true
  | .poolRestore _ => true
  | .budgetWindow _ => true
  | .dispatchWindow => true
  | .pointChangeComplete _ => true
  | .plobritEpoch _ => true
  | .silentMember _ => true
  | .budgetMessage _ _ _ _ _ => true
  | .loadComplete _ _ => true
  | .storePerformed _ => true
  | .atomicPerformed _ => true
  | .sideLogReplay _ _ _ => true
  | .matrixEntryStart _ => true
  | .matrixEntryComplete _ => true
  | .copyStart _ => true
  | .copyComplete _ => true
  | .mscServe _ => true
  | .resealTile _ _ => true
  | .resealEnd _ => true
  | .fwSramUncorrectable _ => true
  | .transferActivate _ _ => true
  | .tileTransferComplete _ _ _ => true
  | .refreshDue _ _ => true
  | .pseudoChannelIdle _ _ => true
  | .refpbIssue _ _ => true
  | .refabIssue _ _ => true
  | .refabEnd _ _ => true
  | .scrubPassStart _ => true
  | .scrubTile _ _ => true
  | .softErrorWindow => true
  | .clusterRetire _ => true
  | .wearMonitorUpdate _ _ => true
  | .surveyUpdate _ => true
  | .hostMemRequest _ _ _ => true
  | .hostTimeout _ => true
  | .linkLost => true
  | .lockInterface _ _ => true
  | .startInterface _ => true
  | .stopInterface _ => true
  | .interfaceError _ => true
  | .getMeasurements => true
  | .keyExchange => true
  | .unlockToken _ => true
  | .deployCommand _ => true
  | .decommissionCommand _ => true
  | .handoverStage _ _ _ => true
  | .safePoint _ => true
  | .handoverAbort => true
  | .flitReceive _ _ _ _ _ => true
  | .nak _ _ _ => true
  | .ackTimeout _ => true
  | .freezeEnd _ => true
  | .freezeTimeout _ => true
  | .fabricRequest _ _ _ _ _ _ => true
  | .unlockChallenge => true
  | .islandPowerDown _ => true
  | .coreClockGate _ => true
  | .coreClockUngate _ => true
  | .poisonedFrameRetire _ => true
  | .mailboxUnknownCommand => true

end Sys2Proof
end

