-- ==== Sys2Proof/Decode.lean ====
section
/-! DEFINITION. The words of an instruction (14 R370-R384) and their decoding. `candidate` reads the fields that the
major's format places; `decode` accepts the candidate only when it is well formed and its own words are exactly the words read,
so that a nonzero reserved field, a reserved value or a reserved major is refused (R374 steps 2 and 3). -/

namespace Sys2Proof

/-- Bits `lo + n - 1 : lo` of a word. -/
def bits (w lo n : Nat) : Nat := w / 2^lo % 2^n

/-- A field placed at bit `lo`. -/
def put (v lo : Nat) : Nat := v * 2^lo

/-- First word of a row of the convoys or of Xfolale; 0 for an event. -/
def encode0 : Instr → Nat
  | .iadd d a b g m => 0x00000000 + put d 19 + put a 13 + put b 6 + put g 3 + put m 0
  | .isub d a b g m => 0x02000000 + put d 19 + put a 13 + put b 6 + put g 3 + put m 0
  | .imul d a b g m => 0x04000000 + put d 19 + put a 13 + put b 6 + put g 3 + put m 0
  | .imulh d a b g m => 0x06000000 + put d 19 + put a 13 + put b 6 + put g 3 + put m 0
  | .imulhu d a b g m => 0x08000000 + put d 19 + put a 13 + put b 6 + put g 3 + put m 0
  | .imad d a b g m => 0x0A000000 + put d 19 + put a 13 + put b 6 + put g 3 + put m 0
  | .imin d a b g m => 0x0C000000 + put d 19 + put a 13 + put b 6 + put g 3 + put m 0
  | .imax d a b g m => 0x0E000000 + put d 19 + put a 13 + put b 6 + put g 3 + put m 0
  | .iminu d a b g m => 0x10000000 + put d 19 + put a 13 + put b 6 + put g 3 + put m 0
  | .imaxu d a b g m => 0x12000000 + put d 19 + put a 13 + put b 6 + put g 3 + put m 0
  | .iadds d a b g m => 0x14000000 + put d 19 + put a 13 + put b 6 + put g 3 + put m 0
  | .isubs d a b g m => 0x16000000 + put d 19 + put a 13 + put b 6 + put g 3 + put m 0
  | .iabs d a g m => 0x18000000 + put d 19 + put a 13 + put g 3 + put m 0
  | .andl d a b g => 0x1A000000 + put d 19 + put a 13 + put b 6 + put g 3
  | .orl d a b g => 0x1C000000 + put d 19 + put a 13 + put b 6 + put g 3
  | .xorl d a b g => 0x1E000000 + put d 19 + put a 13 + put b 6 + put g 3
  | .andnl d a b g => 0x20000000 + put d 19 + put a 13 + put b 6 + put g 3
  | .shl d a b g m => 0x22000000 + put d 19 + put a 13 + put b 6 + put g 3 + put m 0
  | .shr d a b g m => 0x24000000 + put d 19 + put a 13 + put b 6 + put g 3 + put m 0
  | .sar d a b g m => 0x26000000 + put d 19 + put a 13 + put b 6 + put g 3 + put m 0
  | .rol d a b g m => 0x28000000 + put d 19 + put a 13 + put b 6 + put g 3 + put m 0
  | .popc d a g m => 0x2A000000 + put d 19 + put a 13 + put g 3 + put m 0
  | .clz d a g m => 0x2A000040 + put d 19 + put a 13 + put g 3 + put m 0
  | .brev d a g m => 0x2A000080 + put d 19 + put a 13 + put g 3 + put m 0
  | .icmp d a b c m => 0x2C000000 + put d 19 + put a 13 + put b 6 + put c 3 + put m 0
  | .sel d a b q => 0x2E000000 + put d 19 + put a 13 + put b 6 + put q 3
  | .mov d b g => 0x30000000 + put d 19 + put b 6 + put g 3
  | .perm d a b g => 0x32000000 + put d 19 + put a 13 + put b 6 + put g 3
  | .movi d i m => 0x34000000 + put d 19 + put i 3 + put m 0
  | .movx d m _ => 0x36000000 + put d 19 + m
  | .bfx d a b g s => 0x38000000 + put d 19 + put a 13 + put b 6 + put g 3 + put s 0
  | .bfi d a b g => 0x3A000000 + put d 19 + put a 13 + put b 6 + put g 3
  | .fadd d a b g n => 0x3C000000 + put d 19 + put a 13 + put b 6 + put g 3 + put n 0
  | .fsub d a b g n => 0x3E000000 + put d 19 + put a 13 + put b 6 + put g 3 + put n 0
  | .fmul d a b g n => 0x40000000 + put d 19 + put a 13 + put b 6 + put g 3 + put n 0
  | .ffma d a b g n => 0x42000000 + put d 19 + put a 13 + put b 6 + put g 3 + put n 0
  | .ffms d a b g n => 0x44000000 + put d 19 + put a 13 + put b 6 + put g 3 + put n 0
  | .fmin d a b g n => 0x46000000 + put d 19 + put a 13 + put b 6 + put g 3 + put n 0
  | .fmax d a b g n => 0x48000000 + put d 19 + put a 13 + put b 6 + put g 3 + put n 0
  | .fcmp d a b c n => 0x4A000000 + put d 19 + put a 13 + put b 6 + put c 3 + put n 0
  | .fsgn d a b o n => 0x4C000000 + put d 19 + put a 13 + put b 6 + put o 3 + put n 0
  | .fspc d a o n => 0x4E000000 + put d 19 + put a 13 + put o 3 + put n 0
  | .fclass d a e n => 0x50000000 + put d 19 + put a 13 + put e 3 + put n 0
  | .cvt d a s p g f => 0x52000000 + put d 19 + put a 13 + put s 10 + put p 6 + put g 3 + put f 0
  | .cvti d a s p g m => 0x54000000 + put d 19 + put a 13 + put s 10 + put p 6 + put g 3 + put m 0
  | .cvtf d a w p g f => 0x56000000 + put d 19 + put a 13 + put w 10 + put p 6 + put g 3 + put f 0
  | .fdot d a b i f => 0x58000000 + put d 19 + put a 13 + put b 6 + put i 3 + put f 0
  | .shfl d a b q m => 0x5A000000 + put d 19 + put a 13 + put b 6 + put q 3 + put m 0
  | .vote d b q m => 0x5C000000 + put d 19 + put b 6 + put q 3 + put m 0
  | .scan d a x o m => 0x5E000000 + put d 19 + put a 13 + put x 6 + put o 3 + put m 0
  | .scanFadd d a n x => 0x5E000080 + put d 19 + put a 13 + put n 8 + put x 6
  | .red d a o m => 0x60000000 + put d 19 + put a 13 + put o 3 + put m 0
  | .redFadd d a n => 0x60000080 + put d 19 + put a 13 + put n 8
  | .qop d a b g m => 0x62000000 + put d 19 + put a 13 + put b 6 + put g 3 + put m 0
  | .movqToPredicate q a g => 0x64000000 + put q 19 + put a 13 + put g 3
  | .movqToVector d q g => 0x64000001 + put d 19 + put q 13 + put g 3
  | .ld v i k o w => 0x66000000 + put v 19 + put i 13 + put k 9 + put o 3 + put w 0
  | .st v i k o w => 0x68000000 + put v 19 + put i 13 + put k 9 + put o 3 + put w 0
  | .aadd v i k sr w _ _ _ => 0x6A000000 + put v 19 + put i 13 + put k 9 + put sr 3 + w
  | .aand v i k sr w _ _ _ => 0x6A000000 + put v 19 + put i 13 + put k 9 + put sr 3 + w
  | .aor v i k sr w _ _ _ => 0x6A000000 + put v 19 + put i 13 + put k 9 + put sr 3 + w
  | .axor v i k sr w _ _ _ => 0x6A000000 + put v 19 + put i 13 + put k 9 + put sr 3 + w
  | .amin v i k sr w _ _ _ => 0x6A000000 + put v 19 + put i 13 + put k 9 + put sr 3 + w
  | .amax v i k sr w _ _ _ => 0x6A000000 + put v 19 + put i 13 + put k 9 + put sr 3 + w
  | .aminu v i k sr w _ _ _ => 0x6A000000 + put v 19 + put i 13 + put k 9 + put sr 3 + w
  | .amaxu v i k sr w _ _ _ => 0x6A000000 + put v 19 + put i 13 + put k 9 + put sr 3 + w
  | .axchg v i k sr w _ _ _ => 0x6A000000 + put v 19 + put i 13 + put k 9 + put sr 3 + w
  | .acas v i k sr w _ _ _ => 0x6A000000 + put v 19 + put i 13 + put k 9 + put sr 3 + w
  | .afadd v i k sr w _ _ _ _ => 0x6A000000 + put v 19 + put i 13 + put k 9 + put sr 3 + w
  | .msign v w n f s => 0x6C000000 + put v 19 + put w 15 + put n 10 + put f 7 + put s 6
  | .gadd d a b => 0x80000000 + put d 19 + put a 13 + put b 7
  | .gsub d a b => 0x82000000 + put d 19 + put a 13 + put b 7
  | .gmul d a b => 0x84000000 + put d 19 + put a 13 + put b 7
  | .gand d a b => 0x86000000 + put d 19 + put a 13 + put b 7
  | .gor d a b => 0x88000000 + put d 19 + put a 13 + put b 7
  | .gxor d a b => 0x8A000000 + put d 19 + put a 13 + put b 7
  | .gshl d a b => 0x8C000000 + put d 19 + put a 13 + put b 7
  | .gshr d a b => 0x8E000000 + put d 19 + put a 13 + put b 7
  | .gsar d a b => 0x90000000 + put d 19 + put a 13 + put b 7
  | .gmin d a b => 0x92000000 + put d 19 + put a 13 + put b 7
  | .gmax d a b => 0x94000000 + put d 19 + put a 13 + put b 7
  | .gsel d a b t => 0x96000000 + put d 19 + put a 13 + put b 7 + put t 0
  | .gaddi d a i => 0x98000000 + put d 19 + put a 13 + put i 0
  | .gmovi d i => 0x9A000000 + put d 19 + put i 0
  | .glui d i => 0x9C000000 + put d 19 + put i 0
  | .grdl d a n => 0x9E000000 + put d 19 + put a 13 + put n 0
  | .br q n d => 0xA0000000 + put q 22 + put n 21 + put d 0
  | .brg a c d => 0xA2000000 + put a 19 + put c 17 + put d 0
  | .jmp a => 0xA4000000 + put a 13
  | .call d => 0xA6000000 + put d 0
  | .ret => 0xA8000000
  | .join n => 0xAA000000 + put n 0
  | .exit => 0xAC000000
  | .spawn e s a => 0xAE000000 + put e 21 + put s 18 + put a 12
  | .trap c => 0xB0000000 + put c 0
  | .eret s => 0xB2000000 + put s 0
  | .brk => 0xB4000000
  | .nop => 0xB6000000
  | .yield => 0xB8000000
  | .bari b a c => 0xBA000000 + put b 18 + put a 12 + put c 6
  | .bara b => 0xBC000000 + put b 18
  | .barw b a => 0xBE000000 + put b 18 + put a 12
  | .bart b a => 0xC0000000 + put b 18 + put a 12
  | .syncm a => 0xC2000000 + put a 12
  | .mlwait a m => 0xC4000000 + put a 13 + put m 0
  | .mlpass a m => 0xC6000000 + put a 13 + put m 0
  | .wait l s c t => 0xC8000000 + put l 19 + put s 13 + put c 9 + put t 5
  | .fence s k d => 0xCA000000 + put s 22 + put k 18 + put d 16
  | .tfence s => 0xCC000000 + put s 22
  | .ifence s => 0xCE000000 + put s 22
  | .take d => 0xD0000000 + put d 19
  | .hput a n => 0xD2000000 + put a 13 + put n 0
  | .hget d n => 0xD4000000 + put d 19 + put n 0
  | .cpy c s x dir k _ _ => 0xD6000000 + put c 19 + put s 13 + put x 7 + put dir 4 + k
  | .cpyg c s x dir k _ _ => 0xD8000000 + put c 19 + put s 13 + put x 7 + put dir 4 + k
  | .cpyt t a tgt dir _ _ _ _ => 0xDA000000 + put t 19 + put a 13 + put tgt 1 + dir
  | .resv u c b bs s n _ _ => 0xDC000000 + put u 19 + put c 13 + put b 7 + put bs 6 + put s 3 + n
  | .relsUnit u => 0xDE000000 + put u 0
  | .relsWaypoint n => 0xDE000040 + put n 0
  | .mma d a b ba keep _ _ _ _ => 0xE0000000 + put d 19 + put a 13 + put b 7 + put ba 1 + keep
  | .mmab d a b ba keep _ _ _ _ => 0xE2000000 + put d 19 + put a 13 + put b 7 + put ba 1 + keep
  | .mmaj d a b ba keep _ _ _ _ => 0xE4000000 + put d 19 + put a 13 + put b 7 + put ba 1 + keep
  | .tzero d => 0xE6000000 + put d 19
  | .tld d a acc c n => 0xE8000000 + put d 19 + put a 13 + put acc 7 + put c 3 + n
  | .tst d a acc c n _ _ => 0xEA000000 + put d 19 + put a 13 + put acc 7 + put c 3 + n
  | .fmtw a n => 0xEC000000 + put a 13 + put n 0
  | .fmtr d n => 0xEE000000 + put d 19 + put n 0
  | .srr d n => 0xF0000000 + put d 19 + put n 0
  | .srw a n => 0xF2000000 + put a 13 + put n 0
  | .tclaim n => 0xF4000000 + put n 0
  | .tfree => 0xF6000000
  | .xrfetch b a d => 0x0000000B + put b 20 + put a 15 + put d 7
  | .xbfext l p a d => 0x0000100B + put l 26 + put p 20 + put a 15 + put d 7
  | .xswait b a d => 0x0000200B + put b 20 + put a 15 + put d 7
  | .xdisp a d => 0x0000300B + put a 15 + put d 7
  | .xmeas a d => 0x0000400B + put a 15 + put d 7
  | _ => 0

/-- Second word of a two-word instruction; 0 where there is none. -/
def encode1 : Instr → Nat
  | .movx _ _ imm => imm
  | .aadd _ _ _ _ _ scope order n => put 0 28 + put scope 25 + put order 23 + put n 19
  | .aand _ _ _ _ _ scope order n => put 1 28 + put scope 25 + put order 23 + put n 19
  | .aor _ _ _ _ _ scope order n => put 2 28 + put scope 25 + put order 23 + put n 19
  | .axor _ _ _ _ _ scope order n => put 3 28 + put scope 25 + put order 23 + put n 19
  | .amin _ _ _ _ _ scope order n => put 4 28 + put scope 25 + put order 23 + put n 19
  | .amax _ _ _ _ _ scope order n => put 5 28 + put scope 25 + put order 23 + put n 19
  | .aminu _ _ _ _ _ scope order n => put 6 28 + put scope 25 + put order 23 + put n 19
  | .amaxu _ _ _ _ _ scope order n => put 7 28 + put scope 25 + put order 23 + put n 19
  | .axchg _ _ _ _ _ scope order n => put 8 28 + put scope 25 + put order 23 + put n 19
  | .acas _ _ _ _ _ scope order n => put 9 28 + put scope 25 + put order 23 + put n 19
  | .afadd _ _ _ _ _ scope order f n => put 10 28 + put scope 25 + put order 23 + put f 20 + put n 19
  | .cpy _ _ _ _ _ cmp bar => put cmp 24 + put bar 17
  | .cpyg _ _ _ _ _ cmp bar => put cmp 24 + put bar 17
  | .cpyt _ _ _ _ cmp bar len row => put cmp 24 + put bar 17 + put len 8 + row
  | .resv _ _ _ _ _ _ bl soff => put bl 30 + put soff 22
  | .mma _ _ _ _ _ u cmp bar rf => put u 26 + put cmp 24 + put bar 17 + put rf 14
  | .mmab _ _ _ _ _ u cmp bar rf => put u 26 + put cmp 24 + put bar 17 + put rf 14
  | .mmaj _ _ _ _ _ u cmp bar rf => put u 26 + put cmp 24 + put bar 17 + put rf 14
  | .tld _ _ _ _ _ => 0
  | .tst _ _ _ _ _ cmp bar => put cmp 24 + put bar 17
  | _ => 0

/-- The words of an instruction. -/
def encode (i : Instr) : Nat × Nat := (encode0 i, encode1 i)

/-- Instruction length in words by the major alone (R370). `w0 / 2^25` is bit 31 above the major. -/
def lenOf (w0 : Nat) : Nat :=
  match w0 / 2^25 with
  | 0x1B => 2 | 0x35 => 2 | 0x6B => 2 | 0x6C => 2 | 0x6D => 2 | 0x6E => 2 | 0x70 => 2 | 0x71 => 2 | 0x72 => 2 | 0x74 => 2 | 0x75 => 2
  | _ => 1

/-- The instruction whose fields the major's format finds in the words; none for a reserved major. -/
def candidate (w0 w1 : Nat) : Option Instr :=
  match w0 / 2^25 with
  | 0x00 => some (.iadd (bits w0 19 6) (bits w0 13 6) (bits w0 6 7) (bits w0 3 3) (bits w0 0 3))
  | 0x01 => some (.isub (bits w0 19 6) (bits w0 13 6) (bits w0 6 7) (bits w0 3 3) (bits w0 0 3))
  | 0x02 => some (.imul (bits w0 19 6) (bits w0 13 6) (bits w0 6 7) (bits w0 3 3) (bits w0 0 3))
  | 0x03 => some (.imulh (bits w0 19 6) (bits w0 13 6) (bits w0 6 7) (bits w0 3 3) (bits w0 0 3))
  | 0x04 => some (.imulhu (bits w0 19 6) (bits w0 13 6) (bits w0 6 7) (bits w0 3 3) (bits w0 0 3))
  | 0x05 => some (.imad (bits w0 19 6) (bits w0 13 6) (bits w0 6 7) (bits w0 3 3) (bits w0 0 3))
  | 0x06 => some (.imin (bits w0 19 6) (bits w0 13 6) (bits w0 6 7) (bits w0 3 3) (bits w0 0 3))
  | 0x07 => some (.imax (bits w0 19 6) (bits w0 13 6) (bits w0 6 7) (bits w0 3 3) (bits w0 0 3))
  | 0x08 => some (.iminu (bits w0 19 6) (bits w0 13 6) (bits w0 6 7) (bits w0 3 3) (bits w0 0 3))
  | 0x09 => some (.imaxu (bits w0 19 6) (bits w0 13 6) (bits w0 6 7) (bits w0 3 3) (bits w0 0 3))
  | 0x0A => some (.iadds (bits w0 19 6) (bits w0 13 6) (bits w0 6 7) (bits w0 3 3) (bits w0 0 3))
  | 0x0B => some (.isubs (bits w0 19 6) (bits w0 13 6) (bits w0 6 7) (bits w0 3 3) (bits w0 0 3))
  | 0x0C => some (.iabs (bits w0 19 6) (bits w0 13 6) (bits w0 3 3) (bits w0 0 3))
  | 0x0D => some (.andl (bits w0 19 6) (bits w0 13 6) (bits w0 6 7) (bits w0 3 3))
  | 0x0E => some (.orl (bits w0 19 6) (bits w0 13 6) (bits w0 6 7) (bits w0 3 3))
  | 0x0F => some (.xorl (bits w0 19 6) (bits w0 13 6) (bits w0 6 7) (bits w0 3 3))
  | 0x10 => some (.andnl (bits w0 19 6) (bits w0 13 6) (bits w0 6 7) (bits w0 3 3))
  | 0x11 => some (.shl (bits w0 19 6) (bits w0 13 6) (bits w0 6 7) (bits w0 3 3) (bits w0 0 3))
  | 0x12 => some (.shr (bits w0 19 6) (bits w0 13 6) (bits w0 6 7) (bits w0 3 3) (bits w0 0 3))
  | 0x13 => some (.sar (bits w0 19 6) (bits w0 13 6) (bits w0 6 7) (bits w0 3 3) (bits w0 0 3))
  | 0x14 => some (.rol (bits w0 19 6) (bits w0 13 6) (bits w0 6 7) (bits w0 3 3) (bits w0 0 3))
  | 0x15 => match bits w0 6 2 with
    | 0 => some (.popc (bits w0 19 6) (bits w0 13 6) (bits w0 3 3) (bits w0 0 3))
    | 1 => some (.clz (bits w0 19 6) (bits w0 13 6) (bits w0 3 3) (bits w0 0 3))
    | 2 => some (.brev (bits w0 19 6) (bits w0 13 6) (bits w0 3 3) (bits w0 0 3))
    | _ => none
  | 0x16 => some (.icmp (bits w0 19 6) (bits w0 13 6) (bits w0 6 7) (bits w0 3 3) (bits w0 0 3))
  | 0x17 => some (.sel (bits w0 19 6) (bits w0 13 6) (bits w0 6 7) (bits w0 3 3))
  | 0x18 => some (.mov (bits w0 19 6) (bits w0 6 7) (bits w0 3 3))
  | 0x19 => some (.perm (bits w0 19 6) (bits w0 13 6) (bits w0 6 7) (bits w0 3 3))
  | 0x1A => some (.movi (bits w0 19 6) (bits w0 3 16) (bits w0 0 3))
  | 0x1B => some (.movx (bits w0 19 6) (bits w0 0 3) w1)
  | 0x1C => some (.bfx (bits w0 19 6) (bits w0 13 6) (bits w0 6 7) (bits w0 3 3) (bits w0 0 1))
  | 0x1D => some (.bfi (bits w0 19 6) (bits w0 13 6) (bits w0 6 7) (bits w0 3 3))
  | 0x1E => some (.fadd (bits w0 19 6) (bits w0 13 6) (bits w0 6 7) (bits w0 3 3) (bits w0 0 3))
  | 0x1F => some (.fsub (bits w0 19 6) (bits w0 13 6) (bits w0 6 7) (bits w0 3 3) (bits w0 0 3))
  | 0x20 => some (.fmul (bits w0 19 6) (bits w0 13 6) (bits w0 6 7) (bits w0 3 3) (bits w0 0 3))
  | 0x21 => some (.ffma (bits w0 19 6) (bits w0 13 6) (bits w0 6 7) (bits w0 3 3) (bits w0 0 3))
  | 0x22 => some (.ffms (bits w0 19 6) (bits w0 13 6) (bits w0 6 7) (bits w0 3 3) (bits w0 0 3))
  | 0x23 => some (.fmin (bits w0 19 6) (bits w0 13 6) (bits w0 6 7) (bits w0 3 3) (bits w0 0 3))
  | 0x24 => some (.fmax (bits w0 19 6) (bits w0 13 6) (bits w0 6 7) (bits w0 3 3) (bits w0 0 3))
  | 0x25 => some (.fcmp (bits w0 19 6) (bits w0 13 6) (bits w0 6 7) (bits w0 3 3) (bits w0 0 3))
  | 0x26 => some (.fsgn (bits w0 19 6) (bits w0 13 6) (bits w0 6 7) (bits w0 3 3) (bits w0 0 3))
  | 0x27 => some (.fspc (bits w0 19 6) (bits w0 13 6) (bits w0 3 3) (bits w0 0 3))
  | 0x28 => some (.fclass (bits w0 19 6) (bits w0 13 6) (bits w0 3 3) (bits w0 0 3))
  | 0x29 => some (.cvt (bits w0 19 6) (bits w0 13 6) (bits w0 10 3) (bits w0 6 4) (bits w0 3 3) (bits w0 0 3))
  | 0x2A => some (.cvti (bits w0 19 6) (bits w0 13 6) (bits w0 10 3) (bits w0 6 4) (bits w0 3 3) (bits w0 0 3))
  | 0x2B => some (.cvtf (bits w0 19 6) (bits w0 13 6) (bits w0 10 3) (bits w0 6 4) (bits w0 3 3) (bits w0 0 3))
  | 0x2C => some (.fdot (bits w0 19 6) (bits w0 13 6) (bits w0 6 7) (bits w0 3 3) (bits w0 0 3))
  | 0x2D => some (.shfl (bits w0 19 6) (bits w0 13 6) (bits w0 6 7) (bits w0 3 3) (bits w0 0 3))
  | 0x2E => some (.vote (bits w0 19 6) (bits w0 6 7) (bits w0 3 3) (bits w0 0 3))
  | 0x2F => match bits w0 7 1 with
    | 0 => some (.scan (bits w0 19 6) (bits w0 13 6) (bits w0 6 1) (bits w0 3 3) (bits w0 0 3))
    | 1 => some (.scanFadd (bits w0 19 6) (bits w0 13 6) (bits w0 8 3) (bits w0 6 1))
    | _ => none
  | 0x30 => match bits w0 7 1 with
    | 0 => some (.red (bits w0 19 6) (bits w0 13 6) (bits w0 3 3) (bits w0 0 3))
    | 1 => some (.redFadd (bits w0 19 6) (bits w0 13 6) (bits w0 8 3))
    | _ => none
  | 0x31 => some (.qop (bits w0 19 3) (bits w0 13 3) (bits w0 6 3) (bits w0 3 3) (bits w0 0 3))
  | 0x32 => match bits w0 0 3 with
    | 0 => some (.movqToPredicate (bits w0 19 3) (bits w0 13 6) (bits w0 3 3))
    | 1 => some (.movqToVector (bits w0 19 6) (bits w0 13 3) (bits w0 3 3))
    | _ => none
  | 0x33 => some (.ld (bits w0 19 6) (bits w0 13 6) (bits w0 9 4) (bits w0 3 6) (bits w0 0 3))
  | 0x34 => some (.st (bits w0 19 6) (bits w0 13 6) (bits w0 9 4) (bits w0 3 6) (bits w0 0 3))
  | 0x35 => match w1 / 2^28 with
    | 0 => some (.aadd (bits w0 19 6) (bits w0 13 6) (bits w0 9 4) (bits w0 3 6) (bits w0 0 3) (bits w1 25 3) (bits w1 23 2) (bits w1 19 1))
    | 1 => some (.aand (bits w0 19 6) (bits w0 13 6) (bits w0 9 4) (bits w0 3 6) (bits w0 0 3) (bits w1 25 3) (bits w1 23 2) (bits w1 19 1))
    | 2 => some (.aor (bits w0 19 6) (bits w0 13 6) (bits w0 9 4) (bits w0 3 6) (bits w0 0 3) (bits w1 25 3) (bits w1 23 2) (bits w1 19 1))
    | 3 => some (.axor (bits w0 19 6) (bits w0 13 6) (bits w0 9 4) (bits w0 3 6) (bits w0 0 3) (bits w1 25 3) (bits w1 23 2) (bits w1 19 1))
    | 4 => some (.amin (bits w0 19 6) (bits w0 13 6) (bits w0 9 4) (bits w0 3 6) (bits w0 0 3) (bits w1 25 3) (bits w1 23 2) (bits w1 19 1))
    | 5 => some (.amax (bits w0 19 6) (bits w0 13 6) (bits w0 9 4) (bits w0 3 6) (bits w0 0 3) (bits w1 25 3) (bits w1 23 2) (bits w1 19 1))
    | 6 => some (.aminu (bits w0 19 6) (bits w0 13 6) (bits w0 9 4) (bits w0 3 6) (bits w0 0 3) (bits w1 25 3) (bits w1 23 2) (bits w1 19 1))
    | 7 => some (.amaxu (bits w0 19 6) (bits w0 13 6) (bits w0 9 4) (bits w0 3 6) (bits w0 0 3) (bits w1 25 3) (bits w1 23 2) (bits w1 19 1))
    | 8 => some (.axchg (bits w0 19 6) (bits w0 13 6) (bits w0 9 4) (bits w0 3 6) (bits w0 0 3) (bits w1 25 3) (bits w1 23 2) (bits w1 19 1))
    | 9 => some (.acas (bits w0 19 6) (bits w0 13 6) (bits w0 9 4) (bits w0 3 6) (bits w0 0 3) (bits w1 25 3) (bits w1 23 2) (bits w1 19 1))
    | 10 => some (.afadd (bits w0 19 6) (bits w0 13 6) (bits w0 9 4) (bits w0 3 6) (bits w0 0 3) (bits w1 25 3) (bits w1 23 2) (bits w1 20 3) (bits w1 19 1))
    | _ => none
  | 0x36 => some (.msign (bits w0 19 6) (bits w0 15 4) (bits w0 10 5) (bits w0 7 3) (bits w0 6 1))
  | 0x40 => some (.gadd (bits w0 19 6) (bits w0 13 6) (bits w0 7 6))
  | 0x41 => some (.gsub (bits w0 19 6) (bits w0 13 6) (bits w0 7 6))
  | 0x42 => some (.gmul (bits w0 19 6) (bits w0 13 6) (bits w0 7 6))
  | 0x43 => some (.gand (bits w0 19 6) (bits w0 13 6) (bits w0 7 6))
  | 0x44 => some (.gor (bits w0 19 6) (bits w0 13 6) (bits w0 7 6))
  | 0x45 => some (.gxor (bits w0 19 6) (bits w0 13 6) (bits w0 7 6))
  | 0x46 => some (.gshl (bits w0 19 6) (bits w0 13 6) (bits w0 7 6))
  | 0x47 => some (.gshr (bits w0 19 6) (bits w0 13 6) (bits w0 7 6))
  | 0x48 => some (.gsar (bits w0 19 6) (bits w0 13 6) (bits w0 7 6))
  | 0x49 => some (.gmin (bits w0 19 6) (bits w0 13 6) (bits w0 7 6))
  | 0x4A => some (.gmax (bits w0 19 6) (bits w0 13 6) (bits w0 7 6))
  | 0x4B => some (.gsel (bits w0 19 6) (bits w0 13 6) (bits w0 7 6) (bits w0 0 6))
  | 0x4C => some (.gaddi (bits w0 19 6) (bits w0 13 6) (bits w0 0 13))
  | 0x4D => some (.gmovi (bits w0 19 6) (bits w0 0 19))
  | 0x4E => some (.glui (bits w0 19 6) (bits w0 0 19))
  | 0x4F => some (.grdl (bits w0 19 6) (bits w0 13 6) (bits w0 0 5))
  | 0x50 => some (.br (bits w0 22 3) (bits w0 21 1) (bits w0 0 21))
  | 0x51 => some (.brg (bits w0 19 6) (bits w0 17 2) (bits w0 0 17))
  | 0x52 => some (.jmp (bits w0 13 6))
  | 0x53 => some (.call (bits w0 0 21))
  | 0x54 => some (.ret)
  | 0x55 => some (.join (bits w0 0 6))
  | 0x56 => some (.exit)
  | 0x57 => some (.spawn (bits w0 21 4) (bits w0 18 3) (bits w0 12 6))
  | 0x58 => some (.trap (bits w0 0 16))
  | 0x59 => some (.eret (bits w0 0 1))
  | 0x5A => some (.brk)
  | 0x5B => some (.nop)
  | 0x5C => some (.yield)
  | 0x5D => some (.bari (bits w0 18 7) (bits w0 12 6) (bits w0 6 6))
  | 0x5E => some (.bara (bits w0 18 7))
  | 0x5F => some (.barw (bits w0 18 7) (bits w0 12 6))
  | 0x60 => some (.bart (bits w0 18 7) (bits w0 12 6))
  | 0x61 => some (.syncm (bits w0 12 6))
  | 0x62 => some (.mlwait (bits w0 13 6) (bits w0 0 7))
  | 0x63 => some (.mlpass (bits w0 13 6) (bits w0 0 7))
  | 0x64 => some (.wait (bits w0 19 6) (bits w0 13 6) (bits w0 9 4) (bits w0 5 4))
  | 0x65 => some (.fence (bits w0 22 3) (bits w0 18 4) (bits w0 16 2))
  | 0x66 => some (.tfence (bits w0 22 3))
  | 0x67 => some (.ifence (bits w0 22 3))
  | 0x68 => some (.take (bits w0 19 6))
  | 0x69 => some (.hput (bits w0 13 6) (bits w0 0 3))
  | 0x6A => some (.hget (bits w0 19 6) (bits w0 0 3))
  | 0x6B => some (.cpy (bits w0 19 6) (bits w0 13 6) (bits w0 7 6) (bits w0 4 1) (bits w0 0 4) (bits w1 24 2) (bits w1 17 7))
  | 0x6C => some (.cpyg (bits w0 19 6) (bits w0 13 6) (bits w0 7 6) (bits w0 4 1) (bits w0 0 4) (bits w1 24 2) (bits w1 17 7))
  | 0x6D => some (.cpyt (bits w0 19 6) (bits w0 13 6) (bits w0 1 1) (bits w0 0 1) (bits w1 24 2) (bits w1 17 7) (bits w1 8 9) (bits w1 0 7))
  | 0x6E => some (.resv (bits w0 19 6) (bits w0 13 6) (bits w0 7 6) (bits w0 6 1) (bits w0 3 3) (bits w0 0 3) (bits w1 30 2) (bits w1 22 8))
  | 0x6F => match bits w0 6 1 with
    | 0 => some (.relsUnit (bits w0 0 6))
    | 1 => some (.relsWaypoint (bits w0 0 4))
    | _ => none
  | 0x70 => some (.mma (bits w0 19 6) (bits w0 13 6) (bits w0 7 6) (bits w0 1 1) (bits w0 0 1) (bits w1 26 6) (bits w1 24 2) (bits w1 17 7) (bits w1 14 3))
  | 0x71 => some (.mmab (bits w0 19 6) (bits w0 13 6) (bits w0 7 6) (bits w0 1 1) (bits w0 0 1) (bits w1 26 6) (bits w1 24 2) (bits w1 17 7) (bits w1 14 3))
  | 0x72 => some (.mmaj (bits w0 19 6) (bits w0 13 6) (bits w0 7 6) (bits w0 1 1) (bits w0 0 1) (bits w1 26 6) (bits w1 24 2) (bits w1 17 7) (bits w1 14 3))
  | 0x73 => some (.tzero (bits w0 19 6))
  | 0x74 => some (.tld (bits w0 19 6) (bits w0 13 6) (bits w0 7 6) (bits w0 3 4) (bits w0 0 3))
  | 0x75 => some (.tst (bits w0 19 6) (bits w0 13 6) (bits w0 7 6) (bits w0 3 4) (bits w0 0 3) (bits w1 24 2) (bits w1 17 7))
  | 0x76 => some (.fmtw (bits w0 13 6) (bits w0 0 3))
  | 0x77 => some (.fmtr (bits w0 19 6) (bits w0 0 3))
  | 0x78 => some (.srr (bits w0 19 6) (bits w0 0 13))
  | 0x79 => some (.srw (bits w0 13 6) (bits w0 0 13))
  | 0x7A => some (.tclaim (bits w0 0 8))
  | 0x7B => some (.tfree)
  | _ => none

/-- Decoding of the words at a convoy's PC: `w1` is ignored for a one-word instruction (R374 steps 2 and 3). -/
def decode (w0 w1 : Nat) : Option Instr :=
  let w1' := if lenOf w0 = 2 then w1 else 0
  match candidate w0 w1' with
  | some i => if i.wf && encode i == (w0, w1') then some i else none
  | none => none

/-- The Xfolale instruction whose fields the word holds (13 R353). -/
def candidateX (w : Nat) : Option Instr :=
  match w / 2^12 % 8 with
  | 0 => some (.xrfetch (w / 2^20 % 32) (w / 2^15 % 32) (w / 2^7 % 32))
  | 1 => some (.xbfext (w / 2^26 % 64) (w / 2^20 % 64) (w / 2^15 % 32) (w / 2^7 % 32))
  | 2 => some (.xswait (w / 2^20 % 32) (w / 2^15 % 32) (w / 2^7 % 32))
  | 3 => some (.xdisp (w / 2^15 % 32) (w / 2^7 % 32))
  | 4 => some (.xmeas (w / 2^15 % 32) (w / 2^7 % 32))
  | _ => none

/-- Decoding of a firmware processor's word of the custom-0 major (13 R353). -/
def decodeX (w : Nat) : Option Instr :=
  match candidateX w with
  | some i => if i.wf && encode0 i == w then some i else none
  | none => none

/-- A little-endian 32-bit word from the first four bytes of a list (R5). -/
def wordOfBytes : List Byte → Option (Nat × List Byte)
  | a :: b :: c :: d :: rest => some (a.toNat + b.toNat * 2^8 + c.toNat * 2^16 + d.toNat * 2^24, rest)
  | _ => none

/-- Decoding of the bytes at a convoy's PC: the instruction and the bytes after it. -/
def decodeBytes (bs : List Byte) : Option (Instr × List Byte) :=
  match wordOfBytes bs with
  | none => none
  | some (w0, r0) =>
    if lenOf w0 = 2 then
      match wordOfBytes r0 with
      | none => none
      | some (w1, r1) => (decode w0 w1).map (·, r1)
    else (decode w0 0).map (·, r0)

/-- The four little-endian bytes of a word (R5). -/
def bytesOfWord (w : Nat) : List Byte := [BitVec.ofNat 8 w, BitVec.ofNat 8 (w / 2^8), BitVec.ofNat 8 (w / 2^16), BitVec.ofNat 8 (w / 2^24)]

/-- The opcode table's word `w`: decoded as a convoy's words or, where bits 6:0 and funct3 are those of an Xfolale row,
as a firmware processor's word (DESIGN CHOICE, notes/assumptions/9: the two agents' words share the number space). -/
def decodeTableWord (_nbits w : Nat) : Option Instr :=
  match (if w % 128 = 0x0B && decide (w < 2^32) then decodeX w else none) with
  | some i => some i
  | none => (decodeBytes (bytesOfWord (w % 2^32) ++ bytesOfWord (w / 2^32))).map (·.1)

end Sys2Proof
end

