-- ==== Sys2Proof/Machine/Tables.lean ====
section
/-! DEFINITION. Operations on sorted sparse tables: every write keeps the keys strictly rising and lists no default entry,
so that equal tables are equal data. -/

namespace Sys2Proof

variable {α : Type}

/-- Entry of key `k`, `d` where none is listed. -/
def Tab.get (d : α) : Tab α → Nat → α
  | [], _ => d
  | (j, v) :: t, k => if j = k then v else Tab.get d t k

/-- `t` with no entry of key `k`. -/
def Tab.erase (k : Nat) : Tab α → Tab α
  | [] => []
  | (j, v) :: t => if j = k then Tab.erase k t else (j, v) :: Tab.erase k t

/-- `t` with `v` listed at `k`, in order. -/
def Tab.insert (k : Nat) (v : α) : Tab α → Tab α
  | [] => [(k, v)]
  | (j, w) :: t =>
    if k < j then (k, v) :: (j, w) :: t
    else if k = j then (k, v) :: t
    else (j, w) :: Tab.insert k v t

/-- Write: a default value is not listed. -/
def Tab.set [DecidableEq α] (d : α) (k : Nat) (v : α) (t : Tab α) : Tab α :=
  if v = d then Tab.erase k t else Tab.insert k v t

/-- Writes `h k` at every key of `ks`; `h` was computed from the state before. -/
def Tab.setMany [DecidableEq α] (d : α) (ks : List Nat) (h : Nat → α) (t : Tab α) : Tab α :=
  ks.foldl (fun t k => Tab.set d k (h k) t) t

/-- Writes the bytes (or other values) `vs` at `k`, `k + 1`, … -/
def Tab.setRun [DecidableEq α] (d : α) (k : Nat) : List α → Tab α → Tab α
  | [], t => t
  | v :: vs, t => Tab.setRun d (k + 1) vs (Tab.set d k v t)

/-- `n` entries from key `k` on. -/
def Tab.getRun (d : α) (t : Tab α) (k : Nat) : Nat → List α
  | 0 => []
  | n + 1 => Tab.get d t k :: Tab.getRun d t (k + 1) n

/-- Replaces the entries of keys lo … lo + n − 1 by `f`, in order. -/
def Tab.splice [DecidableEq α] (d : α) (lo n : Nat) (f : Nat → α) (t : Tab α) : Tab α :=
  (t.filter fun p => decide (p.1 < lo))
    ++ ((List.range n).filterMap fun i => if f i = d then none else some (lo + i, f i))
    ++ (t.filter fun p => decide (lo + n ≤ p.1))

/-- Writes a whole run of entries at once. -/
def Tab.putRun [DecidableEq α] (d : α) (lo : Nat) (vs : List α) (t : Tab α) : Tab α :=
  (t.filter fun p => decide (p.1 < lo))
    ++ (((List.range vs.length).map (lo + ·)).zip vs).filter (fun p => decide (p.2 ≠ d))
    ++ (t.filter fun p => decide (lo + vs.length ≤ p.1))

/-- Entries of the keys a … a + n − 1 of `src` copied to the keys b … b + n − 1 of `t`. -/
def Tab.copyRun (src : Tab α) (a n b : Nat) (t : Tab α) : Tab α :=
  (t.filter fun p => decide (p.1 < b))
    ++ ((src.filter fun p => decide (a ≤ p.1) && decide (p.1 < a + n)).map fun p => (p.1 - a + b, p.2))
    ++ (t.filter fun p => decide (b + n ≤ p.1))

/-- `t` without the keys a … a + n − 1. -/
def Tab.clearRun (a n : Nat) (t : Tab α) : Tab α := t.filter fun p => !(decide (a ≤ p.1) && decide (p.1 < a + n))

/-- Keys strictly rising from `lo` on and no entry equal to the default: the canonical form. -/
def Tab.wfFrom [DecidableEq α] (d : α) (lo : Nat) : Tab α → Bool
  | [] => true
  | (k, v) :: t => decide (lo ≤ k) && decide (v ≠ d) && Tab.wfFrom d (k + 1) t

/-- The canonical form. -/
def Tab.wf [DecidableEq α] (d : α) (t : Tab α) : Bool := Tab.wfFrom d 0 t

/-- Little-endian value of a list of bytes (00 R5). -/
def leNat : List Byte → Nat
  | [] => 0
  | b :: bs => b.toNat + 256 * leNat bs

/-- The `n` low bytes of a number, little-endian (00 R5). -/
def leBytes (v : Nat) : Nat → List Byte
  | 0 => []
  | n + 1 => BitVec.ofNat 8 v :: leBytes (v / 256) n

/-- Numbers 0 … n − 1. -/
def upto (n : Nat) : List Nat := List.range n

end Sys2Proof
end

