-- ==== Sys2Proof/Machine/Formats.lean ====
section
/-! DEFINITION. Format entries, exact values, decoding, rounding and encoding (04 R103-R120), and the LFSR of stochastic rounding. -/

namespace Sys2Proof.Machine

/-- Bits `lo + n − 1 : lo` of a number. -/
def field (v lo n : Nat) : Nat := v / 2^lo % 2^n

/-- A `w`-bit pattern read as two's complement. -/
def signed (w v : Nat) : Int := if v % 2^w < 2^(w - 1) then (v % 2^w : Nat) else (v % 2^w : Nat) - (2^w : Nat)

/-- The low `w` bits of an integer. -/
def wrap (w : Nat) (i : Int) : Nat := (i % (2^w : Nat)).toNat

/-- A format entry taken apart (R103). -/
structure Fmt where
  v : Bool := false
  s : Nat := 0
  ew : Nat := 0
  fw : Nat := 0
  bias : Int := 0
  sp : Nat := 0
  sub : Bool := false
deriving DecidableEq, Repr, Inhabited

/-- The fields of an entry (R103). -/
def Fmt.ofWord (w : Word) : Fmt :=
  let n := w.toNat
  { v := field n 31 1 = 1, s := field n 30 1, ew := field n 26 4, fw := field n 20 6,
    bias := signed 12 (field n 8 12), sp := field n 5 3, sub := field n 4 1 = 1 }

/-- Element width (R104). -/
def Fmt.width (f : Fmt) : Nat := f.s + f.ew + f.fw

/-- Elements in a register for a width (R86): 10 for 6 bits and 5 for 12 bits. -/
def perReg (w : Nat) : Nat := if w = 0 then 0 else 64 / w

/-- R105: what FMTW and a descriptor accept; bits 3:0 are not looked at. -/
def legalEntry (w : Word) : Bool :=
  let f := Fmt.ofWord w
  if f.v then
    [4, 6, 8, 12, 16, 32, 64].contains f.width && decide (f.ew ≤ 11) && decide (f.fw ≤ 52) && decide (f.sp ≤ 3)
      && (f.ew != 0 || (f.sp == 0 && !f.sub))
      && (f.ew == 0 || f.sp != 0 || (decide (2 ≤ f.ew) && decide (1 ≤ f.fw)))
      && (f.sp != 1 || (decide (2 ≤ f.ew) && decide (1 ≤ f.fw)))
      && (f.sp != 3 || f.s == 1)
  else w.toNat / 16 == 0

/-- The entry as stored: bits 3:0 are zero (R106). -/
def storedEntry (w : Word) : Word := w &&& 0xFFFFFFF0#32

/-- binary32 (R108). -/
def binary32 : Fmt := { v := true, s := 1, ew := 8, fw := 23, bias := 127 }
/-- bfloat16 (R108). -/
def bfloat16 : Fmt := { v := true, s := 1, ew := 8, fw := 7, bias := 127 }
/-- A signed integer of `w` bits as a fixed-point entry (R116). -/
def intFmt (w : Nat) : Fmt := { v := true, s := 1, ew := 0, fw := w - 1, bias := 0 }

/-- Exact values: NaN, ±∞ and ± m × 2^e. -/
inductive Val where
  | nan
  | inf (neg : Bool)
  | fin (neg : Bool) (m : Nat) (e : Int)
deriving DecidableEq, Repr, Inhabited

/-- m × 2^k for a shift of either sign, exact where it is an integer. -/
def shiftInt (m : Nat) (k : Int) : Nat := if 0 ≤ k then m * 2^k.toNat else m / 2^(-k).toNat

/-- R110. -/
def decodeVal (f : Fmt) (b : Nat) : Val :=
  let w := f.width
  if f.ew = 0 then
    let n : Int := if f.s = 1 then signed w b else (b % 2^w : Nat)
    .fin (decide (n < 0)) n.natAbs (-f.bias)
  else
    let s := f.s = 1 && field b (w - 1) 1 == 1
    let e := field b f.fw f.ew
    let m := field b 0 f.fw
    let emax := 2^f.ew - 1
    if f.sp = 0 ∧ e = emax then (if m = 0 then .inf s else .nan)
    else if f.sp = 1 ∧ e = emax ∧ m = 2^f.fw - 1 then .nan
    else if f.sp = 3 ∧ s ∧ e = 0 ∧ m = 0 then .nan
    else if e = 0 then
      (if m = 0 ∨ f.sub then .fin (s && f.sp != 3) 0 0
       else .fin s m (1 - f.bias - f.fw))
    else .fin s (2^f.fw + m) (e - f.bias - f.fw)

/-- Exponent of the smallest normal (R114). -/
def Fmt.emin (f : Fmt) : Int := 1 - f.bias

/-- Pattern of the NaN that the device writes (R109); SP 2 has none. -/
def nanPattern (f : Fmt) : Nat :=
  if f.sp = 0 then (2^f.ew - 1) * 2^f.fw + 2^(f.fw - 1)
  else if f.sp = 1 then 2^(f.fw + f.ew) - 1
  else if f.sp = 3 then 2^(f.width - 1)
  else 0

/-- R111. -/
def encodeVal (f : Fmt) : Val → Nat
  | .nan => nanPattern f
  | .inf s => (if s then f.s else 0) * 2^(f.width - 1) + (2^f.ew - 1) * 2^f.fw
  | .fin s m e =>
    if f.ew = 0 then
      let n := shiftInt m (e + f.bias)
      wrap f.width (if s then -(n : Int) else n)
    else
      let sign := if s && f.s == 1 then 2^(f.width - 1) else 0
      if m = 0 then (if f.sp = 3 then 0 else sign)
      else
        let x : Int := max ((m.log2 : Int) + e) f.emin
        let n := shiftInt m (e - (x - f.fw))
        if n < 2^f.fw then sign + n
        else sign + ((x - f.emin).toNat + 1) * 2^f.fw + (n - 2^f.fw)

/-- Largest finite magnitude of R109, as m and e. -/
def maxFinite (f : Fmt) : Nat × Int :=
  let emax : Int := (2^f.ew - 1 : Nat)
  if f.sp = 0 then (2^(f.fw + 1) - 1, emax - 1 - f.bias - f.fw)
  else if f.sp = 1 then (2^(f.fw + 1) - 2, emax - f.bias - f.fw)
  else (2^(f.fw + 1) - 1, emax - f.bias - f.fw)

/-- m × 2^e < n × 2^d. -/
def dyLt (m : Nat) (e : Int) (n : Nat) (d : Int) : Bool :=
  let k := min e d
  decide (m * 2^(e - k).toNat < n * 2^(d - k).toNat)

/-- RoundInt of R114 at v = m × 2^k. Codes: 0 RNE, 1 RTZ, 2 RUP, 3 RDN, 4 RNA, 5 RSR with state `t`. -/
def roundInt (m : Nat) (k : Int) (neg : Bool) (mode t : Nat) : Nat :=
  if 0 ≤ k then m * 2^k.toNat
  else
    let u := 2^(-k).toNat
    let i := m / u
    let f := m % u
    let up :=
      if mode = 0 then decide (u < 2 * f) || (decide (2 * f = u) && i % 2 == 1)
      else if mode = 4 then decide (u ≤ 2 * f)
      else if mode = 2 then decide (0 < f) && !neg
      else if mode = 3 then decide (0 < f) && neg
      else if mode = 5 then decide (2^32 ≤ f * 2^32 / u + t)
      else false
    if up then i + 1 else i

/-- Range of a fixed-point entry (R116). -/
def fixedLo (f : Fmt) : Int := if f.s = 1 then -(2^(f.width - 1) : Nat) else 0
def fixedHi (f : Fmt) : Int := if f.s = 1 then (2^(f.width - 1) : Nat) - 1 else (2^f.width : Nat) - 1

/-- An integer as an exact value of a fixed-point entry. -/
def fixedVal (f : Fmt) (i : Int) : Val := .fin (decide (i < 0)) i.natAbs (-f.bias)

/-- R116. -/
def roundFixed (f : Fmt) (mode : Nat) (sat : Bool) (t : Nat) : Val → Val
  | .nan => fixedVal f 0
  | .inf s => fixedVal f (if s then fixedLo f else fixedHi f)
  | .fin s m e =>
    let n : Int := roundInt m (e + f.bias) s mode t
    let i := if s then -n else n
    if fixedLo f ≤ i ∧ i ≤ fixedHi f then fixedVal f i
    else if sat then fixedVal f (if i < 0 then fixedLo f else fixedHi f)
    else
      let w := wrap f.width i
      fixedVal f (if f.s = 1 then signed f.width w else w)

/-- R114; `t` is the state already stepped under RSR. -/
def roundVal (f : Fmt) (mode : Nat) (sat : Bool) (t : Nat) (x : Val) : Val :=
  let zero (s : Bool) : Val := .fin (s && f.sp != 3 && f.s == 1) 0 0
  let maxv (s : Bool) : Val := .fin s (maxFinite f).1 (maxFinite f).2
  if f.ew = 0 then roundFixed f mode sat t x
  else match x with
    | .nan => if f.sp = 2 then zero false else .nan
    | .inf s =>
      if s && f.s == 0 then (if f.sp != 2 && !sat then .nan else zero false)
      else if f.sp = 0 ∧ sat = false then .inf s
      else if f.sp = 2 ∨ sat then maxv s
      else .nan
    | .fin s m e =>
      if m = 0 then zero s
      else if s && f.s == 0 then (if f.sp != 2 && !sat then .nan else zero false)
      else if f.sub && dyLt m e 1 f.emin then zero s
      else
        let x : Int := max ((m.log2 : Int) + e) f.emin
        let q := x - f.fw
        let n := roundInt m (e - q) s mode t
        if n = 0 then zero s
        else if f.sub && dyLt n q 1 f.emin then zero s
        else if dyLt (maxFinite f).1 (maxFinite f).2 n q then
          if sat || f.sp == 2 then maxv s
          else if mode = 1 ∨ (mode = 2 ∧ s) ∨ (mode = 3 ∧ s = false) then maxv s
          else if f.sp = 0 then .inf s else .nan
        else .fin s n q

def Val.neg : Val → Val
  | .nan => .nan
  | .inf s => .inf (!s)
  | .fin s m e => .fin (!s) m e

/-- R113 rules 1-4. -/
def Val.mul : Val → Val → Val
  | .nan, _ => .nan
  | _, .nan => .nan
  | .inf s, .inf r => .inf (s != r)
  | .inf s, .fin r m _ => if m = 0 then .nan else .inf (s != r)
  | .fin s m _, .inf r => if m = 0 then .nan else .inf (s != r)
  | .fin s m e, .fin r n d => .fin (s != r) (m * n) (e + d)

/-- Least exponent of the finite values of a list. -/
def minExp : List Val → Int → Int
  | [], k => k
  | .fin _ m e :: l, k => minExp l (if m = 0 then k else min e k)
  | _ :: l, k => minExp l k

/-- Exact sum of finite addends in units of 2^k. -/
def sumInt (k : Int) : List Val → Int
  | [] => 0
  | .fin s m e :: l =>
    let n : Int := if m = 0 then 0 else (m * 2^(e - k).toNat : Nat)
    (if s then -n else n) + sumInt k l
  | _ :: l => sumInt k l

def isNegZero : Val → Bool
  | .fin true 0 _ => true
  | _ => false

/-- One exact sum by R113 rules 1, 2, 3 and 5. -/
def sumVals (mode : Nat) (l : List Val) : Val :=
  if l.contains .nan then .nan
  else if l.contains (.inf true) && l.contains (.inf false) then .nan
  else if l.contains (.inf true) then .inf true
  else if l.contains (.inf false) then .inf false
  else
    let k := minExp l 0
    let n := sumInt k l
    if n = 0 then .fin (l.all isNegZero || mode == 3) 0 0
    else .fin (decide (n < 0)) n.natAbs k

/-- R117. -/
def lfsrStep (t : Word) : Word := if t.getLsbD 0 then (t >>> 1) ^^^ 0x80200003#32 else t >>> 1

/-- Initial SRSEED (R97). -/
def srSeed (seed : DWord) (lane cohort crew : Nat) : Word :=
  let s := (seed.setWidth 32 : Word) ^^^ ((seed >>> 32).setWidth 32 : Word)
    ^^^ BitVec.ofNat 32 ((lane + cohort * 32 + crew * 4096) * 0x9E3779B9)
  if s = 0 then 1 else s

/-- Element `i` of width `w` of a register (R86). -/
def elem (v : DWord) (w i : Nat) : Nat := field v.toNat (w * i) w

/-- A register from its elements, ascending, the rest zero (R86). -/
def packNat (w : Nat) : List Nat → Nat
  | [] => 0
  | x :: xs => x % 2^w + 2^w * packNat w xs

def pack (w : Nat) (xs : List Nat) : DWord := BitVec.ofNat 64 (packNat w xs)

/-- Rounding of a list of exact results in order, stepping the seed once per element under RSR (R118). -/
def roundList (f : Fmt) (mode : Nat) (sat : Bool) : List Val → Word → List Nat × Word
  | [], t => ([], t)
  | x :: xs, t =>
    let t' := if mode = 5 then lfsrStep t else t
    let r := roundList f mode sat xs t'
    (encodeVal f (roundVal f mode sat t'.toNat x) :: r.1, r.2)

end Sys2Proof.Machine
end

