-- ==== Sys2Proof/Machine/State.lean ====
section
/-! DEFINITION. The state of the whole device as plain data: everything the spec gives the machine, each unit's registers in a
record of its own. Sparse tables (`Tab`) list what differs from the value an unlisted key reads as; a field's default is its
value after device reset (values the spec leaves open are named in notes/assumptions). INVENTORY.md lists every field with its rule. -/

namespace Sys2Proof.Machine

/-- No step of this model stops with a fault: every architectural fault is taken, as a next state (log 10). Kept closed and
uninhabited in use; `stopped` is raised by nothing. Safe. -/
inductive Fault where
  | stopped
deriving DecidableEq, Repr

/-- Refusals. `notModelled` is raised by arms of exec that have no meaning yet; safe. -/
inductive Refusal where
  | notModelled (mnemonic : String)
deriving DecidableEq, Repr

/-- 02 R81. -/
inductive ThreadState where
  | free | inConvoy | spilled | parked | exiting
deriving DecidableEq, Repr, Inhabited

/-- One row of a lane and the thread in it (02 R30, 03 R95, R102). -/
structure Thread where
  v : Tab DWord := []
  q : BitVec 8 := 0
  pc : DWord := 0
  state : ThreadState := .free
  crew : Nat := 0
  cohort : Nat := 0
  stage : Nat := 0
  srseed : Word := 0
  trpc : DWord := 0
  trcause : Word := 0
  traddr : DWord := 0
  trval : DWord := 0
  trlane : DWord := 0
  inTrap : Bool := false
  len8 : Bool := false
  ocl : Nat := 0
  ocs : Nat := 0
  occ : Nat := 0
  oct : Nat := 0
  llat : Nat := 0
  /-- TLDs issued and not complete (02 R65). -/
  tlds : Nat := 0
  /-- Which of the threads that this row has held: late completions of an earlier one are discarded (16 R462). -/
  gen : Nat := 0
deriving DecidableEq, Repr, Inhabited

/-- Why a convoy is held (02 R45). `on i` waits inside the instruction at its PC and is evaluated again by its event. -/
inductive Hold where
  | none
  | on (i : Instr)
  /-- BARW: a phase completed while it was held (15 R408). -/
  | barwDone (i : Instr)
  /-- FENCE, TFENCE and IFENCE whose stores had to be waited for; TAKE waiting for the signpost. -/
  | sent (i : Instr)
  /-- Trap entry whose spills do not fit (02 R49): the faulting threads and the address. -/
  | trapSpill (ts : List Nat) (addr : Nat)
  /-- The same for a JMP or RET whose other members are to divide after it: their targets, and the membership at its issue (16 R449). -/
  | jumpSpill (ts : List Nat) (addr : Nat) (rest : List (Nat × Nat)) (mask : Nat)
  /-- Fetch met NOT_PRESENT (14 R371). -/
  | fetch (va : Nat)
  /-- The side log is full (06 R179): the store or atomic is tried again. -/
  | sideFull (i : Instr)
  /-- A toll demand suspended while the pool is below it (08 R239). -/
  | suspended
deriving DecidableEq, Repr, Inhabited

/-- 02 R42, R58; 08 R228, R232. A convoy with no members has ended. -/
structure Convoy where
  crew : Nat := 0
  core : Nat := 0
  quad : Nat := 0
  /-- (lane, row), ascending lane. -/
  members : List (Nat × Nat) := []
  pc : Nat := 0
  g : Tab DWord := []
  whole : Bool := false
  paid : Bool := false
  /-- Island cycle of its making (R40, R52); one saved counts from the save, so that the order of a quad's convoys outlives a move. -/
  age : Int := 0
  hold : Hold := .none
  /-- Last of the keys given out when the release, fence or TFENCE at its PC began: later accesses do not delay it (07 R197, 06 R174). -/
  since : Option Nat := none
  /-- The instruction at the PC has passed its toll check (08 R239). -/
  checked : Bool := false
  /-- Scope of the acquire of an issued atomic, until it is done (07 R201). -/
  acq : Option Nat := none
  /-- That instruction has paid its toll: what it still waits for asks for no second one (08 R222). -/
  tolled : Bool := false
  /-- Size of the holding; `Sys2Proof.Machine.heldBy` is what TOLLS reports. -/
  tolls : Nat := 0
  /-- Free tokens of the holding. -/
  free : Nat := 0
  /-- Cycle in which the holding was taken. -/
  youth : Nat := 0
  /-- Count of the implicit TCLAIM that is to be made before the context's next instruction (08 R234), 0 for none. -/
  reclaim : Nat := 0
  /-- YIELD and Form: the convoy does not issue in this cycle again (02 R52, 17 R503). -/
  notBefore : Nat := 0
deriving DecidableEq, Repr, Inhabited

/-- The words that a convoy has fetched for the instruction at `pc` and not issued (14 R373), and the cause with which it faults as its
presentation has settled (08 R239, 14 R374). -/
structure InHand where
  pc : Nat
  w0 : Nat
  w1 : Nat := 0
  verdict : Option Nat := none
deriving DecidableEq, Repr, Inhabited

/-- 02 R49, R50, R57. -/
structure Layby where
  crew : Nat
  core : Nat
  quad : Nat
  addr : Nat
  age : Nat := 0
  /-- Island cycle of its creation, counted from the save in a saved crew. -/
  created : Int := 0
  junction : Bool := false
  /-- Thread keys in the order they were appended; a lane's list is its sublist. -/
  queue : List Nat := []
deriving DecidableEq, Repr, Inhabited

/-- 03 R89. -/
structure Barrier where
  phase : Bool := false
  armed : Bool := false
  expect : Nat := 0
  arrived : Nat := 0
  tx : Int := 0
  ovf : Bool := false
deriving DecidableEq, Repr, Inhabited

/-- 02 R71: open while `parked` is not empty. -/
structure SyncRec where
  mask : Nat := 0
  arrived : List Nat := []
  parked : List Nat := []
  addr : Nat := 0
deriving DecidableEq, Repr, Inhabited

/-- 02 R73, 16 R441: head, count, and the convoys that wait in the order they reached the queue. -/
structure Handoff where
  head : Nat := 0
  count : Nat := 0
  waitPut : List Nat := []
  waitGet : List Nat := []
deriving DecidableEq, Repr, Inhabited

/-- 05 R131. -/
inductive LatchState where
  | empty | filling | complete
deriving DecidableEq, Repr, Inhabited

/-- 05 R128: `rows` is keyed 8 × row + word, `scales` 8 × row + block. -/
structure ALatch where
  state : LatchState := .empty
  fmt : Word := 0
  sfmt : Word := 0
  scaled : Bool := false
  regs : Nat := 0
  signed : List Nat := []
  rows : Tab DWord := []
  scales : Tab Byte := []
deriving DecidableEq, Repr, Inhabited

/-- 05 R133; `blk` is L, 0 for none. -/
structure Resv where
  core : Nat := 0
  first : Nat := 0
  count : Nat := 0
  fmt : Word := 0
  sfmt : Word := 0
  blk : Nat := 0
  soff : Nat := 0
  band0 : BitVec 16 := 0
  band1 : BitVec 16 := 0
deriving DecidableEq, Repr, Inhabited

/-- 01 R18, 02 R32. -/
inductive Footprint where
  | half | full | cluster
deriving DecidableEq, Repr, Inhabited

/-- Life of a crew: staging its in-regions, running, stopped for a stream-out that waits for the drain, writing back its out-regions,
saved in the context's save area, ended. -/
inductive CrewPhase where
  | none | staging | running | leaving | writingBack | saved | ended
deriving DecidableEq, Repr, Inhabited

/-- 02 R37, 03 R85, R101, R102. -/
structure Crew where
  phase : CrewPhase := .none
  ctx : Nat := 0
  run : Nat := 0
  num : Nat := 0
  core : Nat := 0
  slot : Nat := 0
  foot : Footprint := .half
  /-- Its launch cohorts have started (10 R277). -/
  started : Bool := false
  g : Tab DWord := []
  k : Tab (BitVec 128) := []
  w : Tab DWord := []
  f : Tab Word := []
  rsm : DWord := 0
  seed : DWord := 0
  bars : Tab Barrier := []
  syncs : Tab SyncRec := []
  hq : Tab Handoff := []
  latches : Tab ALatch := []
  resvs : List Resv := []
  mmajs : Nat := 0
  /-- Accumulators in use, as 8 × core + number (05 R127). -/
  accUsed : List Nat := []
  /-- Staging or write-back: the region and the byte in it that come next; page whose resume it waits for (06 R188). -/
  region : Nat := 0
  offset : Nat := 0
  waitPage : Option Nat := none
  /-- Order in which it was placed on its core or streamed out. -/
  order : Nat := 0
deriving DecidableEq, Repr, Inhabited

/-- 06 R187. -/
structure Region where
  base : Nat := 0
  len : Nat := 0
  soff : Nat := 0
  dir : Nat := 0
deriving DecidableEq, Repr, Inhabited

/-- 10 R274 (the descriptor as read at dispatch), R272, 02 R77, 16 R455. -/
structure Run where
  live : Bool := false
  id : Nat := 0
  ctx : Nat := 0
  part : Nat := 0
  vd : Nat := 0
  queue : Nat := 0
  seq : Nat := 0
  cevAddr : Nat := 0
  cevVal : DWord := 0
  det : Bool := false
  foot : Footprint := .half
  wait : Nat := 256
  serp : Bool := false
  band : Nat := 0
  spx : Nat := 1
  spy : Nat := 1
  counts : List Nat := []
  entries : List Nat := []
  trap : Nat := 0
  seed : DWord := 0
  spawn : Tab Nat := []
  regions : List Region := []
  ncrew : Nat := 0
  next : Nat := 0
  miles : Tab DWord := []
  /-- Milestone passes sent and not yet recorded: (milestone, value), oldest first. -/
  passes : List (Nat × DWord) := []
  /-- Graded code of the fault that ended the run, or 0 once it has completed with none. -/
  code : Option Nat := none
  /-- Image range of the save area (10 R282): byte offset. -/
  base : Nat := 0
  /-- Its entry in the run table (10 R282). -/
  index : Nat := 0
  /-- NEXT and the milestones stand in that entry and are to be read back before the first of its crews resumes. -/
  kept : Bool := false
  /-- Placed by launch orders of a firmware processor (13 R356), which keeps its records itself: no queue is answerable for it. -/
  ordered : Bool := false
deriving DecidableEq, Repr, Inhabited

/-- 06 R159: 128-byte line, keyed 64 × (PA / 128) + VD; `valid` bit n is 4-byte word n. -/
structure L1Line where
  valid : BitVec 32 := 0
  data : List Byte := []
deriving DecidableEq, Repr, Inhabited

/-- 06 R168. -/
structure TlbEntry where
  ctx : Nat
  vd : Nat
  va : Nat
  size : Nat
  pa : Nat
  w : Bool
  x : Bool
  h : Bool
  /-- Ownership rights found at walk time: reads, writes. -/
  rd : Bool
  wr : Bool
deriving DecidableEq, Repr, Inhabited

/-- A member of an instruction that is still in flight: thread key and the thread it was (16 R462). -/
structure Who where
  key : Nat
  gen : Nat
deriving DecidableEq, Repr, Inhabited

/-- The operation of an atomic in flight (15 R396), operands latched at issue. -/
structure AtomOp where
  aop : Nat := 0
  w64 : Bool := false
  fmt : Word := 0
  rmode : Nat := 0
  sat : Bool := false
deriving DecidableEq, Repr, Inhabited

/-- One member's part of an atomic: address and operands. -/
structure AtomPart where
  who : Who
  va : Nat
  addr : Nat
  s : DWord
  cmp : DWord
deriving DecidableEq, Repr, Inhabited

/-- 06 R178: a line of a ST (`bytes`: offset in the line and value) or of an atomic with N = 1. -/
structure SideEntry where
  /-- Order of issue among the accesses of a core (R178, R195). -/
  id : Nat := 0
  ctx : Nat
  /-- Crew whose threads issued it. -/
  crew : Nat := 0
  va : Nat
  bytes : List (Nat × Byte) := []
  width : Nat := 0
  atom : Option AtomOp := none
  scope : Nat := 0
  order : Nat := 0
  parts : List AtomPart := []
  lanes : List Who := []
  /-- Translation of the walk of its replay, while the access waits behind another one or for the byte budget. -/
  pa : Option Nat := none
deriving DecidableEq, Repr, Inhabited

/-- 05 R141. -/
inductive MKind where
  | mma | mmab | mmaj | tzero | tld | tst
deriving DecidableEq, Repr, Inhabited

/-- 05 R137, R141, R148: a matrix queue entry with everything latched at issue. -/
structure MEntry where
  kind : MKind := .tzero
  seq : Nat := 0
  ctx : Nat := 0
  crew : Nat := 0
  members : List Who := []
  acc : Nat := 0
  latch : ALatch := {}
  resv : Resv := {}
  bands : Option Word := none
  rmode : Nat := 0
  sat : Bool := false
  cmp : Bool := false
  bar : Nat := 0
  fmt : Word := 0
  regs : Nat := 0
  first : Nat := 0
  row0 : Nat := 0
  col0 : Nat := 0
  /-- TST: register data read at issue, keyed 64 × lane + register; RSR steps drawn at issue, per lane. -/
  data : Tab DWord := []
  draws : Tab Word := []
  /-- MMAJ: joint operation number, from 1. -/
  joint : Nat := 0
  /-- The toll has been collected at every port of the operation (08 R230). -/
  paid : Bool := false
  started : Option Nat := none
  restored : Bool := false
deriving DecidableEq, Repr, Inhabited

/-- 15 R414. -/
inductive CKind where
  | cpy | cpyg | cpyt
deriving DecidableEq, Repr, Inhabited

/-- 06 R183, 05 R149: a copy queue entry. -/
structure CEntry where
  kind : CKind := .cpy
  seq : Nat := 0
  ctx : Nat := 0
  crew : Nat := 0
  members : List Who := []
  rcd : BitVec 128 := 0
  out : Bool := false
  stage : Nat := 0
  idx : Nat := 0
  n : Nat := 0
  /-- CPYT: tile store target, target number, first row. -/
  tile : Bool := false
  target : Nat := 0
  row0 : Nat := 0
  paid : Bool := false
  cmp : Bool := false
  bar : Nat := 0
  started : Option Nat := none
  /-- Elements already moved (a transfer stopped at an element resumes there, 06 R186). -/
  moved : Nat := 0
  /-- Bytes of the next element that have been moved. -/
  off : Nat := 0
  /-- Page whose resume the transfer waits for (06 R186). -/
  page : Option Nat := none
  /-- Sources as they were at issue, by element, where R207 has the engine read them so (07 R207); a CPYT counts as one element. -/
  source : List (Option (List Byte)) := []
  restored : Bool := false
deriving DecidableEq, Repr, Inhabited

/-- 09 R250, R251. -/
structure Lease where
  rem : Int := 0
  asked : Bool := false
  refused : Bool := false
deriving DecidableEq, Repr, Inhabited

/-- A word of a core's arrays whose code found an error (11 R308, R310): the slot whose crew owns it, + 1, or 0 outside every crew; lane;
the word's number in the core; two bits wrong rather than one. -/
structure BadWord where
  slot : Nat := 0
  lane : Nat := 0
  word : Nat := 0
  hard : Bool := true
deriving DecidableEq, Repr, Inhabited

/-- A launch order (13 R356) that a context engine has accepted. -/
structure Order where
  ctx : Nat
  run : Nat
  crew : Nat
  core : Nat
  slot : Nat
  kind : Nat
  desc : Nat
  /-- Page whose resume the descriptor or the record block waits for, and the bytes of them that have been read. -/
  page : Option Nat := none
  raw : List Byte := []
deriving DecidableEq, Repr, Inhabited

/-- One core's units (01 R17). Stage memory, tile store and operand buffer are tables of State. -/
structure Core where
  l1 : Tab L1Line := []
  tlb : List TlbEntry := []
  /-- Instruction path (07 R209): the words it holds: context, VA, word. -/
  ipath : List (Nat × Nat × Nat) := []
  sideLog : List SideEntry := []
  mq : List MEntry := []
  cq : List CEntry := []
  /-- Crew in slot 0 and slot 1, 0 for none; a crew holding both slots stands in both. -/
  slot0 : Nat := 0
  slot1 : Nat := 0
  running : Nat := 0
  /-- Island cycles since its power-up in which the core was gated (00 R9). -/
  lag : Nat := 0
  fc0 : Int := 0
  fc1 : Int := 0
  leases : Tab Lease := []
  gated : Bool := false
  /-- Cycle in which the running slot was last chosen. -/
  selected : Nat := 0
  /-- Core cycle + 1 in which a layby table's former last formed a convoy, keyed 2 × quad + slot (02 R52). -/
  formed : Tab Nat := []
  /-- Errors found in the core's arrays, which the next core cycle deals with; set by the environment. -/
  bad : List BadWord := []
  /-- Launch orders that the context engine has accepted and not yet carried out (13 R354). -/
  orders : List Order := []
deriving DecidableEq, Repr, Inhabited

/-- 08 R235. -/
structure Claim where
  stop : Nat
  opened : Nat
  remaining : Nat
  /-- The other port of a paired claim, and each port's own toll. -/
  pair : Option Nat := none
  each : Nat := 0
deriving DecidableEq, Repr, Inhabited

/-- 08 R224: tokens that are given up at stop `stop` in cycle `ends`; `from` is the convoy whose holding paid. -/
structure Window where
  stop : Nat
  ends : Nat
  tokens : Nat
  holder : Option Nat := none
deriving DecidableEq, Repr, Inhabited

/-- 12 R344. -/
inductive ClusterState where
  | enabled | marked | retired | poweredDown
deriving DecidableEq, Repr, Inhabited

/-- What waits at a slice for its byte budget (09 R259): an access of a lane or an entry of a side log, by its key; a core's copy engine; a
crew's regions; a cluster's walk. -/
inductive Waiter where
  | access (id : Nat) | engine (core : Nat) | region (crew : Nat) | walk (ctx page : Nat)
deriving DecidableEq, Repr, Inhabited

/-- A walk that waits for the byte budget (06 R168, 09 R259): level of the entry that it reads next, and its table. -/
structure WalkPos where
  ctx : Nat
  page : Nat
  level : Nat
  tbl : Nat
deriving DecidableEq, Repr, Inhabited

/-- A cluster: its island, its Turnpike ring, its point register (08, 09 R256). `bins` n is the bin now at stop n. -/
structure Island where
  state : ClusterState := .enabled
  cycle : Nat := 0
  /-- Steps 2 to 6 of cycle 0 have been taken (08 R216). -/
  begun : Bool := false
  bins : List Nat := [96, 0, 0, 0, 0, 0, 0, 0, 0, 0]
  coll : List Nat := [0, 0, 0, 0, 0, 0, 0, 0, 0, 0]
  begins : Tab Nat := []
  claims : List Claim := []
  windows : List Window := []
  debt : Nat := 0
  /-- Pool table entries that differ from the default of R219, as value + 1. -/
  pools : Tab Nat := []
  /-- Entry halved by R258: (point, value before). -/
  halved : Option (Nat × Nat) := none
  req : Nat := 12
  cur : Nat := 12
  trim : Nat := 0
  rail : Nat := 2
  allow : BitVec 16 := 0xFFFF
  /-- Limit point of R258. -/
  limit : Nat := 15
  changing : Bool := false
  /-- Point of the change under way (R257). -/
  goal : Nat := 12
  tlb : List TlbEntry := []
  walks : List WalkPos := []
  life : Nat := 0
  /-- Corrected errors of the cores' arrays in the window of 11 R318 (12 R344). -/
  corr : Nat := 0
  /-- What marked the cluster (12 R330): 0 wear, 1 soft errors. -/
  reason : Nat := 0
  /-- The sustained limit that the island applies (01 R26). -/
  inForce : Nat := 2400
deriving DecidableEq, Repr, Inhabited

/-- 09 R244, R245, 13 R354. -/
structure Domain where
  cf : Nat := 0x1000
  e : Nat := 0
  part : Tab Nat := []
  /-- Measured energy of the intervals ended since the previous XMEAS, but for what one of them had reported of its own interval. -/
  integral : Nat := 0
  /-- Measured energy of the present interval that XMEAS has reported. -/
  read : Nat := 0
  /-- Island cycles of the present interval (R244). -/
  count : Nat := 0
  /-- Accounts charged in the interval before the present one (R246). -/
  before : List Nat := []
deriving DecidableEq, Repr, Inhabited

/-- 09 R247, R240, R245, R261. -/
structure Account where
  acct : Int := 0
  est : Nat := 0
  meas : Int := 0
  seq : Nat := 0
  /-- A closing context's final record is still to come (R246). -/
  closing : Bool := false
deriving DecidableEq, Repr, Inhabited

/-- A load in flight, one per member (06 R153, 16 R452). -/
structure LoadLine where
  va : Nat
  /-- Request that will fix the line, 0 for none (still to be translated, or fixed). -/
  rid : Nat := 0
  /-- The 128 bytes fixed for the line, [] until then. -/
  data : List Byte := []
deriving DecidableEq, Repr, Inhabited

structure Load where
  id : Nat
  who : Who
  convoy : Nat := 0
  crew : Nat := 0
  core : Nat := 0
  ctx : Nat := 0
  vd : Nat := 0
  first : Nat := 0
  regs : Nat := 1
  nbytes : Nat := 1
  va : Nat := 0
  stage : Bool := false
  pol : Nat := 0
  issued : Nat := 0
  /-- Core cycle in which its last byte returned (16 R452). -/
  back : Option Nat := none
  lines : List LoadLine := []
  /-- An atomic with N = 0: its number, and the replaced value once performed. -/
  atom : Bool := false
  aid : Nat := 0
  /-- Its instruction holds the convoy until every line is performed (06 R156). -/
  held : Bool := false
  value : Option DWord := none
  /-- Destination registers as they were at issue (07 R194); none for one that a later load has written already (16 R454). -/
  old : List (Option DWord) := []
  /-- Address, first word and two-word length of the instruction, for a trap met by a replay (06 R156). -/
  pc : Nat := 0
  w0 : Nat := 0
  two : Bool := false
deriving DecidableEq, Repr, Inhabited

/-- The tile transfer that a load's request waits for (06 R166, 11 R315): not asked for; on its way to the controller, which it reaches in a
controller cycle; queued there; under way, its data with the core at the end of a cycle; done. -/
inductive Fetching where
  | no | comes (cycle : Nat) | queued | back (cycle : Nat) | here
deriving DecidableEq, Repr, Inhabited

/-- A line request of a load to its slice, the host or a peer (06 R155, R160). -/
structure Req where
  id : Nat
  core : Nat := 0
  ctx : Nat := 0
  vd : Nat := 0
  va : Nat := 0
  /-- Physical address of the line. -/
  pa : Nat := 0
  pol : Nat := 0
  crew : Nat := 0
  /-- Words that the return may mark valid in the L1 (06 R160, 07 R198: none once an acquire has passed). -/
  mark : BitVec 32 := 0
  fetch : Fetching := .no
deriving DecidableEq, Repr, Inhabited

/-- One line of a store in flight (07 R189): `bytes` are physical addresses. -/
structure Store where
  id : Nat
  whos : List Who := []
  core : Nat := 0
  ctx : Nat := 0
  vd : Nat := 0
  stage : Bool := false
  pa : Nat := 0
  bytes : List (Nat × Byte) := []
  pol : Nat := 0
  va : Nat := 0
  crew : Nat := 0
  /-- Width of the lane access in bytes (12 R334: a 64-bit store), and the instruction's address. -/
  width : Nat := 0
  pc : Nat := 0
  /-- The core-scope atomic whose write-through it is, 0 for none (06 R163): a release that follows the atomic waits for it (07 R197). -/
  ofAtom : Nat := 0
deriving DecidableEq, Repr, Inhabited

/-- An atomic in flight (15 R397). -/
structure Atom where
  id : Nat
  convoy : Nat := 0
  crew : Nat := 0
  core : Nat := 0
  ctx : Nat := 0
  vd : Nat := 0
  op : AtomOp := {}
  scope : Nat := 0
  order : Nat := 0
  ret : Bool := false
  reg : Nat := 0
  stage : Bool := false
  pol : Nat := 0
  parts : List AtomPart := []
  /-- Parts with N = 0 whose line waits for the resume or for a side-log entry (06 R156, R179). -/
  deferred : List AtomPart := []
  /-- Address, first word and two-word length of the instruction. -/
  pc : Nat := 0
  w0 : Nat := 0
  two : Bool := false
deriving DecidableEq, Repr, Inhabited

structure Flight where
  loads : List Load := []
  reqs : List Req := []
  /-- Accesses done whose thread still has an older one of the class OCS outstanding (07 R195). -/
  acks : List (Who × Nat) := []
  stores : List Store := []
  atoms : List Atom := []
deriving DecidableEq, Repr, Inhabited

/-- A tile held in an MSC slice, keyed by tile number (01 R19, 06 R166). -/
structure MscTile where
  way : Nat := 0
  dirty : Bool := false
  writer : Nat := 0
  stalled : Bool := false
  /-- The held copy has an uncorrectable word, or a correctable one (11 R308, R309); set by the environment. -/
  bad : Bool := false
  soft : Bool := false
deriving DecidableEq, Repr, Inhabited

/-- Where the round of the islands in a slice cycle stands: still to begin, under way, over, over with the slices' intervals ended. -/
inductive Round where
  | new | on | over | closed
deriving DecidableEq, Repr, Inhabited

/-- MSC slices: way masks keyed 4 × VD + class (06 R167), byte budgets keyed 256 × slice + cluster (09 R259). -/
structure Msc where
  /-- The slice cycle, counted from reset (00 R8; log 76). -/
  cycle : Nat := 0
  round : Round := .new
  tiles : Tab MscTile := []
  masks : Tab DWord := []
  /-- Disabled ways, keyed (16 × slice + way) × 512 + set (11 R318). -/
  wayOff : Tab Bool := []
  budgets : Tab Nat := []
  used : Tab Nat := []
  /-- USED at the end of the window before (R258). -/
  lastUsed : Tab Nat := []
  /-- Requests that wait for the next window (ids), per slice. -/
  waiting : Tab (List Nat) := []
  /-- All that waits for a budget, in order of arrival, keyed as the budgets; whether it has been tried in the present window. -/
  line : Tab (List (Waiter × Bool)) := []
  /-- Controller cycles from a load's issue to its request's arrival at the controller, and from the end of a transfer's data to the register:
  no rule fixes them (19, Program E's premises); set by the environment (log 58). -/
  lead : Nat := 0
  trail : Nat := 0
deriving DecidableEq, Repr, Inhabited

/-- 06 R175: owner and, under 0xFFFE, the partition. -/
structure Owner where
  owner : Nat := 0
  part : Nat := 0
deriving DecidableEq, Repr, Inhabited

/-- A tile as it stands in its stack (11 R295, R296): its metadata entry, and what the symbol code finds in its bursts. -/
structure TileMeta where
  version : Nat := 0
  gen : Nat := 0
  /-- Bits 47:40 of the entry. -/
  zero : Nat := 0
  /-- TAG, where it is not the tag that the seal unit makes of the tile as stored. -/
  tag : Option (BitVec 80) := none
  /-- The stored ciphertext, where it is not what the seal unit makes of the tile's contents in `mem`. -/
  raw : Option (List Byte) := none
  /-- Bursts with an error: number, and whether it is uncorrectable (11 R308); set by the environment. -/
  errs : List (Nat × Bool) := []
deriving DecidableEq, Repr, Inhabited

/-- 11 R297, R298. -/
structure KeySlot where
  cur : Nat := 0
  prev : Option Nat := none
  /-- Draws of the security processor's random source that gave the keys of the two generations. -/
  draw : Nat := 0
  prevDraw : Nat := 0
  /-- A reseal is running: slices that have finished; next local tile per slice. -/
  reseal : Bool := false
  doneSlices : List Nat := []
  cursor : Tab Nat := []
  again : Bool := false
  destroyed : Bool := false
deriving DecidableEq, Repr, Inhabited

/-- A poison table's entry (11 R311, R312): the tile's incident, 0 for no entry; window and place of its own uncorrectable event. -/
structure Poison where
  incident : Nat := 0
  window : Option Nat := none
  place : Nat := 0
deriving DecidableEq, Repr, Inhabited

structure Seal where
  owners : Tab Owner := []
  tiles : Tab TileMeta := []
  slots : Tab KeySlot := []
  /-- Poison tables (11 R311), by tile number. -/
  poison : Tab Poison := []
  incidents : Nat := 0
  /-- Incident that the last walk of a page met, by page number: what its WALK_ERROR carries (11 R312). -/
  walked : Tab Nat := []
  retired : List Nat := []
  /-- Frames with three corrections in a window, which firmware is to migrate and retire (11 R318). -/
  migrate : List Nat := []
  /-- The window's number; counts of it (11 R318): by location; corrected bursts by slice; uncorrectable events by pseudo-channel or slice. -/
  window : Nat := 0
  corrected : Tab Nat := []
  corrBursts : Tab Nat := []
  uncorrEvents : Tab Nat := []
  /-- SEAL_COUNTER_EXHAUSTED as sent to firmware (11 R305): tile and slot, newest last. -/
  notices : List (Nat × Nat) := []
deriving DecidableEq, Repr, Inhabited

/-- 11 R315-R317: a pseudo-channel, keyed 64 × stack + pc. Times are controller cycles. -/
structure Transfer where
  tile : Nat
  write : Bool := false
  arrived : Nat := 0
  /-- The load's request that waits for it, 0 for none. -/
  rid : Nat := 0
deriving DecidableEq, Repr, Inhabited

structure PChan where
  post : Nat := 0
  next : Nat := 0
  forced : BitVec 32 := 0
  queue : List Transfer := []
  /-- Bank number to the cycle in which it is free. -/
  bankFree : Tab Nat := []
  /-- First cycle in which the data bus is free. -/
  busFree : Nat := 0
  /-- Transfers under way: tile, cycle in which its bank is free. -/
  active : List (Nat × Nat) := []
  /-- Last cycle in which a request was queued or in flight. -/
  lastBusy : Option Nat := none
  /-- Cycle of the last due event, and of the one that raised POST to 8 (11 R316). -/
  lastDue : Nat := 0
  rose : Nat := 0
  refab : Option Nat := none
  /-- Cycles of the due events whose REFpb is still to issue. -/
  pending : List Nat := []
deriving DecidableEq, Repr, Inhabited

/-- 11 R319. -/
structure Scrub where
  on : Bool := false
  next : Nat := 0
deriving DecidableEq, Repr, Inhabited

/-- 10 R266, 09 R248; account of the same number. -/
structure Context where
  used : Bool := false
  root : Nat := 0
  save : Nat := 0
  vd : Nat := 0
  joint : Bool := false
  pages : Nat := 0
  part : Nat := 0
  level : Int := 0
  cap : Nat := 0
  share : Nat := 16
  /-- Graded code of its context fault. -/
  stop : Option Nat := none
  /-- Page requests outstanding: page VA, kind (12 R330). -/
  pages_ : List (Nat × Nat) := []
  destroyed : Bool := false
deriving DecidableEq, Repr, Inhabited

structure Partition where
  used : Bool := false
  clusters : List Nat := []
deriving DecidableEq, Repr, Inhabited

/-- 12 R331. -/
inductive TState where
  | unlocked | locked | run | error
deriving DecidableEq, Repr, Inhabited

/-- The interface report of a lock (12 R332): the VD's HDM windows, its queue records and its MSI-X table as they were. -/
structure Report where
  windows : List (Nat × Nat × Nat) := []
  records : List (Nat × Nat) := []
  msix : List Byte := []
deriving DecidableEq, Repr, Inhabited

/-- 12 R331, R346, R349. -/
structure Vd where
  part : Option Nat := none
  tstate : TState := .unlocked
  ide : Bool := false
  refused : Nat := 0
  report : Option Report := none
  drainSet : Bool := false
  fault : DWord := 0
  fincident : Nat := 0
  ftime : Nat := 0
deriving DecidableEq, Repr, Inhabited

/-- 10 R271: a pending run. -/
structure Pending where
  seq : Nat
  desc : Nat
  cevAddr : Nat := 0
  cevVal : DWord := 0
  waits : List (Nat × Nat) := []
  runid : Nat := 0
  ready : Bool := false
  readyAt : Nat := 0
  /-- Page whose resume an event wait, the descriptor or the record block waits for (10 R271, R276). -/
  page : Option Nat := none
  /-- Bytes of the descriptor and the record block that have been read: they are read once (10 R274). -/
  raw : List Byte := []
  /-- Descriptor and record block as read (10 R274): the run, and what each of its crews starts with. -/
  got : Option (Run × Crew) := none
deriving DecidableEq, Repr, Inhabited

/-- 10 R268. -/
inductive QState where
  | running | draining | drained
deriving DecidableEq, Repr, Inhabited

/-- 10 R268, 12 R333, 09 R260; keyed 64 × VD + queue. -/
structure Queue where
  prio : Nat := 0
  pw : Nat := 16
  state : QState := .running
  paused : Bool := false
  active : Nat := 0
  base : Nat := 0
  size : Nat := 0
  vector : Nat := 0
  ien : Bool := false
  en : Bool := false
  ctx : Nat := 0
  cbase : Nat := 0
  kickva : Nat := 0
  head : BitVec 32 := 0
  tail : BitVec 32 := 0
  fault : Nat := 0
  kickFault : Bool := false
  kickPa : Option Nat := none
  tries : Nat := 0
  pend : List Pending := []
  deficit : Nat := 0
  energy : Nat := 0
  /-- A ring read, or a completion write, waits for the resume of this page (12 R333). -/
  waitPage : Option Nat := none
  recPage : Option Nat := none
  /-- Completion records that are still to be written, oldest first: SEQ, status, RUNID. -/
  records : List (Nat × Nat × Nat) := []
deriving DecidableEq, Repr, Inhabited

/-- An unrequested record for the partition manager (12 R329, R330): type and body bytes from byte 16 on. -/
structure EventRec where
  type : Nat
  time : Nat := 0
  body : List Byte := []
deriving DecidableEq, Repr, Inhabited

/-- 12 R322. -/
structure Hdm where
  used : Bool := false
  vd : Nat := 0
  base : Nat := 0
  len : Nat := 0
deriving DecidableEq, Repr, Inhabited

/-- The host side (12). -/
structure HostSide where
  /-- Mailbox request bytes (64). -/
  req : List Byte := []
  doorbell : Bool := false
  status : DWord := 0
  result : List Byte := []
  evack : Nat := 0
  ringBase : Nat := 0
  ringSize : Nat := 0
  ringVector : Nat := 0
  ringOn : Bool := false
  evSeq : Nat := 0
  /-- Slot number to the SEQ last written in it since the ring was last enabled at its base. -/
  slots : Tab Nat := []
  kept : List EventRec := []
  hdm : Tab Hdm := []
  survey : Tab Byte := []
  /-- Interrupts sent: function, vector; newest first. -/
  msix : List (Nat × Nat) := []
  failed : Bool := false
  drainSet : Bool := false
  linkDown : Bool := false
  /-- Lanes on which the link trains at the next device reset; set by the environment (R321). -/
  lanes : Nat := 16
  /-- Microseconds since reset. -/
  uptime : Nat := 0
  /-- The last host-class access's answer: error flag and the 64 bytes. -/
  answer : Option (Bool × BitVec 512) := none
  /-- Bytes of the MSI-X tables (R324), keyed 4096 × function + offset. -/
  msixTable : Tab Byte := []
deriving DecidableEq, Repr, Inhabited

/-- 09 R263: a budget message of a rack member. -/
structure Budget where
  epoch : Nat := 0
  demand : Nat := 1200
  weight : Nat := 1
deriving DecidableEq, Repr, Inhabited

/-- 09 R264, R265: a rack member's messages that are still of use, newest first; epochs in a row without one. -/
structure Member where
  msgs : List Budget := []
  missed : Nat := 0
deriving DecidableEq, Repr, Inhabited

/-- 09 R263, 12 R328: what the partition manager has written of the rack cap; 0 for none. -/
structure RackCap where
  cap : Nat := 0
  group : Nat := 0
  weight : Nat := 1
deriving DecidableEq, Repr, Inhabited

/-- Weights of 09 R241 and 05 R144 in qpJ; `…Per` is what each active lane, member or 128 bytes add. -/
structure Weights where
  lane : Nat := 8
  lanePer : Nat := 1
  toll1 : Nat := 16
  toll1Per : Nat := 3
  toll2 : Nat := 24
  toll2Per : Nat := 4
  group : Nat := 12
  mem : Nat := 16
  memPer : Nat := 4
  l1 : Nat := 80
  stage : Nat := 40
  sector : Nat := 320
  tile : Nat := 4096
  readBurst : Nat := 7200
  writeBurst : Nat := 7600
  copy : Nat := 200
  flit : Nat := 4000
  msign : Nat := 16
  msignPer : Nat := 4
  /-- Issue of RESV, RELS and TZERO; of the MMA family; of TLD and TST; of CPYT. -/
  unit : Nat := 12
  mmaIssue : Nat := 12
  tileIssue : Nat := 12
  cpytIssue : Nat := 12
  /-- MMA family by input width (05 R125). -/
  mma : Nat := 100000
  mma16 : Nat := 110000
  mma32 : Nat := 120000
  tileData : Nat := 200
  cpyt : Nat := 200
  cpytPer : Nat := 40
deriving DecidableEq, Repr, Inhabited

/-- 01 R26, 09 R241, R258, R260, R263-R265. -/
structure Power where
  weights : Weights := {}
  /-- What firmware writes at the next device reset; set by the environment. -/
  nextWeights : Weights := {}
  suslim : Nat := 2400
  /-- Package power averaged over the last 1 ms, in watts (R258). -/
  watts : Nat := 0
  binding : Bool := false
  /-- The limit has bound in the present 1 ms window; consecutive windows in which it bound (R260). -/
  bound : Bool := false
  windows : Nat := 0
  halved : Bool := false
  rack : RackCap := {}
  /-- Written and not yet effective: the epoch from which it is (R263). -/
  nextRack : Option (Nat × RackCap) := none
  epoch : Nat := 0
  alloc : Nat := 0
  demand : Nat := 1200
  members : Tab Member := []
  silent : List Nat := []
  undersized : Bool := false
  conservative : Bool := false
deriving DecidableEq, Repr, Inhabited

/-- 13 R367. -/
inductive PortState where
  | normal | pending | spared | down
deriving DecidableEq, Repr, Inhabited

/-- A flit: header and payload as one number each (13 R365). -/
structure Flit where
  header : Nat
  payload : Nat := 0
deriving DecidableEq, Repr, Inhabited

structure Port where
  state : PortState := .normal
  freezing : Bool := false
  peer : Nat := 0
  /-- Next SEQ to send; expected SEQ of the receiver: before any flit the header's SEQ and ACK stand at 0 (13 R365; log 49). -/
  seq : Nat := 1
  expect : Nat := 1
  /-- Unacknowledged flits, oldest first. -/
  replay : List Flit := []
  /-- The flits to send, in order. -/
  out : List Flit := []
  /-- How many of the oldest unacknowledged flits have been sent again. -/
  replaying : Nat := 0
  /-- Failures attributed to a lane: lane, UPTIME in µs. -/
  fails : List (Nat × Nat) := []
  /-- The lane that triggered repair. -/
  bad : Option Nat := none
  /-- UPTIME in µs of the replays. -/
  replays : List Nat := []
  naked : Bool := false
  /-- Flits transmitted and flits delivered, newest first. -/
  sent : List Flit := []
  delivered : List Flit := []
deriving DecidableEq, Repr, Inhabited

/-- 13 R369: import table keyed 64 × package + VD, value the local owner. -/
structure Fabric where
  imports : Tab Nat := []
  ports : Tab Port := []
  /-- Answer of the last request that a peer made: error flag and the 128 bytes of a read. -/
  answer : Option (Bool × BitVec 1024) := none
deriving DecidableEq, Repr, Inhabited

/-- 13 R351-R357: processors 0-7 are the command processors, 8-11 the power controllers of dies 0-3. -/
structure FwProc where
  x : Tab DWord := []
  pc : Nat := 0
  mepc : DWord := 0
  mcause : DWord := 0
  mtval : DWord := 0
  mtvec : DWord := 0
  /-- MIE and MPIE of mstatus; mie; mscratch; the reservation of an LR. -/
  mstatus : DWord := 0
  mie : DWord := 0
  mscratch : DWord := 0
  resv : Option Nat := none
  /-- Firmware has been placed in its SRAM: it executes whenever it does not wait. -/
  on : Bool := false
  sram : Tab Byte := []
  pending : DWord := 0
  /-- A waiting XSWAIT: destination, mask, timeout in ns. -/
  waiting : Option (Nat × DWord × DWord) := none
  halted : Bool := false
  /-- At its safe point of the hand-over under way (13 R363). -/
  safe : Bool := false
deriving DecidableEq, Repr, Inhabited

/-- 13 R360. -/
inductive Lifecycle where
  | manufacturing | deployed | debugUnlocked | decommissioned
deriving DecidableEq, Repr, Inhabited

/-- A response to GET_MEASUREMENTS (13 R359): the snapshot of the blocks, and its signature. -/
structure Measured where
  blocks : Tab (BitVec 384) := []
  staged : Option (Nat × BitVec 384) := none
  log : List (Bool × BitVec 384) := []
  signature : List Byte := []
deriving DecidableEq, Repr, Inhabited

/-- 13 R358-R364. Measurement blocks by index. -/
structure Security where
  life : Lifecycle := .deployed
  debugOpen : Bool := false
  challenge : Option Nat := none
  /-- Blocks 1 to 6 as the ROM has extended them (R358): `Sys2Proof.Machine.bootBlocks`. -/
  blocks : Tab (BitVec 384) := []
  /-- Block 7: image kind (3 or 4) and its measurement; the staged image. -/
  staged : Option (Nat × BitVec 384) := none
  image : Nat := 0
  /-- Block 8, newest first: true and an earlier committed image's block, or false and that of an aborted hand-over. -/
  log : List (Bool × BitVec 384) := []
  sessions : Nat := 0
  response : Option Measured := none
deriving DecidableEq, Repr, Inhabited

/-- The whole device. -/
structure State where
  /-- Events that are due, oldest first (the model's agenda: log 1). -/
  due : List Instr := []
  /-- Convoys that the arbitration has let issue (08 R228), in order. -/
  issue : List Nat := []
  /-- Bytes of the engine entries complete in this core cycle, which reach their barriers after its instructions (15 R404): crew, barrier, bytes. -/
  barBytes : List (Nat × Nat × Nat) := []
  /-- The convoy, or firmware processor 1,000,000 + n, that executes now. -/
  cur : Nat := 0
  /-- Firmware processors that are to execute their next instruction. -/
  fwIssue : List Nat := []
  /-- Island of the next idle step. -/
  turn : Nat := 0
  /-- Counter for keys and free values (log 2). -/
  fresh : Nat := 0
  threads : Tab Thread := []
  convoys : Tab Convoy := []
  /-- Words in hand, by convoy. -/
  words : Tab (Option InHand) := []
  laybys : List Layby := []
  crews : Tab Crew := []
  runs : Tab Run := []
  cores : Tab Core := []
  islands : Tab Island := []
  doms : Tab Domain := []
  accts : Tab Account := []
  mem : List Host.Cell := []
  stage : List Host.Cell := []
  acc : Tab Word := []
  ob : List Host.Cell := []
  flight : Flight := {}
  msc : Msc := {}
  sealing : Seal := {}
  hbm : Tab PChan := []
  scrub : Tab Scrub := []
  ctxs : Tab Context := []
  parts : Tab Partition := []
  vds : Tab Vd := []
  queues : Tab Queue := []
  host : HostSide := {}
  power : Power := {}
  fabric : Fabric := {}
  fw : Tab FwProc := []
  sec : Security := {}
deriving DecidableEq, Repr, Inhabited

/-! ### Measured boot (13 R358) -/

/-- The 48 bytes of a digest, a big-endian byte string. -/
def digestBytes (x : BitVec 384) : List Byte := (List.range 48).map fun i => (x >>> (8 * (47 - i))).setWidth 8

/-- A block extended by a digest: a hash of the old value together with the new digest. -/
def extend (old digest : BitVec 384) : BitVec 384 := Config.sha384 (digestBytes old ++ digestBytes digest)

def Lifecycle.code (l : Lifecycle) : Nat := match l with | .manufacturing => 0 | .deployed => 1 | .debugUnlocked => 2 | .decommissioned => 3

/-- Digest of the lifecycle state and the debug flag. -/
def lifeDigest (l : Lifecycle) (debug : Bool) : BitVec 384 := Config.sha384 [BitVec.ofNat 8 l.code, if debug then 1 else 0]

/-- The weights in table order. -/
def Weights.list (w : Weights) : List Nat :=
  [w.lane, w.lanePer, w.toll1, w.toll1Per, w.toll2, w.toll2Per, w.group, w.mem, w.memPer, w.l1, w.stage, w.sector, w.tile, w.readBurst, w.writeBurst,
   w.copy, w.flit, w.msign, w.msignPer, w.unit, w.mmaIssue, w.tileIssue, w.cpytIssue, w.mma, w.mma16, w.mma32, w.tileData, w.cpyt, w.cpytPer]

/-- Blocks 1 to 6 after the boot: each stage is measured and extended into a block of zeros. -/
def bootBlocks (l : Lifecycle) (debug : Bool) (w : Weights) : Tab (BitVec 384) :=
  [(1, extend 0 (Config.stageDigest 1)), (2, extend 0 (Config.stageDigest 2)), (3, extend 0 (Config.stageDigest 3)), (4, extend 0 (Config.stageDigest 4)),
   (5, extend 0 (Config.configDigest w.list)), (6, extend 0 (lifeDigest l debug))]

/-- The device right after reset: every field at its default, the boot measured (INVENTORY.md, '## State'). -/
def State.reset : State := { sec := { blocks := bootBlocks .deployed false {} } }

end Sys2Proof.Machine
end

