-- ==== Sys2Proof/Machine/Ops.lean ====
section
/-! DEFINITION. Named operations over the state that every family shares: reading and writing the tables, charges (09 R240-R243),
tokens given up (08 R225), convoys that end, spills (02 R49), taking an exception (10 R284, R285), the context fault (10 R287, R288). -/

namespace Sys2Proof.Machine

/-- The canonical form of the memory list: addresses strictly rising, no byte equal to what an unlisted address reads as. -/
def Memory.wf (m : List Host.Cell) : Bool := Tab.wf 0 m

/-! ### Reading and writing the tables -/

def State.thread (s : State) (k : Nat) : Thread := Tab.get {} s.threads k
def State.setThread (s : State) (k : Nat) (t : Thread) : State := { s with threads := Tab.set {} k t s.threads }
def State.convoy (s : State) (k : Nat) : Convoy := Tab.get {} s.convoys k
def State.setConvoy (s : State) (k : Nat) (c : Convoy) : State := { s with convoys := Tab.set {} k c s.convoys }
def State.crew (s : State) (k : Nat) : Crew := Tab.get {} s.crews k
def State.setCrew (s : State) (k : Nat) (c : Crew) : State := { s with crews := Tab.set {} k c s.crews }
def State.run (s : State) (k : Nat) : Run := Tab.get {} s.runs k
def State.setRun (s : State) (k : Nat) (r : Run) : State := { s with runs := Tab.set {} k r s.runs }
def State.core (s : State) (k : Nat) : Core := Tab.get {} s.cores k
def State.setCore (s : State) (k : Nat) (c : Core) : State := { s with cores := Tab.set {} k c s.cores }
def State.island (s : State) (k : Nat) : Island := Tab.get {} s.islands k
def State.setIsland (s : State) (k : Nat) (i : Island) : State := { s with islands := Tab.set {} k i s.islands }
def State.dom (s : State) (k : Nat) : Domain := Tab.get {} s.doms k
def State.setDom (s : State) (k : Nat) (d : Domain) : State := { s with doms := Tab.set {} k d s.doms }
def State.acct (s : State) (k : Nat) : Account := Tab.get {} s.accts k
def State.setAcct (s : State) (k : Nat) (a : Account) : State := { s with accts := Tab.set {} k a s.accts }
def State.ctx (s : State) (k : Nat) : Context := Tab.get {} s.ctxs k
def State.setCtx (s : State) (k : Nat) (c : Context) : State := { s with ctxs := Tab.set {} k c s.ctxs }
def State.part (s : State) (k : Nat) : Partition := Tab.get {} s.parts k
def State.setPart (s : State) (k : Nat) (p : Partition) : State := { s with parts := Tab.set {} k p s.parts }
def State.vd (s : State) (k : Nat) : Vd := Tab.get {} s.vds k
def State.setVd (s : State) (k : Nat) (v : Vd) : State := { s with vds := Tab.set {} k v s.vds }
def State.queue (s : State) (k : Nat) : Queue := Tab.get {} s.queues k
def State.setQueue (s : State) (k : Nat) (q : Queue) : State := { s with queues := Tab.set {} k q s.queues }
def State.pchan (s : State) (k : Nat) : PChan := Tab.get {} s.hbm k
def State.setPchan (s : State) (k : Nat) (p : PChan) : State := { s with hbm := Tab.set {} k p s.hbm }
def State.proc (s : State) (k : Nat) : FwProc := Tab.get {} s.fw k
def State.setProc (s : State) (k : Nat) (p : FwProc) : State := { s with fw := Tab.set {} k p s.fw }

/-- Follow-up events join the agenda behind those already due. -/
def State.post (s : State) (l : List Instr) : State := { s with due := s.due ++ l }

/-- A key that no earlier use has had, and the state after taking it. -/
def State.key (s : State) : Nat := s.fresh + 1
def State.bump (s : State) : State := { s with fresh := s.fresh + 1 }

/-- Thread key of a place. -/
def tkey (core quad lane row : Nat) : Nat := ((core * 4 + quad) * 32 + lane) * 16 + row

def tkeyLane (k : Nat) : Nat := k / 16 % 32
def tkeyRow (k : Nat) : Nat := k % 16
def tkeyQuad (k : Nat) : Nat := k / 512 % 4
def tkeyCore (k : Nat) : Nat := k / 2048

/-- Thread keys of a convoy's members, ascending lane. -/
def Convoy.keys (c : Convoy) : List Nat := c.members.map fun m => tkey c.core c.quad m.1 m.2

/-- The thread key of the member in a lane, none where the lane is absent (02 R42). -/
def Convoy.inLane (c : Convoy) (lane : Nat) : Option Nat :=
  (c.members.find? fun m => m.1 == lane).map fun m => tkey c.core c.quad m.1 m.2

/-- Writes `h k` for the threads `ks`, `h` computed from the state before. -/
def State.setThreads (s : State) (ks : List Nat) (h : Nat → Thread) : State :=
  { s with threads := Tab.setMany {} ks h s.threads }

def Thread.reg (t : Thread) (n : Nat) : DWord := Tab.get 0 t.v n
def Thread.setReg (t : Thread) (n : Nat) (x : DWord) : Thread := { t with v := Tab.set 0 n x t.v }
def Thread.setRegs (t : Thread) (n : Nat) : List DWord → Thread
  | [] => t
  | x :: xs => (t.setReg n x).setRegs (n + 1) xs

/-- q0 reads as 1 (03 R87). -/
def Thread.pred (t : Thread) (n : Nat) : Bool := n == 0 || t.q.getLsbD n
/-- q0 is never written (03 R87). -/
def Thread.setPred (t : Thread) (n : Nat) (b : Bool) : Thread :=
  if n = 0 then t else { t with q := (t.q &&& ~~~(1#8 <<< n)) ||| ((if b then 1#8 else 0#8) <<< n) }

/-- g0–g15 are the crew's constants, g16–g63 the convoy's (03 R88). -/
def State.g (s : State) (k n : Nat) : DWord :=
  if n < 16 then Tab.get 0 (s.crew (s.convoy k).crew).g n else Tab.get 0 (s.convoy k).g n
def State.setG (s : State) (k n : Nat) (x : DWord) : State :=
  let c := s.convoy k
  if n < 16 then s else s.setConvoy k { c with g := Tab.set 0 n x c.g }

/-- Context, VD and run of a crew. -/
def State.crewRun (s : State) (crew : Nat) : Run := s.run (s.crew crew).run
def State.ctxVd (s : State) (ctx : Nat) : Nat := (s.ctx ctx).vd

/-! ### Footprint geometry (02 R32, 03 R89, R93, 05 R127) -/

def Crew.row0 (c : Crew) : Nat := match c.foot with | .half => 8 * c.slot | _ => 0
def Crew.rows (c : Crew) : Nat := match c.foot with | .half => 8 | _ => 16
def Crew.cluster (c : Crew) : Bool := match c.foot with | .cluster => true | _ => false
def footLimit : Footprint → Nat | .half => 1024 | .full => 2048 | .cluster => 4096
/-- Window size in bytes (02 R32). -/
def footWindow : Footprint → Nat | .half => 0x40000 | .full => 0x80000 | .cluster => 0x100000
/-- Place of window offset 0 in the stage table: core × 512 KiB + offset in the core. -/
def Crew.stage0 (c : Crew) : Nat := c.core * 0x80000 + (match c.foot with | .half => 0x40000 * c.slot | _ => 0)
/-- Size of one core's part of the window (03 R93). -/
def Crew.corePart (c : Crew) : Nat := match c.foot with | .half => 0x40000 | _ => 0x80000
/-- Window offset of a SPACE 1 offset issued from `core` (03 R93). -/
def Crew.space1 (c : Crew) (core o : Nat) : Nat := if c.cluster && core % 2 == 1 then 0x80000 + o else o
/-- Barriers, accumulators and units that the crew can name. -/
def Crew.bars? (c : Crew) (n : Nat) : Bool := match c.foot with | .half => decide (n < 64) | _ => decide (n < 128)
def Crew.accs (c : Crew) : Nat := match c.foot with | .half => 4 | _ => 8
def Crew.units (c : Crew) : Nat := match c.foot with | .half => 32 | _ => 64
/-- First physical accumulator and unit. -/
def Crew.acc0 (c : Crew) : Nat := match c.foot with | .half => 4 * c.slot | _ => 0
def Crew.unit0 (c : Crew) : Nat := match c.foot with | .half => 32 * c.slot | _ => 0
/-- Cores the crew occupies. -/
def Crew.cores (c : Crew) : List Nat := if c.cluster then [c.core, c.core + 1] else [c.core]

def Crew.fmt (c : Crew) (n : Nat) : Fmt := Fmt.ofWord (Tab.get 0 c.f n)
/-- RSM field of entry Fn, or n = 8 for integer destinations (03 R96): rounding code and saturate bit. -/
def Crew.mode (c : Crew) (n : Nat) : Nat := field c.rsm.toNat (4 * n) 3
def Crew.sat (c : Crew) (n : Nat) : Bool := c.rsm.getLsbD (4 * n + 3)

/-! ### The pool (08 R218-R220) -/

/-- Default pools of R219. -/
def defaultPool (p : Nat) : Nat :=
  ([200, 184, 168, 152, 140, 128, 120, 112, 108, 104, 100, 98, 96, 88, 80, 72])[p]?.getD 0

def Island.poolEntry (i : Island) (p : Nat) : Nat :=
  let v := Tab.get 0 i.pools p
  if v = 0 then defaultPool p else v - 1

/-- P: the entry of the current point; 0 while powered down or retired (R217). -/
def Island.pool (i : Island) : Nat :=
  match i.state with
  | .retired => 0
  | .poweredDown => 0
  | _ => i.poolEntry i.cur

/-- Ring cycle of a core, which is its core cycle (R216). -/
def State.cycle (s : State) (core : Nat) : Nat := (s.island (core / 2)).cycle

/-- Cycle of the next RING_CYCLE of an island. -/
def Island.nextCycle (i : Island) : Nat := if i.begun then i.cycle + 1 else i.cycle
def State.nextCycle (s : State) (core : Nat) : Nat := (s.island (core / 2)).nextCycle

/-! ### Tokens given up (08 R225) -/

def listSet (l : List Nat) (n v : Nat) : List Nat := l.set n v
def listGet (l : List Nat) (n : Nat) : Nat := l[n]?.getD 0

/-- Step 2 of Return: the open claims, oldest first. The list of claims is kept in that order. -/
def giveClaims (n : Nat) : List Claim → List Nat → Nat × List Claim × List Nat
  | [], coll => (n, [], coll)
  | c :: cs, coll =>
    let x := min n c.remaining
    let first := match c.pair with | none => x | some _ => min x (c.each - listGet coll c.stop)
    let coll := listSet coll c.stop (listGet coll c.stop + first)
    let coll := match c.pair with | none => coll | some p => listSet coll p (listGet coll p + (x - first))
    let r := giveClaims (n - x) cs coll
    (r.1, { c with remaining := c.remaining - x } :: r.2.1, r.2.2)

/-- Return at a stop, for tokens whose holding can take back `room`: the island, and how many go back to the holding. -/
def returnTokens (i : Island) (stop n room : Nat) : Island × Nat :=
  let d := min n i.debt
  let r := giveClaims (n - d) i.claims i.coll
  let back := min r.1 room
  ({ i with debt := i.debt - d, claims := r.2.1, coll := r.2.2,
            bins := listSet i.bins stop (listGet i.bins stop + (r.1 - back)) }, back)

/-- Stop of a quad and of an engine port (R214). -/
def quadStop (core quad : Nat) : Nat := 5 * (core % 2) + quad
def portStop (core : Nat) : Nat := 5 * (core % 2) + 4

/-- Tokens of a convoy's holding that are in hold windows. -/
def inWindows (i : Island) (k : Nat) : Nat := i.windows.foldl (fun a w => if w.holder == some k then a + w.tokens else a) 0

/-- A convoy's holding as TOLLS reads it (R232): its size, or the tokens it still has where they are more. -/
def heldBy (s : State) (k : Nat) : Nat :=
  let c := s.convoy k
  max c.tolls (c.free + inWindows (s.island (c.core / 2)) k)

/-- A convoy gives up its holding as TFREE does (R233, R234): its free tokens go by Return at once. -/
def giveUpHolding (s : State) (k : Nat) : State :=
  let c := s.convoy k
  if heldBy s k = 0 then s
  else
    let n := c.core / 2
    let s := s.setConvoy k { c with tolls := 0, free := 0 }
    let i := (returnTokens (s.island n) (quadStop c.core c.quad) c.free 0).1
    s.setIsland n { i with windows := i.windows.map fun w => if w.holder = some k then { w with holder := none } else w }

/-- A convoy with no members ends: its g registers are discarded, its holding returns (02 R83, 08 R234). -/
def endConvoy (s : State) (k : Nat) : State :=
  let s := giveUpHolding s k
  { s.setConvoy k {} with issue := s.issue.filter (· != k) }

/-- Members leave a convoy by spill, park, trap or exit (02 R58, R83). -/
def dropMembers (s : State) (k : Nat) (ks : List Nat) : State :=
  let c := s.convoy k
  let rest := c.members.filter fun m => !ks.contains (tkey c.core c.quad m.1 m.2)
  if rest.isEmpty then endConvoy s k
  else s.setConvoy k { c with members := rest, whole := c.whole && rest.length == c.members.length }

/-! ### Charges (09 R240-R243) -/

/-- Domain numbers: islands 0–255, memory domains 256–271, ports 272–287. -/
def memDomain (slice : Nat) : Nat := 256 + slice
def portDomain (port : Nat) : Nat := 272 + port
def vdAccount (vd : Nat) : Nat := 0x10000 + vd
def partAccount (p : Nat) : Nat := 0x10040 + p
def firmwareAccount : Nat := 0x10080

/-- The weights in force (R241). -/
def State.weights (s : State) : Weights := s.power.weights

/-- ⌊(weight × CF + 0x800) ÷ 0x1000⌋. -/
def charged (weight cf : Nat) : Nat := (weight * cf + 0x800) / 0x1000

/-- The context occupies a slot of the core. -/
def State.resident (s : State) (core ctx : Nat) : Bool :=
  let c := s.core core
  (c.slot0 != 0 && (s.crew c.slot0).ctx == ctx) || (c.slot1 != 0 && (s.crew c.slot1).ctx == ctx)

def State.lease (s : State) (core ctx : Nat) : Lease := Tab.get {} (s.core core).leases ctx
def State.setLease (s : State) (core ctx : Nat) (l : Lease) : State :=
  let c := s.core core
  s.setCore core { c with leases := Tab.set {} ctx l c.leases }

/-- The meter unit asks for a grant below 2^22 with none outstanding and no refusal since the last deposit (R250). -/
def askLease (s : State) (core ctx : Nat) : State :=
  let l := s.lease core ctx
  if l.rem < 0x400000 && !l.asked && !l.refused then
    (s.setLease core ctx { l with asked := true }).post [.leaseAnswer core ctx]
  else s

/-- Fair count of the slots that the context holds (R254). -/
def addFair (s : State) (core ctx c : Nat) : State :=
  let cr := s.core core
  let d : Int := c * 16 / (s.ctx ctx).share
  s.setCore core { cr with
    fc0 := if cr.slot0 != 0 && (s.crew cr.slot0).ctx == ctx then cr.fc0 + d else cr.fc0,
    fc1 := if cr.slot1 != 0 && (s.crew cr.slot1).ctx == ctx then cr.fc1 + d else cr.fc1 }

/-- A charge to a context: to its lease at the core named where it holds a slot of it, else to LEVEL (R240). -/
def spend (s : State) (ctx c : Nat) (core : Option Nat) : State :=
  let x := s.ctx ctx
  let level := s.setCtx ctx { x with level := x.level - c }
  match core with
  | some k =>
    if s.resident k ctx then
      let l := s.lease k ctx
      let s1 := askLease (addFair (s.setLease k ctx { l with rem := l.rem - c }) k ctx c) k ctx
      -- the context becomes dry here: another one that waits for the core is to have it (R251)
      if l.refused ∧ 0 < l.rem ∧ l.rem ≤ c then s1.post [.dispatch x.part] else s1
    else level
  | none => level

/-- Charge (R240); `core` is the core the event names. -/
def charge (s : State) (acct weight dom : Nat) (core : Option Nat) : State :=
  let d := s.dom dom
  let c := charged weight d.cf
  let a := s.acct acct
  let s := s.setAcct acct { a with acct := a.acct + c, est := a.est + weight }
  let s := s.setDom dom { d with e := d.e + c, part := Tab.set 0 acct (Tab.get 0 d.part acct + c) d.part }
  if acct < 0x10000 then spend s acct c core else s

/-- A charge to an account for work of a crew (0 for none); the energy counts for the queue that dispatched the run (R260): none has dispatched one
placed by launch orders. -/
def chargeFor (s : State) (acct crew weight dom : Nat) (core : Option Nat) : State :=
  let r := s.crewRun crew
  let q := 64 * r.vd + r.queue
  let e := charged weight (s.dom dom).cf
  let s := charge s acct weight dom core
  let qu := s.queue q
  if r.live && !r.ordered then s.setQueue q { qu with energy := qu.energy + e } else s

/-- A charge at the island of a core, to a crew's context. -/
def chargeCore (s : State) (core crew weight : Nat) : State := chargeFor s (s.crew crew).ctx crew weight (core / 2) (some core)

/-- An issue of convoy `k` (R242). -/
def chargeIssue (s : State) (k weight : Nat) : State :=
  let c := s.convoy k
  chargeCore s c.core c.crew weight

/-- An issue of a group instruction. -/
def chargeGroup (s : State) (k : Nat) : State := chargeIssue s k s.weights.group

/-! ### Spills (02 R49, R50) -/

def State.layby? (s : State) (crew core quad addr : Nat) : Option Layby :=
  s.laybys.find? fun l => l.crew == crew && l.core == core && l.quad == quad && l.addr == addr

/-- Entries of the quad's table for the crew that are in use. -/
def State.laybyCount (s : State) (crew core quad : Nat) : Nat :=
  (s.laybys.filter fun l => l.crew == crew && l.core == core && l.quad == quad).length

def dedup (l : List Nat) : List Nat := l.foldl (fun a x => if a.contains x then a else a ++ [x]) []

/-- Spill(t, a): the thread joins the tail of its layby, which is created where there is none. -/
def spill (s : State) (crew core quad : Nat) (junction : Bool) (t a : Nat) : State :=
  let th := s.thread t
  let s := s.setThread t { th with state := .spilled, pc := BitVec.ofNat 64 a }
  match s.layby? crew core quad a with
  | some _ =>
    { s with laybys := s.laybys.map fun l =>
        if l.crew == crew && l.core == core && l.quad == quad && l.addr == a
        then { l with queue := l.queue ++ [t], junction := l.junction || junction } else l }
  | none =>
    { s with laybys := s.laybys ++ [{ crew, core, quad, addr := a, created := (s.cycle core : Int), junction, queue := [t] }] }

/-- SpillAll: all or none. -/
def spillAll (s : State) (crew core quad : Nat) (junction : Bool) (l : List (Nat × Nat)) : Option State :=
  let new := (dedup (l.map (·.2))).filter fun a => (s.layby? crew core quad a).isNone
  if new.length + s.laybyCount crew core quad > 64 then none
  else some (l.foldl (fun s p => spill s crew core quad junction p.1 p.2) s)

/-! ### Records for the partition manager (12 R329, R330) -/

/-- An event record is kept in order; `Sys2Proof.Machine.flushEvents` writes kept records into the ring. -/
def eventKeep (s : State) (type : Nat) (body : List Byte) : State :=
  { s with host := { s.host with kept := s.host.kept ++ [{ type, time := s.host.uptime, body }] } }

/-- A list cut or filled to n bytes. -/
def sized (n : Nat) (l : List Byte) : List Byte := (l ++ List.replicate n 0).take n

/-- Writes of bytes at physical addresses. -/
def State.writeBytes (s : State) (pa : Nat) (bs : List Byte) : State := { s with mem := Tab.setRun 0 pa bs s.mem }
def State.readBytes (s : State) (pa n : Nat) : List Byte := Tab.getRun 0 s.mem pa n
def State.readNat (s : State) (pa n : Nat) : Nat := leNat (s.readBytes pa n)

/-- Host memory as the device addresses it (06 R151). -/
def hostPa (a : Nat) : Nat := 0x1000000000000 + a % 2^48

/-- Slots of the event ring. -/
def HostSide.slotCount (h : HostSide) : Nat := 16 * 2^h.ringSize

/-- Writes the oldest kept event while a slot is free (R329), with `n` as bound. -/
def flushEvents : Nat → State → State
  | 0, s => s
  | n + 1, s =>
    let h := s.host
    match h.kept with
    | [] => s
    | e :: rest =>
      let seq := h.evSeq + 1
      let slot := seq % h.slotCount
      let last := Tab.get 0 h.slots slot
      if h.ringOn && decide (last ≤ h.evack) then
        let bytes := leBytes seq 4 ++ leBytes e.type 4 ++ leBytes e.time 8 ++ e.body ++ List.replicate (240 - e.body.length) 0
        let s := s.writeBytes (hostPa (h.ringBase + 256 * slot)) (bytes.take 256)
        let irq := decide (h.evSeq ≤ h.evack)
        -- a context's number is free once its final meter record is written (12 R328)
        let s := if e.type = 5 then
            let n := leNat ((e.body.drop 4).take 4)
            { s with ctxs := Tab.erase n s.ctxs, accts := Tab.erase n s.accts }
          else s
        flushEvents n { s with host := { h with kept := rest, evSeq := seq, slots := Tab.set 0 slot seq h.slots,
                                                msix := if irq then (0, h.ringVector) :: h.msix else h.msix } }
      else s

/-- A signal of XSWAIT is raised at a firmware processor (13 R357); one that waits looks again. -/
def raiseSignal (s : State) (proc bit : Nat) : State :=
  let p := s.proc proc
  let s1 := s.setProc proc { p with pending := p.pending ||| (1#64 <<< bit) }
  match p.waiting with
  | some w => if (p.pending ||| (1#64 <<< bit)) &&& w.2.1 = 0 then s1 else s1.post [.xswaitReturn proc]
  | none => s1

/-- Command processor of a VD (13 R352). -/
def procOfVd (vd : Nat) : Nat := vd % 8

/-- An event arises: kept, and written at once where a slot is free. Context faults and page requests are signals too. -/
def eventPost (s : State) (type : Nat) (body : List Byte) : State :=
  let s := if type = 1 then raiseSignal s (procOfVd (leNat ((body.drop 4).take 2))) 10
    else if type = 3 then raiseSignal s (procOfVd (s.ctxVd (leNat (body.take 4)))) 11 else s
  let s := eventKeep s type body
  flushEvents s.host.kept.length s

/-! ### Context fault (10 R287, R288) -/

/-- The grade of a cause's code (10 R289, R290). -/
def gradeD (cause : Nat) : Nat := 0xC00 + cause
def gradeB (cause : Nat) : Nat := 0x400 + cause
def gradeC (cause : Nat) : Nat := 0x800 + cause

/-- Fields of a fault record that a source fills; the defaults are those of a fault with no core, crew or address (R287).
DESIGN CHOICE (log 84): RUN is 0 in the record of a side-log replay and of a fault that belongs to no run (LINK_LOST, HOST_TIMEOUT, PAGE_INVALID). -/
structure FaultRec where
  code : Nat
  flags : Nat := 2
  core : Nat := 0xFFFF
  run : Nat := 0
  crew : Nat := 0xFFFFFFFF
  quad : Nat := 0xFF
  lane : Nat := 0xFF
  row : Nat := 0xFF
  cohort : Nat := 0xFF
  trpc : Nat := 0
  traddr : Nat := 0
  trval : Nat := 0
  incident : Nat := 0
deriving DecidableEq, Repr, Inhabited

/-- The 64 bytes of a fault record (R287). -/
def FaultRec.bytes (f : FaultRec) (ctx vd : Nat) : List Byte :=
  leBytes (f.code % 0x1000) 2 ++ leBytes f.flags 1 ++ leBytes 0 1 ++ leBytes vd 2 ++ leBytes f.core 2 ++ leBytes ctx 4
    ++ leBytes f.run 4 ++ leBytes f.crew 4 ++ leBytes f.quad 1 ++ leBytes f.lane 1 ++ leBytes f.row 1 ++ leBytes f.cohort 1
    ++ leBytes f.trpc 8 ++ leBytes f.traddr 8 ++ leBytes f.trval 8 ++ leBytes f.incident 8 ++ leBytes 0 8

/-- Crews of a context, by key. -/
def State.crewsOf (s : State) (ctx : Nat) : List Nat :=
  (s.crews.filter fun p => p.2.ctx == ctx && p.2.phase != .none).map (·.1)
/-- Live runs of a context, by key. -/
def State.runsOf (s : State) (ctx : Nat) : List Nat :=
  (s.runs.filter fun p => p.2.ctx == ctx && p.2.live).map (·.1)
/-- Queues whose CONTEXT names the context. -/
def State.queuesOf (s : State) (ctx : Nat) : List Nat :=
  (s.queues.filter fun p => p.2.ctx == ctx).map (·.1)

/-- WALK_ERROR of a walk that consumed poison or met a tag failure carries that incident's number (11 R312); a code that the program gave does not. -/
def FaultRec.withWalk (f : FaultRec) (s : State) : FaultRec :=
  if f.code = gradeB 0x023 ∧ f.flags % 2 = 0 ∧ f.incident = 0 then 
    { f with incident := if Tab.get 0 s.sealing.walked (f.traddr / 4096) = 0 then Tab.get 0 s.sealing.walked ((f.traddr + 127) / 4096)
                         else Tab.get 0 s.sealing.walked (f.traddr / 4096) }
  else f

/-- The context stops: its first fault is recorded, its convoys issue nothing more, its crews stream out and its runs end with the code. -/
def contextFault (s : State) (ctx : Nat) (g : FaultRec) : State :=
  let x := s.ctx ctx
  let f := g.withWalk s
  if x.stop ≠ none then s
  else
    let v := s.vd x.vd
    let s := (s.setCtx ctx { x with stop := some f.code }).setVd x.vd
      { v with fault := BitVec.ofNat 64 (leNat ((f.bytes ctx x.vd).take 8)), fincident := f.incident, ftime := s.host.uptime }
    let s := { s with issue := s.issue.filter fun k => (s.crew (s.convoy k).crew).ctx != ctx,
                      runs := s.runs.map fun p => if p.2.ctx == ctx && p.2.live && p.2.code == none then (p.1, { p.2 with code := some f.code }) else p }
    let s := eventPost s 1 (f.bytes ctx x.vd)
    s.post ((s.crewsOf ctx).map Instr.streamOut ++ (s.runsOf ctx).map Instr.runComplete ++ [.eventWaitEval x.part])

/-! ### Taking an exception (10 R284, R285) -/

/-- A member that faults, and with what. -/
structure MFault where
  key : Nat
  cause : Nat
  addr : Nat := 0
  val : Option Nat := none
  idx : Nat := 0
  /-- Graded B and stopping the context instead of trapping (WALK_ERROR, R290). -/
  fatal : Bool := false
deriving DecidableEq, Repr, Inhabited

/-- Trap registers of a faulting member (R284): `code` is the TRAP code, `w0` the first word, `two` a two-word instruction. -/
def trapRegs (t : Thread) (f : MFault) (iaddr code w0 : Nat) (two : Bool) : Thread :=
  { t with
    trpc := BitVec.ofNat 64 iaddr,
    trcause := BitVec.ofNat 32 (gradeD f.cause + code * 0x10000),
    traddr := BitVec.ofNat 64 f.addr,
    trval := BitVec.ofNat 64 (f.val.getD w0),
    trlane := BitVec.ofNat 64 (tkeyLane f.key + f.idx * 256),
    len8 := two,
    inTrap := true }

/-- The fault record of a thread that escalates (R285, R287). -/
def escalation (s : State) (k : Nat) (f : MFault) (iaddr w0 : Nat) (trap : Bool) : FaultRec :=
  let t := s.thread f.key
  let c := s.convoy k
  let own := trap && t.inTrap
  { code := if own then t.trcause.toNat % 0x1000 else if f.fatal then gradeB f.cause else gradeD f.cause,
    flags := if own then 1 else 0,
    core := c.core, run := (s.crewRun c.crew).id, crew := (s.crew c.crew).num, quad := c.quad, lane := tkeyLane f.key,
    row := tkeyRow f.key, cohort := t.cohort, trpc := iaddr, traddr := f.addr, trval := f.val.getD w0 }

/-- What trap entry needs of the instruction word: word 0, a two-word length, and TRAP's code. -/
structure IWord where
  w0 : Nat
  two : Bool := false
  code : Nat := 0
  trap : Bool := false
deriving DecidableEq, Repr, Inhabited

def iword (i : Instr) : IWord :=
  { w0 := encode0 i, two := lenOf (encode0 i) == 2,
    code := (match i with | .trap n => n | _ => 0), trap := (match i with | .trap _ => true | _ => false) }

/-- Words that a convoy has in hand for the instruction at its PC (14 R373). -/
def State.inHand (s : State) (k : Nat) : Option InHand :=
  match Tab.get none s.words k with
  | some h => if h.pc = (s.convoy k).pc then some h else none
  | none => none
def State.setHand (s : State) (k : Nat) (h : Option InHand) : State := { s with words := Tab.set none k h s.words }

/-- An instruction that has to be issued anew issues with the words it was fetched with (14 R373). -/
def State.keepHand (s : State) (k : Nat) (i : Instr) : State :=
  s.setHand k (some { pc := (s.convoy k).pc, w0 := encode0 i, w1 := encode1 i })

/-- Length in bytes (14 R370). -/
def byteLen (i : Instr) : Nat := 4 * lenOf (encode0 i)

/-- TrapEntry (R284) of the instruction `w` at `iaddr` for the faulting members `fs`, ascending lane. -/
def trapEntry (s : State) (k : Nat) (w : IWord) (iaddr : Nat) (fs : List MFault) : State :=
  if fs.isEmpty then s
  else
    let c := s.convoy k
    let run := s.crewRun c.crew
    let esc (f : MFault) : Bool := (s.thread f.key).inTrap || run.trap == 0 || f.fatal
    let keys := fs.map (·.key)
    let s1 := (fs.filter fun f => !esc f).foldl
      (fun a f => a.setThread f.key (trapRegs (a.thread f.key) f iaddr w.code w.w0 w.two)) s
    match fs.find? esc with
    | some f => contextFault (dropMembers s1 k keys) (s.crew c.crew).ctx (escalation s k f iaddr w.w0 w.trap)
    | none =>
      match spillAll s1 c.crew c.core c.quad false (keys.map fun t => (t, run.trap)) with
      | some s2 => dropMembers s2 k keys
      | none =>
        let c1 := s1.convoy k
        let before := match c1.hold with | .trapSpill ks _ => ks | _ => []
        s1.setConvoy k { c1 with hold := .trapSpill (before ++ keys) run.trap }

/-- Trap entry of members whose spills had to wait (R49). -/
def trapSpillRetry (s : State) (k : Nat) : State :=
  let c := s.convoy k
  match c.hold with
  | .trapSpill keys a =>
    match spillAll s c.crew c.core c.quad false (keys.map fun t => (t, a)) with
    | some s2 => dropMembers (s2.setConvoy k { c with hold := .none }) k keys
    | none => s
  | _ => s

/-- A fault before any effect in every member, also one whose guard is 0 (DEDUCED, log 82): charged 12 (09 R242). `val` is what TRVAL takes where it is
not word 0. -/
def faultAll (s : State) (k : Nat) (w : IWord) (cause : Nat) (addr : Nat := 0) (val : Nat → Option Nat := fun _ => none) : State :=
  let s := chargeGroup s k
  let c := s.convoy k
  let s := s.setConvoy k { c with checked := false, tolled := false }
  trapEntry s k w c.pc (c.keys.map fun t => { key := t, cause, addr, val := val t })

/-! ### Issue of a convoy's instruction -/

/-- The convoy goes on to the next sequential instruction (14 R370). -/
def advance (s : State) (k : Nat) (i : Instr) : State :=
  let c := s.convoy k
  s.setConvoy k { c with pc := c.pc + byteLen i, hold := .none, checked := false, tolled := false, since := none }

/-- The convoy continues at an address. -/
def continueAt (s : State) (k a : Nat) : State :=
  let c := s.convoy k
  s.setConvoy k { c with pc := a, hold := .none, checked := false, tolled := false, since := none }

/-- The convoy is held at its instruction (02 R45). -/
def holdAt (s : State) (k : Nat) (h : Hold) : State :=
  let c := s.convoy k
  s.setConvoy k { c with hold := h }

/-- Last key given out when the convoy's release began: now, where none is under way (07 R197). -/
def Convoy.began (c : Convoy) (s : State) : Nat := c.since.getD s.fresh

/-- The convoy is held at its instruction while its release, or its fence, is under way. -/
def holdSince (s : State) (k : Nat) (h : Hold) : State :=
  let c := s.convoy k
  s.setConvoy k { c with hold := h, since := some (c.began s) }

/-- An instruction that completes in the members that do not fault and traps the others (R284). -/
def finish (s : State) (k : Nat) (i : Instr) (fs : List MFault) : State :=
  let a := (s.convoy k).pc
  trapEntry (advance s k i) k (iword i) a fs

end Sys2Proof.Machine
end

