-- ==== Sys2Proof/Machine/Chan.lean ====
section
/-! DEFINITION. A pseudo-channel of an HBM4E controller: what refresh does up to a controller cycle (11 R314-R316). -/

namespace Sys2Proof.Machine

def PChan.freeAt (p : PChan) (bank : Nat) : Nat := Tab.get 0 p.bankFree bank
def PChan.bankBusy (p : PChan) (bank cycle : Nat) : Bool := decide (cycle < p.freeAt bank)
/-- First cycle from which the pseudo-channel is idle, if nothing is queued or in flight: 512 cycles after the last request (R316). -/
def PChan.idleFrom (p : PChan) : Nat := match p.lastBusy with | some b => b + 512 | none => 0
def PChan.idle (p : PChan) (cycle : Nat) : Bool := p.queue.isEmpty && p.active.isEmpty && decide (p.idleFrom ≤ cycle)
def PChan.setBank (p : PChan) (bank t : Nat) : PChan := { p with bankFree := Tab.set 0 bank t p.bankFree }

/-- Transfers whose bank is free by a cycle have ended, and so has a REFab. -/
def PChan.done (p : PChan) (cycle : Nat) : PChan :=
  let past := p.active.filter fun a => decide (a.2 ≤ cycle)
  { p with active := p.active.filter fun a => decide (cycle < a.2),
           lastBusy := past.foldl (fun b a => some (max (b.getD 0) a.2)) p.lastBusy,
           refab := match p.refab with | some e => if e ≤ cycle then none else some e | none => none }

/-- A REFpb to the next bank of the rotation, in cycle `t` (R314: tRFCpb). -/
def PChan.refpb (p : PChan) (t : Nat) : PChan := { p with next := (p.next + 1) % 16 }.setBank p.next (t + 224)

/-- Refresh commands whose cycle has come: the REFpb of due events, owed ones of an idle pseudo-channel, a forced REFab (R316). -/
def PChan.commands : Nat → Nat → PChan → PChan
  | 0, _, p => p
  | f + 1, cycle, p =>
    if p.refab.isSome then p
    else match p.pending with
    | t :: rest =>
      let at_ := max t (p.freeAt p.next)
      if at_ ≤ cycle then PChan.commands f cycle ({ p with pending := rest }.refpb at_) else p
    | [] =>
      if p.post = 8 then
        let at_ := (List.range 16).foldl (fun a b => max a (p.freeAt b)) p.rose
        if p.active.isEmpty && decide (at_ ≤ cycle) then
          { p with post := 0, forced := p.forced + 1, refab := if at_ + 490 ≤ cycle then none else some (at_ + 490),
                   bankFree := (List.range 16).foldl (fun t b => Tab.set 0 b (at_ + 490) t) p.bankFree }
        else p
      else if p.post = 0 then p
      else
        let at_ := max p.idleFrom (p.freeAt p.next)
        if p.idle cycle && decide (at_ ≤ cycle) then PChan.commands f cycle ({ p with post := p.post - 1 }.refpb at_) else p

/-- A due event: the table of R316. -/
def PChan.due (p : PChan) (t : Nat) : PChan :=
  let q := { p with lastDue := t }
  if p.refab.isSome ∨ p.post = 8 then q
  else if p.idle t then { q with pending := p.pending ++ [t] }
  else if p.post = 7 then { q with post := 8, rose := t }
  else { q with post := p.post + 1 }

/-- The due events up to a cycle, every 341 cycles, each after what comes before it. -/
def PChan.dues : Nat → Nat → PChan → PChan
  | 0, _, p => p
  | f + 1, cycle, p =>
    let t := p.lastDue + 341
    if cycle < t then p else PChan.dues f cycle ((PChan.commands 24 (t - 1) (p.done (t - 1))).done t |>.due t)

/-- The pseudo-channel as refresh has brought it to a cycle, before that cycle's activates (R316's order within a cycle). -/
def PChan.reach (p : PChan) (cycle : Nat) : PChan :=
  PChan.commands 24 cycle ((PChan.dues ((cycle - p.lastDue) / 341) cycle p).done cycle)

end Sys2Proof.Machine
end

