-- ==== Sys2Proof/Machine/Cipher.lean ====
section
/-! DEFINITION. AES-256 and GMAC, which the seal unit uses by name (11 R299): the functions of FIPS 197 and NIST SP 800-38D, from outside the
spec (log 13). A 128-bit quantity is a big-endian byte string. -/

namespace Sys2Proof.Machine

/-! ### AES-256 -/

/-- Times x in the field of 256 elements, modulo x^8 + x^4 + x^3 + x + 1. -/
def fieldDouble (a : Byte) : Byte := if a.msb then (a <<< 1) ^^^ 0x1B else a <<< 1

/-- Product in that field: the bits of `b` from the highest down. -/
def fieldMul (a b : Byte) : Byte :=
  (List.range 8).foldl (fun p i => let d := fieldDouble p; if b.getLsbD (7 - i) then d ^^^ a else d) 0

def fieldSquare (a : Byte) : Byte := fieldMul a a

/-- The inverse, a^254; of 0 it is 0. -/
def fieldInv (a : Byte) : Byte :=
  let a2 := fieldSquare a
  let a3 := fieldMul a2 a
  let a12 := fieldSquare (fieldSquare a3)
  let a15 := fieldMul a12 a3
  let a240 := fieldSquare (fieldSquare (fieldSquare (fieldSquare a15)))
  fieldMul (fieldMul a240 a12) a2

/-- SubBytes of one byte. -/
def subByte (a : Byte) : Byte :=
  let b := fieldInv a
  [1, 2, 3, 4].foldl (fun x n => x ^^^ b.rotateLeft n) (b ^^^ 0x63)

def xorBytes (a b : List Byte) : List Byte := List.zipWith (· ^^^ ·) a b

/-- ShiftRows: byte 4 × column + row of the block. -/
def shiftRows (b : List Byte) : List Byte := (List.range 16).map fun n => b[4 * ((n / 4 + n % 4) % 4) + n % 4]?.getD 0

/-- MixColumns. -/
def mixColumns (b : List Byte) : List Byte :=
  (List.range 16).map fun n =>
    let at_ (i : Nat) : Byte := b[4 * (n / 4) + (n + i) % 4]?.getD 0
    fieldDouble (at_ 0) ^^^ (fieldDouble (at_ 1) ^^^ at_ 1) ^^^ at_ 2 ^^^ at_ 3

/-- Round constant of the j-th use, from 0. -/
def roundConst (j : Nat) : Byte := (List.range j).foldl (fun a _ => fieldDouble a) 1

/-- Word i of the key schedule from the words before it, newest first. -/
def scheduleWord (i : Nat) (words : List (List Byte)) : List Byte :=
  let last := words.headD []
  let t :=
    if i % 8 = 0 then xorBytes ((last.drop 1 ++ last.take 1).map subByte) [roundConst (i / 8 - 1), 0, 0, 0]
    else if i % 8 = 4 then last.map subByte
    else last
  xorBytes (words[7]?.getD []) t

/-- The 60 words of the key schedule, in order. -/
def keySchedule (key : BitVec 256) : List (List Byte) :=
  let bytes := (leBytes key.toNat 32).reverse
  let first := (List.range 8).map fun i => (bytes.drop (4 * i)).take 4
  ((List.range 52).foldl (fun ws i => scheduleWord (i + 8) ws :: ws) first.reverse).reverse

/-- Key of round r. -/
def roundKey (ws : List (List Byte)) (r : Nat) : List Byte := ((ws.drop (4 * r)).take 4).flatten

/-- The cipher: 14 rounds, the last without MixColumns. -/
def aesBytes (ws : List (List Byte)) (block : List Byte) : List Byte :=
  let start := xorBytes block (roundKey ws 0)
  let mid := (List.range 13).foldl (fun b i => xorBytes (mixColumns (shiftRows (b.map subByte))) (roundKey ws (i + 1))) start
  xorBytes (shiftRows (mid.map subByte)) (roundKey ws 14)

/-- A number of 128 bits as its byte string, and back. -/
def blockBytes (x : BitVec 128) : List Byte := (leBytes x.toNat 16).reverse
def blockOf (b : List Byte) : BitVec 128 := BitVec.ofNat 128 (leNat b.reverse)

/-- AES-256 of one block. -/
def aes256 (key : BitVec 256) (block : BitVec 128) : BitVec 128 := blockOf (aesBytes (keySchedule key) (blockBytes block))

/-! ### GMAC -/

/-- Product in the field of 2^128 elements, whose first bit is the most significant, modulo x^128 + x^7 + x^2 + x + 1. -/
def ghashMul (x y : BitVec 128) : BitVec 128 :=
  ((List.range 128).foldl (fun (a : BitVec 128 × BitVec 128) i =>
    (if x.getMsbD i then a.1 ^^^ a.2 else a.1,
     if a.2.getLsbD 0 then (a.2 >>> 1) ^^^ (0xE1#128 <<< 120) else a.2 >>> 1)) (0, y)).1

/-- GHASH of a byte string of whole blocks. -/
def ghash (h : BitVec 128) (data : List Byte) : BitVec 128 :=
  (List.range (data.length / 16)).foldl (fun a i => ghashMul (a ^^^ blockOf ((data.drop (16 * i)).take 16)) h) 0

/-- GMAC: the authentication of data with an empty plaintext. -/
def gmac (key : BitVec 256) (iv : BitVec 96) (data : List Byte) : BitVec 128 :=
  let h := aes256 key 0
  let full := data ++ List.replicate ((16 - data.length % 16) % 16) 0
  let bits := (leBytes (8 * data.length) 8).reverse ++ List.replicate 8 0
  ghash h (full ++ bits) ^^^ aes256 key ((iv.setWidth 128 <<< 32) ||| 1)

end Sys2Proof.Machine
end

