-- ==== Sys2Proof/Machine/Operands.lean ====
section
/-! DEFINITION. Operand forms of the lane instructions (14 R375, R377) and the shape of a lane instruction's issue:
gate, charge, effect in every active member, next instruction (14 R374, 09 R242, 15 R395). -/

namespace Sys2Proof.Machine

/-- Width of an integer width code (14 R377). -/
def widthOf (m : Nat) : Nat := match m with | 0 => 8 | 1 => 16 | 2 => 32 | 3 => 64 | _ => 4

/-- xB: v0–v63 or, from 64 on, g0–g63 (03 R88). -/
def bOperand (s : State) (k t b : Nat) : DWord := if b < 64 then (s.thread t).reg b else s.g k (b - 64)

/-- Elements of a register at width w, ascending. -/
def elems (w : Nat) (x : DWord) : List Nat := (List.range (perReg w)).map (elem x w)

/-- Elementwise function of one, two and three registers. -/
def map1 (w : Nat) (f : Nat → Nat) (x : DWord) : DWord := pack w ((elems w x).map f)
def map2 (w : Nat) (f : Nat → Nat → Nat) (x y : DWord) : DWord := pack w (List.zipWith f (elems w x) (elems w y))
def map3 (w : Nat) (f : Nat → Nat → Nat → Nat) (x y z : DWord) : DWord :=
  pack w (List.zipWith (fun p z => f p.1 p.2 z) (List.zip (elems w x) (elems w y)) (elems w z))

/-- Members whose guard is true (14 R378); guard q0 is always true. -/
def activeKeys (s : State) (k g : Nat) : List Nat := (s.convoy k).keys.filter fun t => (s.thread t).pred g

/-- Issue weight of a lane instruction by toll class (09 R241). -/
def Weights.ofLane (w : Weights) (toll n : Nat) : Nat :=
  match toll with | 0 => w.lane + w.lanePer * n | 1 => w.toll1 + w.toll1Per * n | _ => w.toll2 + w.toll2Per * n

/-- Issue weight of LD, ST and the atomics. -/
def Weights.ofMem (w : Weights) (n : Nat) : Nat := w.mem + w.memPer * n

/-- Toll check at the quad's stop (08 R239): made once, at presentation. -/
def tollFault (s : State) (k toll : Nat) : Bool :=
  let c := s.convoy k
  decide ((s.island (c.core / 2)).pool < toll) && !c.checked

/-- No check beyond the word's own. -/
def noCheck : State → Nat → Option Nat := fun _ _ => none

/-- A DET run whose convoy is not whole (02 R59). -/
def detCheck (s : State) (k : Nat) : Option Nat :=
  let c := s.convoy k
  if (s.crewRun c.crew).det && !c.whole then some 0x100 else none

/-- FORMAT_EMPTY for the entries named, then FORMAT_ILLEGAL for the rounding fields used (04 R107). -/
def formatCheck (entries modes : List Nat) (s : State) (k : Nat) : Option Nat :=
  let cr := s.crew (s.convoy k).crew
  if entries.any fun n => !(cr.fmt n).v then some 0x030
  else if modes.any fun n => decide (6 ≤ cr.mode n) then some 0x031
  else none

/-- First of two checks that fails. -/
def orCheck (a b : State → Nat → Option Nat) (s : State) (k : Nat) : Option Nat :=
  match a s k with | some c => some c | none => b s k

/-- What TRVAL takes in a fault of every member: of a ST the first 64 bits of its data (17 R491), else word 0. -/
def faultVal (i : Instr) (s : State) (t : Nat) : Option Nat :=
  match i with
  | .st v _ _ _ w => some (((s.thread t).reg v).toNat % 2^(8 * 2^(min w 3)))
  | _ => none

/-- Issue gate: the convoy exists; step 4 (`illegal`), step 5 (toll at the quad's stop), step 6 (`check`) of R374.
A failing check faults every member; else `body` acts. -/
def gated (i : Instr) (toll : Nat) (illegal : State → Nat → Bool) (check : State → Nat → Option Nat)
    (body : State → Nat → State) (s : State) : State :=
  let k := s.cur
  if (s.convoy k).members.isEmpty then s
  else if illegal s k then faultAll s k (iword i) 0x001
  else if tollFault s k toll then faultAll s k (iword i) 0x040 0 (faultVal i s)
  else match check s k with
    | some cause => faultAll s k (iword i) cause 0 (faultVal i s)
    | none => body s k

def legal : State → Nat → Bool := fun _ _ => false

/-- A lane instruction: every member active under guard `g` becomes `h`, computed from the state at issue. -/
def laneOp (i : Instr) (toll g : Nat) (illegal : State → Nat → Bool) (check : State → Nat → Option Nat)
    (h : State → Nat → Nat → Thread) (s : State) : State :=
  gated i toll illegal check (fun s k =>
    let act := activeKeys s k g
    advance ((chargeIssue s k (s.weights.ofLane toll act.length)).setThreads act (h s k)) k i) s

/-- A lane instruction that writes one register of each active member from that member's sources. -/
def laneReg (i : Instr) (g d : Nat) (f : State → Nat → Nat → DWord) (s : State) : State :=
  laneOp i 0 g legal noCheck (fun s k t => (s.thread t).setReg d (f s k t)) s

/-- A group instruction: once per convoy, charged as such (16 R436). -/
def groupOp (i : Instr) (illegal : State → Nat → Bool) (check : State → Nat → Option Nat)
    (body : State → Nat → State) (s : State) : State :=
  gated i 0 illegal check (fun s k => advance (body (chargeGroup s k) k) k i) s

/-- A group instruction that writes gD. -/
def groupReg (i : Instr) (d : Nat) (f : State → Nat → DWord) (s : State) : State :=
  groupOp i legal noCheck (fun s k => s.setG k d (f s k)) s

end Sys2Proof.Machine
end

