-- ==== Sys2Proof/Machine/Special.lean ====
section
/-! DEFINITION. The functions of FSPC (15 R434) as exact values for Round. An irrational result is given as the middle of the
interval of width 2^p that holds it, p so small that no decision of Round (04 R114) falls inside the interval; the interval is
found by integer bounds that are refined until both ends lie in it (log 11). -/

namespace Sys2Proof.Machine

/-- ⌊√n⌋, by binary digits. -/
def isqrt (n : Nat) : Nat :=
  (List.range (n.log2 / 2 + 1)).foldr (fun b r => if (r + 2^b) * (r + 2^b) ≤ n then r + 2^b else r) 0

/-- An exponent below every decision of Round for an entry. -/
def lowExp (f : Fmt) : Int := (if f.ew = 0 then -f.bias else f.emin - f.fw) - 40

/-- The value of sign `s` strictly between t × 2^p and (t + 1) × 2^p. -/
def between (s : Bool) (t : Nat) (p : Int) : Val := .fin s (2 * t + 1) (p - 1)

/-- n ÷ d × 2^k, floored, and whether it is exact. -/
def scaleDiv (n d : Nat) (k : Int) : Nat × Bool :=
  let a := if 0 ≤ k then n * 2^k.toNat else n
  let b := if 0 ≤ k then d else d * 2^(-k).toNat
  (a / b, a % b == 0)

/-- 1 ÷ x. -/
def recipVal (f : Fmt) : Val → Val
  | .nan => .nan
  | .inf s => .fin s 0 0
  | .fin s m e =>
    if m = 0 then .inf s
    else
      let p := lowExp f
      let r := scaleDiv 1 m (-e - p)
      if r.2 then .fin s r.1 p else between s r.1 p

/-- √x. -/
def sqrtVal (f : Fmt) : Val → Val
  | .nan => .nan
  | .inf s => if s then .nan else .inf false
  | .fin s m e =>
    if m = 0 then .fin s 0 0
    else if s then .nan
    else
      let p := lowExp f
      let r := scaleDiv m 1 (e - 2 * p)
      let t := isqrt r.1
      if r.2 && t * t == r.1 then .fin false t p else between false t p

/-- 1 ÷ √x. -/
def rsqrtVal (f : Fmt) : Val → Val
  | .nan => .nan
  | .inf s => if s then .nan else .fin false 0 0
  | .fin s m e =>
    if m = 0 then .inf s
    else if s then .nan
    else
      let p := lowExp f
      let r := scaleDiv 1 m (-e - 2 * p)
      let t := isqrt r.1
      if r.2 && t * t == r.1 then .fin false t p else between false t p

/-- Bounds of 2^(2^−i) × 2^n for i = 1, 2, …, multiplied into `acc` for each set bit of the fraction, most significant first. -/
def exp2Bits (n : Nat) : List Bool → (Nat × Nat) → (Nat × Nat) → Nat × Nat
  | [], _, acc => acc
  | b :: bs, root, acc =>
    let r := (isqrt (root.1 * 2^n), isqrt (root.2 * 2^n) + 1)
    let a := if b then (acc.1 * r.1 / 2^n, acc.2 * r.2 / 2^n + 1) else acc
    exp2Bits n bs r a

/-- 2^(k + fr ÷ 2^j) with 0 < fr < 2^j, floored at 2^p; none where the bounds of precision `n` do not decide. -/
def exp2Try (k : Int) (fr j : Nat) (p : Int) (n : Nat) : Option Nat :=
  let bs := (List.range j).map fun i => fr.testBit (j - 1 - i)
  let r := exp2Bits n bs (2^(n + 1), 2^(n + 1)) (2^n, 2^n)
  let sh := k - p - n
  let lo := (scaleDiv r.1 1 sh).1
  let hi := (scaleDiv r.2 1 sh).1
  if lo = hi then some lo else none

/-- Refinement: precision doubles at each trial. -/
def refine (t : Nat → Option Nat) : Nat → Nat → Option Nat
  | 0, _ => none
  | fuel + 1, n => match t n with
    | some x => some x
    | none => refine t fuel (2 * n)

/-- Magnitudes above this exponent overflow every entry, and below its negative underflow it. -/
def expLimit : Nat := 8192

/-- 2^x; `none` where no bound decides. -/
def exp2Val (f : Fmt) : Val → Option Val
  | .nan => some .nan
  | .inf s => some (if s then .fin false 0 0 else .inf false)
  | .fin s m e =>
    let p := lowExp f
    if m = 0 then some (.fin false 1 0)
    else if 0 ≤ e ∨ m % 2^(-e).toNat = 0 then
      let n := if 14 < (m.log2 : Int) + e then expLimit else min expLimit (shiftInt m e)
      if s then (if n = expLimit then some (between false 0 p) else some (.fin false 1 (-(n : Int))))
      else some (.fin false 1 n)
    else if 13 ≤ (m.log2 : Int) + e then
      if s then some (between false 0 p)
      else if f.ew = 0 then
        -- the low bits count too (04 R116): ⌊2^(x − p)⌋ as a root of 2^(2^j × (x − p)), square root by square root
        let j := (-e).toNat
        some (between false ((List.range j).foldl (fun y _ => isqrt y) (2^((m : Int) - p * (2^j : Nat)).toNat)) p)
      else some (.fin false 1 expLimit)
    else
      let j := (-e).toNat
      let k : Int := (m / 2^j : Nat)
      let k' := if s then -k - 1 else k
      let fr := if s then 2^j - m % 2^j else m % 2^j
      (refine (exp2Try k' fr j p) 40 ((k' - p).toNat + 64)).map fun t => between false t p

/-- Binary digits of log₂ of y ∈ [1, 2), y between lo and hi in units of 2^−n; none where a digit is not decided. -/
def log2Digits (n : Nat) : Nat → Nat → Nat → Nat → Option Nat
  | 0, _, _, acc => some acc
  | c + 1, lo, hi, acc =>
    let l := lo * lo / 2^n
    let h := hi * hi / 2^n + 1
    if 2^(n + 1) ≤ l then log2Digits n c (l / 2) (h / 2 + 1) (2 * acc + 1)
    else if h < 2^(n + 1) then log2Digits n c l h (2 * acc)
    else none

/-- log₂ x. -/
def log2Val (f : Fmt) : Val → Option Val
  | .nan => some .nan
  | .inf s => some (if s then .nan else .inf false)
  | .fin s m e =>
    if m = 0 then some (.inf true)
    else if s then some .nan
    else
      let l := m.log2
      let i : Int := (l : Int) + e
      if m = 2^l then some (.fin (decide (i < 0)) i.natAbs 0)
      else
        let p := min (lowExp f) (-1)
        let c := (-p).toNat
        let t (n : Nat) : Option Nat :=
          let lo := if l ≤ n then m * 2^(n - l) else m / 2^(l - n)
          log2Digits n c lo (if l ≤ n then lo else lo + 1) 0
        (refine t 40 (2 * c + 64)).map fun d =>
          let v : Int := i * (2^c : Nat) + d
          .fin (decide (v < 0)) (2 * v + 1).natAbs (p - 1)

/-- Bounds of e^y × 2^n for 0 < y = num ÷ den ≤ 1/2: the Taylor sum floored, and its error. -/
def expTaylor (n num den : Nat) : Nat × Nat :=
  let r := (List.range (n + 4)).foldl
    (fun (a : Nat × Nat) i => let t := a.2 * num / (den * (i + 1)); (a.1 + t, t)) (2^n, 2^n)
  (r.1, r.1 + 2 * n + 16)

/-- Bounds of e^(2a) × 2^n, a = m × 2^e, by halving the argument `k` times and squaring. -/
def expBounds (n m : Nat) (e : Int) : Nat × Nat :=
  let k := ((m.log2 : Int) + e + 3).toNat
  let x : Int := e + 1 - k
  let r := expTaylor n (if 0 ≤ x then m * 2^x.toNat else m) (if 0 ≤ x then 1 else 2^(-x).toNat)
  (List.range k).foldl (fun a _ => (a.1 * a.1 / 2^n, a.2 * a.2 / 2^n + 1)) r

/-- tanh x. -/
def tanhVal (f : Fmt) : Val → Option Val
  | .nan => some .nan
  | .inf s => some (.fin s 1 0)
  | .fin s m e =>
    let p := min (lowExp f) (min e (-1)) - 2
    if m = 0 then some (.fin s 0 0)
    else if 11 ≤ (m.log2 : Int) + e ∧ -2000 ≤ p then some (between s (2^(-p).toNat - 1) p)
    else if 14 ≤ (m.log2 : Int) + e then some (between s (2^(-p).toNat - 1) p)
    else if 3 * ((m.log2 : Int) + e + 1) < p then some (between s (shiftInt m (e - p) - 1) p)
    else
      let t (n : Nat) : Option Nat :=
        let b := expBounds n m e
        let one := 2^n
        let lo := (b.1 - one) * 2^(-p).toNat / (b.1 + one)
        let hi := (b.2 - one) * 2^(-p).toNat / (b.2 + one) + 1
        if lo + 1 = hi then some lo else none
      (refine t 40 ((-p).toNat + 64)).map fun x => between s x p

/-- f(a) of R434; none where the refinement gives out. Codes: 0 RCP, 1 RSQ, 2 SQRT, 3 EXP2, 4 LOG2, 5 TANH. -/
def specialVal (f : Fmt) (op : Nat) (x : Val) : Option Val :=
  match op with
  | 0 => some (recipVal f x)
  | 1 => some (rsqrtVal f x)
  | 2 => some (sqrtVal f x)
  | 3 => exp2Val f x
  | 4 => log2Val f x
  | _ => tanhVal f x

end Sys2Proof.Machine
end

