-- ==== Sys2Proof/Machine/Flags.lean ====
section
/-! DEFINITION. Conditions and predicates: the integer and float comparisons (16 R445, 15 R428), FMIN/FMAX's order (15 R426),
the class mask (15 R427), the branch conditions (14 R380), the predicate operations (17 R474) and VOTE (17 R501). -/

namespace Sys2Proof.Machine

/-- Condition codes of ICMP at width w. -/
def icmpHolds (w cc a b : Nat) : Bool :=
  match cc with
  | 0 => a == b
  | 1 => a != b
  | 2 => decide (signed w a < signed w b)
  | 3 => decide (signed w a ≤ signed w b)
  | 4 => decide (a < b)
  | _ => decide (a ≤ b)

/-- All ones or zero in an element of width w. -/
def maskElem (w : Nat) (b : Bool) : Nat := if b then 2^w - 1 else 0

/-- An exact finite value in units of 2^k. -/
def scaled (neg : Bool) (m : Nat) (e k : Int) : Int :=
  let n : Int := (m * 2^(e - k).toNat : Nat)
  if neg then -n else n

/-- a < b on the extended real line; zeros are equal; false for NaN. -/
def valLt : Val → Val → Bool
  | .nan, _ => false
  | _, .nan => false
  | .inf s, .inf r => s && !r
  | .inf s, .fin _ _ _ => s
  | .fin _ _ _, .inf r => !r
  | .fin s m e, .fin r n d =>
    let k := min (if m = 0 then d else e) (if n = 0 then e else d)
    decide (scaled s m (if m = 0 then k else e) k < scaled r n (if n = 0 then k else d) k)

def isNan (v : Val) : Bool := v == .nan

/-- Condition codes of FCMP. -/
def fcmpHolds (cc : Nat) (a b : Val) : Bool :=
  let un := isNan a || isNan b
  let lt := valLt a b
  let eq := !un && !lt && !valLt b a
  match cc with
  | 0 => eq
  | 1 => un || !eq
  | 2 => lt
  | 3 => lt || eq
  | 4 => un
  | 5 => !un
  | _ => un || lt

/-- R426: −0 below +0; one NaN gives the other operand. -/
def fminVal (a b : Val) : Val :=
  if isNan a then b else if isNan b then a
  else if valLt a b then a else if valLt b a then b else if isNegZero a then a else b
def fmaxVal (a b : Val) : Val :=
  if isNan a then b else if isNan b then a
  else if valLt b a then a else if valLt a b then b else if isNegZero a then b else a

def isNegative : Val → Bool
  | .nan => false
  | .inf s => s
  | .fin s _ _ => s

def Val.abs : Val → Val
  | .nan => .nan
  | .inf _ => .inf false
  | .fin _ m e => .fin false m e

/-- Operations of FSGN (R433): a NaN in b counts as positive. -/
def fsgnVal (op : Nat) (a b : Val) : Val :=
  match op with
  | 0 => a.abs
  | 1 => a.neg
  | 2 => if isNegative b then a.abs.neg else a.abs
  | _ => if isNegative b then a.neg else a

def bitAt (n : Nat) (b : Bool) : Nat := if b then 2^n else 0

/-- The value is an integer. -/
def isIntegral : Val → Bool
  | .fin _ m e => decide (0 ≤ e) || m % 2^(-e).toNat == 0
  | _ => false

/-- The finite magnitude equals MaxFinite. -/
def isMaxFinite (f : Fmt) : Val → Bool
  | .fin _ m e => m != 0 && !dyLt m e (maxFinite f).1 (maxFinite f).2 && !dyLt (maxFinite f).1 (maxFinite f).2 m e
  | _ => false

/-- The class mask of an element pattern (R427). -/
def classMask (f : Fmt) (b : Nat) : Nat :=
  let v := decodeVal f b
  if f.ew = 0 then
    let i : Int := if f.s = 1 then signed f.width b else (b % 2^f.width : Nat)
    bitAt 1 (decide (i < 0)) + bitAt 4 (i == 0) + bitAt 6 (decide (0 < i)) + bitAt 9 (i == fixedLo f || i == fixedHi f)
      + bitAt 10 true + bitAt 12 (isIntegral v)
  else
    let e := field b f.fw f.ew
    let m := field b 0 f.fw
    match v with
    | .nan => bitAt 8 true
    | .inf s => if s then bitAt 0 true else bitAt 7 true
    | .fin s n _ =>
      bitAt 1 (s && e != 0) + bitAt 2 (s && e == 0 && n != 0) + bitAt 3 (s && n == 0) + bitAt 4 (!s && n == 0)
        + bitAt 5 (!s && e == 0 && n != 0) + bitAt 6 (!s && e != 0) + bitAt 9 (isMaxFinite f v)
        + bitAt 11 (e == 0 && m != 0 && f.sub) + bitAt 12 (isIntegral v)

/-- BRG conditions: 0 EQZ, 1 NEZ, 2 LTZ, 3 GEZ. -/
def brgHolds (cc : Nat) (x : DWord) : Bool :=
  match cc with
  | 0 => x == 0
  | 1 => x != 0
  | 2 => x.msb
  | _ => !x.msb

/-- QOP's operations. -/
def qopVal (m : Nat) (a b : Bool) : Bool :=
  match m with
  | 0 => a && b
  | 1 => a || b
  | 2 => a != b
  | 3 => a && !b
  | 4 => !a
  | 5 => true
  | _ => false

/-- Mask of a set of lanes. -/
def laneMask (l : List Nat) : Nat := l.foldl (fun a n => a + 2^n) 0

/-- VOTE over the named lanes (R68, R501): codes 0 ANY, 1 ALL, 2 COUNT, 3 BALLOT. -/
def voteVal (m : Nat) (named : Nat) (present yes : Nat → Bool) : DWord :=
  let n := (List.range 32).filter fun l => named.testBit l
  let pres := n.filter present
  let abs := n.filter fun l => !present l
  let y := pres.filter yes
  let f := bitAt 32 (!abs.isEmpty)
  BitVec.ofNat 64 (match m with
    | 0 => bitAt 0 (!y.isEmpty) + f
    | 1 => bitAt 0 (y.length == pres.length) + f
    | 2 => y.length + f
    | _ => laneMask y + laneMask abs * 2^32)

end Sys2Proof.Machine
end

