-- ==== Sys2Proof/Machine/LaneInt.lean ====
section
/-! DEFINITION. Meanings of the integer, logic, shift, bit-field, move and predicate lane instructions (15, 16, 17). -/

namespace Sys2Proof.Machine

abbrev Result := Host.Outcome State Fault Refusal

/-- Two-source elementwise instruction. -/
def intLane (i : Instr) (d a b g w : Nat) (f : Nat → Nat → Nat) (s : State) : State :=
  laneReg i g d (fun s k t => map2 w f ((s.thread t).reg a) (bOperand s k t b)) s

/-- One-source elementwise instruction. -/
def intLane1 (i : Instr) (d a g w : Nat) (f : Nat → Nat) (s : State) : State :=
  laneReg i g d (fun s _ t => map1 w f ((s.thread t).reg a)) s

/-- Two-source instruction on whole registers. -/
def wordLane (i : Instr) (d a b g : Nat) (f : DWord → DWord → DWord) (s : State) : State :=
  laneReg i g d (fun s k t => f ((s.thread t).reg a) (bOperand s k t b)) s

/-- Nearest value of the signed range (R443). -/
def clampInt (w : Nat) (x : Int) : Nat :=
  wrap w (max (-(2^(w - 1) : Nat) : Int) (min x ((2^(w - 1) : Nat) - 1)))

def addElem (w a b : Nat) : Nat := (a + b) % 2^w
def subElem (w a b : Nat) : Nat := (a + 2^w - b) % 2^w
def mulElem (w a b : Nat) : Nat := a * b % 2^w
def mulHElem (w a b : Nat) : Nat := wrap w (signed w a * signed w b / (2^w : Nat))
def mulHUElem (w a b : Nat) : Nat := a * b / 2^w
def madElem (w a b d : Nat) : Nat := (a * b + d) % 2^w
def minElem (w a b : Nat) : Nat := if signed w a < signed w b then a else b
def maxElem (w a b : Nat) : Nat := if signed w b < signed w a then a else b
def addsElem (w a b : Nat) : Nat := clampInt w (signed w a + signed w b)
def subsElem (w a b : Nat) : Nat := clampInt w (signed w a - signed w b)
def absElem (w a : Nat) : Nat := wrap w (signed w a).natAbs
def shlElem (w a b : Nat) : Nat := a * 2^(b % w) % 2^w
def shrElem (w a b : Nat) : Nat := a / 2^(b % w)
def sarElem (w a b : Nat) : Nat := wrap w (signed w a / (2^(b % w) : Nat))
def rolElem (w a b : Nat) : Nat := (a * 2^(b % w) + a / 2^(w - b % w)) % 2^w
def popcElem (w a : Nat) : Nat := ((List.range w).filter fun j => a.testBit j).length
def clzElem (w a : Nat) : Nat := if a = 0 then w else w - 1 - a.log2
def brevElem (w a : Nat) : Nat := (List.range w).foldl (fun r j => r + bitAt (w - 1 - j) (a.testBit j)) 0

def execIadd (d a b g m : Nat) (s : State) : Result := .next (intLane (.iadd d a b g m) d a b g (widthOf m) (addElem (widthOf m)) s)
def execIsub (d a b g m : Nat) (s : State) : Result := .next (intLane (.isub d a b g m) d a b g (widthOf m) (subElem (widthOf m)) s)
def execImul (d a b g m : Nat) (s : State) : Result := .next (intLane (.imul d a b g m) d a b g (widthOf m) (mulElem (widthOf m)) s)
def execImulh (d a b g m : Nat) (s : State) : Result := .next (intLane (.imulh d a b g m) d a b g (widthOf m) (mulHElem (widthOf m)) s)
def execImulhu (d a b g m : Nat) (s : State) : Result := .next (intLane (.imulhu d a b g m) d a b g (widthOf m) (mulHUElem (widthOf m)) s)
def execImad (d a b g m : Nat) (s : State) : Result :=
  .next (laneReg (.imad d a b g m) g d
    (fun s k t => map3 (widthOf m) (madElem (widthOf m)) ((s.thread t).reg a) (bOperand s k t b) ((s.thread t).reg d)) s)
def execImin (d a b g m : Nat) (s : State) : Result := .next (intLane (.imin d a b g m) d a b g (widthOf m) (minElem (widthOf m)) s)
def execImax (d a b g m : Nat) (s : State) : Result := .next (intLane (.imax d a b g m) d a b g (widthOf m) (maxElem (widthOf m)) s)
def execIminu (d a b g m : Nat) (s : State) : Result := .next (intLane (.iminu d a b g m) d a b g (widthOf m) min s)
def execImaxu (d a b g m : Nat) (s : State) : Result := .next (intLane (.imaxu d a b g m) d a b g (widthOf m) max s)
def execIadds (d a b g m : Nat) (s : State) : Result := .next (intLane (.iadds d a b g m) d a b g (widthOf m) (addsElem (widthOf m)) s)
def execIsubs (d a b g m : Nat) (s : State) : Result := .next (intLane (.isubs d a b g m) d a b g (widthOf m) (subsElem (widthOf m)) s)
def execIabs (d a g m : Nat) (s : State) : Result := .next (intLane1 (.iabs d a g m) d a g (widthOf m) (absElem (widthOf m)) s)

def execAndl (d a b g : Nat) (s : State) : Result := .next (wordLane (.andl d a b g) d a b g (fun x y => x &&& y) s)
def execOrl (d a b g : Nat) (s : State) : Result := .next (wordLane (.orl d a b g) d a b g (fun x y => x ||| y) s)
def execXorl (d a b g : Nat) (s : State) : Result := .next (wordLane (.xorl d a b g) d a b g (fun x y => x ^^^ y) s)
def execAndnl (d a b g : Nat) (s : State) : Result := .next (wordLane (.andnl d a b g) d a b g (fun x y => x &&& ~~~y) s)

def execShl (d a b g m : Nat) (s : State) : Result := .next (intLane (.shl d a b g m) d a b g (widthOf m) (shlElem (widthOf m)) s)
def execShr (d a b g m : Nat) (s : State) : Result := .next (intLane (.shr d a b g m) d a b g (widthOf m) (shrElem (widthOf m)) s)
def execSar (d a b g m : Nat) (s : State) : Result := .next (intLane (.sar d a b g m) d a b g (widthOf m) (sarElem (widthOf m)) s)
def execRol (d a b g m : Nat) (s : State) : Result := .next (intLane (.rol d a b g m) d a b g (widthOf m) (rolElem (widthOf m)) s)
def execPopc (d a g m : Nat) (s : State) : Result := .next (intLane1 (.popc d a g m) d a g (widthOf m) (popcElem (widthOf m)) s)
def execClz (d a g m : Nat) (s : State) : Result := .next (intLane1 (.clz d a g m) d a g (widthOf m) (clzElem (widthOf m)) s)
def execBrev (d a g m : Nat) (s : State) : Result := .next (intLane1 (.brev d a g m) d a g (widthOf m) (brevElem (widthOf m)) s)

/-- ICMP has no guard (R378). -/
def execIcmp (d a b c m : Nat) (s : State) : Result :=
  .next (intLane (.icmp d a b c m) d a b 0 (widthOf m) (fun x y => maskElem (widthOf m) (icmpHolds (widthOf m) c x y)) s)

def execSel (d a b q : Nat) (s : State) : Result :=
  .next (laneReg (.sel d a b q) 0 d (fun s k t => if (s.thread t).pred q then (s.thread t).reg a else bOperand s k t b) s)

def execMov (d b g : Nat) (s : State) : Result := .next (laneReg (.mov d b g) g d (fun s k t => bOperand s k t b) s)

/-- PERM (R472): selectors in the old D. -/
def permVal (sel a b : DWord) : DWord :=
  map1 8 (fun x => let n := x % 16; if 8 ≤ n then elem a 8 (n - 8) else elem b 8 n) sel

def execPerm (d a b g : Nat) (s : State) : Result :=
  .next (laneOp (.perm d a b g) 1 g legal noCheck
    (fun s k t => (s.thread t).setReg d (permVal ((s.thread t).reg d) ((s.thread t).reg a) (bOperand s k t b))) s)

/-- MOVI (R464): the low w bits of the sign-extended immediate in every element. -/
def moviVal (w i : Nat) : DWord := pack w (List.replicate (perReg w) (wrap w (signed 16 i)))

def execMovi (d i m : Nat) (s : State) : Result := .next (laneReg (.movi d i m) 0 d (fun _ _ _ => moviVal (widthOf m) i) s)

/-- MOVX (R465): 0 .LO, 1 .HI, 2 .LOS. -/
def movxVal (m imm : Nat) (old : DWord) : DWord :=
  match m with
  | 0 => BitVec.ofNat 64 (old.toNat / 2^32 * 2^32 + imm % 2^32)
  | 1 => BitVec.ofNat 64 (imm % 2^32 * 2^32 + old.toNat % 2^32)
  | _ => BitVec.ofInt 64 (signed 32 imm)

def execMovx (d m imm : Nat) (s : State) : Result :=
  .next (laneReg (.movx d m imm) 0 d (fun s _ t => movxVal m imm ((s.thread t).reg d)) s)

/-- Field of xB: position and length, 0 meaning 64 (R410). -/
def bfPos (x : DWord) : Nat := field x.toNat 0 6
def bfLen (x : DWord) : Nat := let n := field x.toNat 8 6; if n = 0 then 64 else n

def bfxVal (sgn : Nat) (a x : DWord) : DWord :=
  let f := a.toNat / 2^bfPos x % 2^bfLen x
  if sgn = 1 then BitVec.ofInt 64 (signed (bfLen x) f) else BitVec.ofNat 64 f

def bfiVal (d a x : DWord) : DWord :=
  let m := BitVec.ofNat 64 ((2^bfLen x - 1) * 2^bfPos x)
  (d &&& ~~~m) ||| (BitVec.ofNat 64 (a.toNat * 2^bfPos x) &&& m)

def execBfx (d a b g sx : Nat) (s : State) : Result := .next (wordLane (.bfx d a b g sx) d a b g (bfxVal sx) s)
def execBfi (d a b g : Nat) (s : State) : Result :=
  .next (laneReg (.bfi d a b g) g d (fun s k t => bfiVal ((s.thread t).reg d) ((s.thread t).reg a) (bOperand s k t b)) s)

def execQop (d a b g m : Nat) (s : State) : Result :=
  .next (laneOp (.qop d a b g m) 0 g legal noCheck
    (fun s _ t => (s.thread t).setPred d (qopVal m ((s.thread t).pred a) ((s.thread t).pred b))) s)
def execMovqToPredicate (q a g : Nat) (s : State) : Result :=
  .next (laneOp (.movqToPredicate q a g) 0 g legal noCheck (fun s _ t => (s.thread t).setPred q ((s.thread t).reg a != 0)) s)
def execMovqToVector (d q g : Nat) (s : State) : Result :=
  .next (laneReg (.movqToVector d q g) g d (fun s _ t => if (s.thread t).pred q then 1 else 0) s)

end Sys2Proof.Machine
end

