-- ==== Sys2Proof/Machine/LaneFloat.lean ====
section
/-! DEFINITION. Meanings of the float lane instructions, the conversions and FDOT (04, 15 R420-R434). -/

namespace Sys2Proof.Machine

def State.crewOf (s : State) (k : Nat) : Crew := s.crew (s.convoy k).crew

/-- Writes register `d` with the rounded results and steps SRSEED under RSR (R112, R118). -/
def writeRounded (t : Thread) (d : Nat) (f : Fmt) (mode : Nat) (sat : Bool) (vals : List Val) : Thread :=
  let r := roundList f mode sat vals t.srseed
  { t.setReg d (pack f.width r.1) with srseed := r.2 }

/-- Decoded elements of a register. -/
def vals (f : Fmt) (x : DWord) : List Val := (elems f.width x).map (decodeVal f)

/-- Two-source float instruction in one entry. -/
def floatLane (i : Instr) (d a b g n : Nat) (op : Nat → Val → Val → Val) (s : State) : State :=
  laneOp i 1 g legal (formatCheck [n] [n]) (fun s k t =>
    let cr := s.crewOf k
    let f := cr.fmt n
    writeRounded (s.thread t) d f (cr.mode n) (cr.sat n)
      (List.zipWith (op (cr.mode n)) (vals f ((s.thread t).reg a)) (vals f (bOperand s k t b)))) s

def execFadd (d a b g n : Nat) (s : State) : Result := .next (floatLane (.fadd d a b g n) d a b g n (fun m x y => sumVals m [x, y]) s)
def execFsub (d a b g n : Nat) (s : State) : Result := .next (floatLane (.fsub d a b g n) d a b g n (fun m x y => sumVals m [x, y.neg]) s)
def execFmul (d a b g n : Nat) (s : State) : Result := .next (floatLane (.fmul d a b g n) d a b g n (fun _ x y => x.mul y) s)
def execFmin (d a b g n : Nat) (s : State) : Result := .next (floatLane (.fmin d a b g n) d a b g n (fun _ x y => fminVal x y) s)
def execFmax (d a b g n : Nat) (s : State) : Result := .next (floatLane (.fmax d a b g n) d a b g n (fun _ x y => fmaxVal x y) s)

/-- a × b ± d, exact, one rounding (R431). -/
def fmaLane (i : Instr) (d a b g n : Nat) (neg : Bool) (s : State) : State :=
  laneOp i 2 g legal (formatCheck [n] [n]) (fun s k t =>
    let cr := s.crewOf k
    let f := cr.fmt n
    let p := List.zipWith Val.mul (vals f ((s.thread t).reg a)) (vals f (bOperand s k t b))
    writeRounded (s.thread t) d f (cr.mode n) (cr.sat n)
      (List.zipWith (fun x y => sumVals (cr.mode n) [x, if neg then y.neg else y]) p (vals f ((s.thread t).reg d)))) s

def execFfma (d a b g n : Nat) (s : State) : Result := .next (fmaLane (.ffma d a b g n) d a b g n false s)
def execFfms (d a b g n : Nat) (s : State) : Result := .next (fmaLane (.ffms d a b g n) d a b g n true s)

def execFcmp (d a b c n : Nat) (s : State) : Result :=
  .next (laneOp (.fcmp d a b c n) 1 0 legal (formatCheck [n] []) (fun s k t =>
    let f := (s.crewOf k).fmt n
    (s.thread t).setReg d (map2 f.width
      (fun x y => maskElem f.width (fcmpHolds c (decodeVal f x) (decodeVal f y))) ((s.thread t).reg a) (bOperand s k t b))) s)

def execFsgn (d a b o n : Nat) (s : State) : Result :=
  .next (floatLane (.fsgn d a b o n) d a b 0 n (fun _ x y => fsgnVal o x y) s)

/-- One element of FSPC: the result pattern. The open function stands where the refinement gives out (log 11). -/
def specialElem (w : Word) (f : Fmt) (op mode : Nat) (sat : Bool) (seed : Word) (x : Nat) : Nat :=
  match specialVal f op (decodeVal f x) with
  | some v => encodeVal f (roundVal f mode sat seed.toNat v)
  | none => Config.specialResult w op x mode seed % 2^f.width

/-- Elements of FSPC in ascending order, stepping the seed under RSR. -/
def specialList (w : Word) (f : Fmt) (op mode : Nat) (sat : Bool) : List Nat → Word → List Nat × Word
  | [], t => ([], t)
  | x :: xs, t =>
    let t' := if mode = 5 then lfsrStep t else t
    let r := specialList w f op mode sat xs t'
    (specialElem w f op mode sat t' x :: r.1, r.2)

def execFspc (d a o n : Nat) (s : State) : Result :=
  .next (laneOp (.fspc d a o n) 2 0 legal (formatCheck [n] [n]) (fun s k t =>
    let cr := s.crewOf k
    let f := cr.fmt n
    let th := s.thread t
    let r := specialList (Tab.get 0 cr.f n) f o (cr.mode n) (cr.sat n) (elems f.width (th.reg a)) th.srseed
    { th.setReg d (pack f.width r.1) with srseed := r.2 }) s)

/-- FCLASS: the element index must be below the entry's element count (R374 step 4). -/
def execFclass (d a e n : Nat) (s : State) : Result :=
  .next (laneOp (.fclass d a e n) 1 0
    (fun s k => let f := (s.crewOf k).fmt n; f.v && decide (perReg f.width ≤ e)) (formatCheck [n] []) (fun s k t =>
      let f := (s.crewOf k).fmt n
      (s.thread t).setReg d (BitVec.ofNat 64 (classMask f (elem ((s.thread t).reg a) f.width e)))) s)

/-- Source patterns of a conversion (R120): part `p` of a span of registers from vA. -/
def convertSource (t : Thread) (a p wd ws : Nat) : List Nat :=
  let n := perReg wd
  let ns := perReg ws
  (List.range n).map fun i => let j := p * n + i; elem (t.reg (a + j / ns)) ws (j % ns)

/-- The span of R120 passes v63. -/
def spanIllegal (a p wd ws : Nat) : Bool := decide (63 < a + (p * perReg wd + perReg wd - 1) / perReg ws)

def execCvt (d a sf p g f : Nat) (s : State) : Result :=
  .next (laneOp (.cvt d a sf p g f) 1 g
    (fun s k => let cr := s.crewOf k
      (cr.fmt f).v && (cr.fmt sf).v && spanIllegal a p (cr.fmt f).width (cr.fmt sf).width)
    (formatCheck [f, sf] [f]) (fun s k t =>
      let cr := s.crewOf k
      let fd := cr.fmt f
      let fs := cr.fmt sf
      writeRounded (s.thread t) d fd (cr.mode f) (cr.sat f)
        ((convertSource (s.thread t) a p fd.width fs.width).map (decodeVal fs))) s)

def execCvti (d a sf p g m : Nat) (s : State) : Result :=
  .next (laneOp (.cvti d a sf p g m) 1 g
    (fun s k => let fs := (s.crewOf k).fmt sf; fs.v && spanIllegal a p (widthOf m) fs.width)
    (formatCheck [sf] [8]) (fun s k t =>
      let cr := s.crewOf k
      let fs := cr.fmt sf
      writeRounded (s.thread t) d (intFmt (widthOf m)) (cr.mode 8) (cr.sat 8)
        ((convertSource (s.thread t) a p (widthOf m) fs.width).map (decodeVal fs))) s)

def execCvtf (d a w p g f : Nat) (s : State) : Result :=
  .next (laneOp (.cvtf d a w p g f) 1 g
    (fun s k => let fd := (s.crewOf k).fmt f; fd.v && spanIllegal a p fd.width (widthOf w))
    (formatCheck [f] [f]) (fun s k t =>
      let cr := s.crewOf k
      let fd := cr.fmt f
      writeRounded (s.thread t) d fd (cr.mode f) (cr.sat f)
        ((convertSource (s.thread t) a p fd.width (widthOf w)).map (decodeVal (intFmt (widthOf w))))) s)

/-- Allowed pairs of input and destination element counts: a whole ratio of at least 2 (R429). -/
def fdotRatio (wi wd : Nat) : Option Nat :=
  let ni := perReg wi
  let nd := perReg wd
  if nd ≠ 0 ∧ ni % nd = 0 ∧ 2 * nd ≤ ni then some (ni / nd) else none

/-- FORMAT_EMPTY, then FORMAT_ILLEGAL for the pair or the rounding field. -/
def fdotCheck (i f : Nat) (s : State) (k : Nat) : Option Nat :=
  let cr := s.crewOf k
  match formatCheck [f, i] [] s k with
  | some c => some c
  | none => if (fdotRatio (cr.fmt i).width (cr.fmt f).width).isNone then some 0x031 else formatCheck [] [f] s k

/-- Destination element j of FDOT: one exact sum. -/
def fdotElem (mode : Nat) (fi fd : Fmt) (h : Nat) (d a b : DWord) (j : Nat) : Val :=
  sumVals mode (decodeVal fd (elem d fd.width j) ::
    (List.range h).map fun m => (decodeVal fi (elem a fi.width (j * h + m))).mul (decodeVal fi (elem b fi.width (j * h + m))))

def execFdot (d a b i f : Nat) (s : State) : Result :=
  .next (laneOp (.fdot d a b i f) 2 0 legal (fdotCheck i f) (fun s k t =>
    let cr := s.crewOf k
    let fd := cr.fmt f
    let fi := cr.fmt i
    let h := (fdotRatio fi.width fd.width).getD 1
    let th := s.thread t
    writeRounded th d fd (cr.mode f) (cr.sat f)
      ((List.range (perReg fd.width)).map (fdotElem (cr.mode f) fi fd h (th.reg d) (th.reg a) (bOperand s k t b)))) s)

end Sys2Proof.Machine
end

