-- ==== Sys2Proof/Machine/CrossLane.lean ====
section
/-! DEFINITION. Meanings of the cross-lane instructions over the members present (02 R67-R69, 17 R476-R478, R483, R501). -/

namespace Sys2Proof.Machine

/-- SHFL in one member (R484): `src` reads xB of the member in a lane. -/
def shflVal (w : Nat) (sel : DWord) (src : Nat → Option DWord) : DWord × Bool :=
  let l := field sel.toNat 0 5
  let ne := perReg w
  let j := field sel.toNat 5 6 % ne
  match src l with
  | some x => (pack w ((List.range ne).map fun i => elem x w ((j + i) % ne)), true)
  | none => (0, false)

def execShfl (d a b q m : Nat) (s : State) : Result :=
  .next (laneOp (.shfl d a b q m) 1 0 legal detCheck (fun s k t =>
    let c := s.convoy k
    let r := shflVal (widthOf m) ((s.thread t).reg a) (fun l => (c.inLane l).map fun o => bOperand s k o b)
    ((s.thread t).setReg d r.1).setPred q r.2) s)

def execVote (d b q m : Nat) (s : State) : Result :=
  .next (laneOp (.vote d b q m) 1 0 legal detCheck (fun s k t =>
    let c := s.convoy k
    (s.thread t).setReg d (voteVal m ((bOperand s k t b).toNat % 2^32) (fun l => (c.inLane l).isSome)
      (fun l => match c.inLane l with | some o => (s.thread o).pred q | none => false))) s)

/-- Integer operations of SCAN and RED, and their identities (R477). -/
def scanOp (op w p x : Nat) : Nat :=
  match op with
  | 0 => (p + x) % 2^w
  | 1 => minElem w p x
  | 2 => maxElem w p x
  | 3 => min p x
  | 4 => max p x
  | 5 => p &&& x
  | 6 => p ||| x
  | _ => p ^^^ x

def scanIdentity (op w : Nat) : Nat :=
  match op with
  | 1 => 2^(w - 1) - 1
  | 2 => 2^(w - 1)
  | 3 => 2^w - 1
  | 5 => 2^w - 1
  | _ => 0

/-- Running combinations over a list: the value before each position and at it. -/
def running (first : Nat → Nat) (op : Nat → Nat → Nat) : Option Nat → List Nat → List (Option Nat × Nat)
  | _, [] => []
  | acc, x :: xs =>
    let v := match acc with | none => first x | some p => op p x
    (acc, v) :: running first op (some v) xs

/-- Position of a thread among the members. -/
def posOf (t : Nat) (ks : List Nat) : Nat := ks.findIdx (· == t)

/-- SCAN and RED in one member: element i over all members in ascending lane order. -/
def scanReg (w : Nat) (first : Nat → Nat) (op : Nat → Nat → Nat) (ident : Nat) (red exc : Bool) (xs : List DWord) (pos : Nat) : DWord :=
  pack w ((List.range (perReg w)).map fun i =>
    let l := running first op none (xs.map fun x => elem x w i)
    if red then ((l.getLast?).map (·.2)).getD 0
    else match l[pos]? with
      | some (before, at_) => if exc then before.getD ident else at_
      | none => 0)

/-- The integer forms. -/
def scanInt (i : Instr) (d a op m : Nat) (red exc : Bool) (s : State) : State :=
  laneOp i 1 0 legal detCheck (fun s k t =>
    let ks := (s.convoy k).keys
    (s.thread t).setReg d (scanReg (widthOf m) id (scanOp op (widthOf m)) (scanIdentity op (widthOf m)) red exc
      (ks.map fun o => (s.thread o).reg a) (posOf t ks))) s

def execScan (d a x o m : Nat) (s : State) : Result := .next (scanInt (.scan d a x o m) d a o m false (x == 1) s)
def execRed (d a o m : Nat) (s : State) : Result := .next (scanInt (.red d a o m) d a o m true false s)

/-- RSR rounds RNE where no seed steps (R118). -/
def noRsr (mode : Nat) : Nat := if mode = 5 then 0 else mode

/-- The float forms (R477): DETERMINISM_VIOLATION before the format checks (R478). -/
def scanFloat (i : Instr) (d a n : Nat) (red exc : Bool) (s : State) : State :=
  laneOp i 1 0 legal (orCheck detCheck (formatCheck [n] [n])) (fun s k t =>
    let cr := s.crewOf k
    let f := cr.fmt n
    let mode := noRsr (cr.mode n)
    let rnd (v : Val) : Nat := encodeVal f (roundVal f mode (cr.sat n) 0 v)
    let ks := (s.convoy k).keys
    (s.thread t).setReg d (scanReg f.width (fun x => rnd (decodeVal f x))
      (fun p x => rnd (sumVals mode [decodeVal f p, decodeVal f x])) (encodeVal f (.fin false 0 0)) red exc
      (ks.map fun o => (s.thread o).reg a) (posOf t ks))) s

def execScanFadd (d a n x : Nat) (s : State) : Result := .next (scanFloat (.scanFadd d a n x) d a n false (x == 1) s)
def execRedFadd (d a n : Nat) (s : State) : Result := .next (scanFloat (.redFadd d a n) d a n true false s)

end Sys2Proof.Machine
end

