-- ==== Sys2Proof/Machine/Group.lean ====
section
/-! DEFINITION. Meanings of the scalar group instructions (16 R437-R439) and of FMTW and FMTR (04 R106). -/

namespace Sys2Proof.Machine

def execGadd (d a b : Nat) (s : State) : Result := .next (groupReg (.gadd d a b) d (fun s k => s.g k a + s.g k b) s)
def execGsub (d a b : Nat) (s : State) : Result := .next (groupReg (.gsub d a b) d (fun s k => s.g k a - s.g k b) s)
def execGmul (d a b : Nat) (s : State) : Result := .next (groupReg (.gmul d a b) d (fun s k => s.g k a * s.g k b) s)
def execGand (d a b : Nat) (s : State) : Result := .next (groupReg (.gand d a b) d (fun s k => s.g k a &&& s.g k b) s)
def execGor (d a b : Nat) (s : State) : Result := .next (groupReg (.gor d a b) d (fun s k => s.g k a ||| s.g k b) s)
def execGxor (d a b : Nat) (s : State) : Result := .next (groupReg (.gxor d a b) d (fun s k => s.g k a ^^^ s.g k b) s)
/-- Shift count: the low 6 bits of gB. -/
def shCount (x : DWord) : Nat := x.toNat % 64
def execGshl (d a b : Nat) (s : State) : Result := .next (groupReg (.gshl d a b) d (fun s k => s.g k a <<< shCount (s.g k b)) s)
def execGshr (d a b : Nat) (s : State) : Result := .next (groupReg (.gshr d a b) d (fun s k => s.g k a >>> shCount (s.g k b)) s)
def execGsar (d a b : Nat) (s : State) : Result := .next (groupReg (.gsar d a b) d (fun s k => (s.g k a).sshiftRight (shCount (s.g k b))) s)
def execGmin (d a b : Nat) (s : State) : Result :=
  .next (groupReg (.gmin d a b) d (fun s k => if (s.g k a).slt (s.g k b) then s.g k a else s.g k b) s)
def execGmax (d a b : Nat) (s : State) : Result :=
  .next (groupReg (.gmax d a b) d (fun s k => if (s.g k b).slt (s.g k a) then s.g k a else s.g k b) s)
def execGsel (d a b t : Nat) (s : State) : Result :=
  .next (groupReg (.gsel d a b t) d (fun s k => if s.g k t ≠ 0 then s.g k a else s.g k b) s)
def execGaddi (d a i : Nat) (s : State) : Result := .next (groupReg (.gaddi d a i) d (fun s k => s.g k a + BitVec.ofInt 64 (signed 13 i)) s)
def execGmovi (d i : Nat) (s : State) : Result := .next (groupReg (.gmovi d i) d (fun _ _ => BitVec.ofInt 64 (signed 19 i)) s)
def execGlui (d i : Nat) (s : State) : Result :=
  .next (groupReg (.glui d i) d (fun s k => (s.g k d <<< 19) ||| BitVec.ofNat 64 i) s)

/-- GRDL (R439): zero for an absent lane; a DET run needs a whole convoy (R59). -/
def execGrdl (d a n : Nat) (s : State) : Result :=
  .next (groupOp (.grdl d a n) legal detCheck (fun s k =>
    s.setG k d (match (s.convoy k).inLane n with | some t => (s.thread t).reg a | none => 0)) s)

/-- FMTW (R106): an illegal entry faults with FORMAT_ILLEGAL. Every convoy of the crew that issues later finds the new entry, also one that
issues before its BARW, which R100 lets see either (log 64). -/
def execFmtw (a n : Nat) (s : State) : Result :=
  .next (groupOp (.fmtw a n) legal
    (fun s k => if legalEntry (storedEntry ((s.g k a).setWidth 32)) then none else some 0x031)
    (fun s k =>
      let key := (s.convoy k).crew
      let cr := s.crew key
      s.setCrew key { cr with f := Tab.set 0 n (storedEntry ((s.g k a).setWidth 32)) cr.f }) s)

def execFmtr (d n : Nat) (s : State) : Result :=
  .next (groupReg (.fmtr d n) d (fun s k => ((Tab.get 0 (s.crewOf k).f n).setWidth 64 : DWord)) s)

end Sys2Proof.Machine
end

