-- ==== Sys2Proof/Machine/Control.lean ====
section
/-! DEFINITION. Branches, divergence, junctions, exit, thread creation, traps and returns (02, 10 R284-R286, 15, 16, 17). -/

namespace Sys2Proof.Machine

/-- Membership mask: bit n is lane n. -/
def membershipMask (c : Convoy) : Nat := laneMask (c.members.map (·.1))

/-- PathTie (R47). -/
def pathTie (seed : DWord) (pc mask : Nat) : Nat :=
  popcElem 64 ((seed ^^^ BitVec.ofNat 64 pc ^^^ BitVec.ofNat 64 (mask * 2^32)).toNat)

/-- Distinct numbers, ascending. -/
def insertSorted (x : Nat) : List Nat → List Nat
  | [] => [x]
  | y :: ys => if x < y then x :: y :: ys else if x = y then y :: ys else y :: insertSorted x ys
def ascending (l : List Nat) : List Nat := l.foldl (fun a x => insertSorted x a) []

/-- Group sizes and the address of the group that stays (R47). -/
def stayAddress (seed : DWord) (pc mask : Nat) (l : List (Nat × Nat)) : Nat :=
  let addrs := ascending (l.map (·.2))
  let size (a : Nat) : Nat := (l.filter fun p => p.2 == a).length
  let m := addrs.foldl (fun x a => max x (size a)) 0
  let best := addrs.filter fun a => size a == m
  (best[pathTie seed pc mask % best.length]?).getD 0

/-- Diverge (R46, R47) over members with their next addresses; none where the spills do not fit. -/
def diverge (s : State) (k : Nat) (pc mask : Nat) (l : List (Nat × Nat)) : Option State :=
  let c := s.convoy k
  let stay := stayAddress (s.crew c.crew).seed pc mask l
  let out := ((ascending (l.map (·.2))).filter (· != stay)).flatMap fun a => l.filter fun p => p.2 == a
  if out.isEmpty then some (continueAt s k stay)
  else (spillAll s c.crew c.core c.quad false out).map fun s => continueAt (dropMembers s k (out.map (·.1))) k stay

/-- Target of a displacement, modulo 2^64 (R382). -/
def branchTarget (pc w disp : Nat) : Nat := (((pc : Int) + 4 * signed w disp) % (2^64 : Nat)).toNat

/-- A divergence that must wait holds its convoy at the instruction, which counts as not yet issued (R49). -/
def execBr (q n d : Nat) (s : State) : Result :=
  .next (gated (.br q n d) 0 legal noCheck (fun s k =>
    let c := s.convoy k
    let l := c.keys.map fun t => (t, if (s.thread t).pred q != (n == 1) then branchTarget c.pc 21 d else c.pc + 4)
    match diverge (chargeGroup s k) k c.pc (membershipMask c) l with
    | some s' => s'
    | none => holdAt s k (.on (.br q n d))) s)

def execBrg (a cc d : Nat) (s : State) : Result :=
  .next (gated (.brg a cc d) 0 legal noCheck (fun s k =>
    let c := s.convoy k
    continueAt (chargeGroup s k) k (if brgHolds cc (s.g k a) then branchTarget c.pc 17 d else c.pc + 4)) s)

def execCall (d : Nat) (s : State) : Result :=
  .next (gated (.call d) 0 legal noCheck (fun s k =>
    let c := s.convoy k
    let s' := (chargeGroup s k).setThreads c.keys fun t => (s.thread t).setReg 63 (BitVec.ofNat 64 (c.pc + 4))
    continueAt s' k (branchTarget c.pc 21 d)) s)

/-- Cause of a target from a register (R372). -/
def targetFault (a : Nat) : Option Nat := if a % 4 ≠ 0 then some 0x011 else if 2^57 ≤ a then some 0x021 else none

/-- JMP and RET (R448, R449, R480): members with an unusable target fault, the rest divide. Where the trap entry has to wait for the
layby table, it keeps its members in the convoy, and the others divide after it (R49). -/
def jumpReg (i : Instr) (r : Nat) (s : State) : State :=
  gated i 0 legal noCheck (fun s k =>
    let c := s.convoy k
    let l := c.keys.map fun t => (t, ((s.thread t).reg r).toNat)
    let fs : List MFault := l.filterMap fun p => (targetFault p.2).map fun cause => { key := p.1, cause, addr := p.2 }
    let rest := l.filter fun p => (targetFault p.2).isNone
    let s1 := trapEntry (chargeGroup s k) k (iword i) c.pc fs
    match (s1.convoy k).hold with
    | .trapSpill ks a => if rest.isEmpty then s1 else holdAt s1 k (.jumpSpill ks a rest (membershipMask c))
    | _ =>
      if rest.isEmpty || (s1.convoy k).members.isEmpty then s1
      else match diverge s1 k c.pc (membershipMask c) rest with
        | some s2 => s2
        | none => holdAt s k (.on i)) s

/-- Trap entry of a JMP or RET that had to wait: its members leave, then the others divide, under the mask of the instruction's issue (R449);
where their spills do not fit either, they wait on. -/
def jumpSpillRetry (s : State) (k : Nat) : State :=
  let c := s.convoy k
  match c.hold with
  | .jumpSpill ks a rest mask =>
    match spillAll s c.crew c.core c.quad false (ks.map fun t => (t, a)) with
    | some s1 =>
      let s2 := if ks.isEmpty then s1 else dropMembers s1 k ks
      match diverge s2 k c.pc mask rest with
      | some s3 => s3
      | none => holdAt s2 k (.jumpSpill [] a rest mask)
    | none => s
  | _ => s

def execJmp (a : Nat) (s : State) : Result := .next (jumpReg (.jmp a) a s)
def execRet (s : State) : Result := .next (jumpReg .ret 63 s)

/-- All members leave for the layby of an address; none where the spills do not fit. -/
def parkAll (s : State) (k a : Nat) (junction : Bool) : Option State :=
  let c := s.convoy k
  (spillAll s c.crew c.core c.quad junction (c.keys.map fun t => (t, a))).map fun s => dropMembers s k c.keys

/-- JOIN (R56; R57 in a DET run). -/
def execJoin (n : Nat) (s : State) : Result :=
  .next (gated (.join n) 0 legal noCheck (fun s k =>
    let c := s.convoy k
    let det := (s.crewRun c.crew).det
    let s1 := chargeGroup s k
    if (if det then c.whole else decide (n ≤ c.members.length)) then continueAt s1 k (c.pc + 4)
    else match parkAll s1 k (c.pc + 4) det with
      | some s2 => s2
      | none => holdAt s k (.on (.join n))) s)

/-- EXIT (R65): every member enters EXITING; its row frees once its loads and TLDs are complete. -/
def execExit (s : State) : Result :=
  .next (gated .exit 0 legal noCheck (fun s k =>
    let c := s.convoy k
    let s1 := (chargeGroup s k).setThreads c.keys fun t => { s.thread t with state := .exiting }
    (endConvoy s1 k).post (c.keys.map Instr.rowFree)) s)

/-- Counters of the acting members that a release or acquire over loads and stores waits for (07 R197, R198). -/
def countersZero (s : State) (ks : List Nat) (ocl ocs occ oct : Bool) : Bool :=
  ks.all fun t => let th := s.thread t
    (!ocl || th.ocl == 0) && (!ocs || th.ocs == 0) && (!occ || th.occ == 0) && (!oct || th.oct == 0)

/-- Key of the instruction that a store belongs to: a write-through is of the atomic that caused it. -/
def Store.born (x : Store) : Nat := if x.ofAtom = 0 then x.id else x.ofAtom

/-- Every store of a core's address unit with a key up to `n`, whoever issued it, has been performed (07 R197). -/
def writeThroughDrained (s : State) (core n : Nat) : Bool :=
  (s.flight.stores.all fun x => x.core != core || decide (n < x.born)) && ((s.core core).sideLog.all fun e => decide (n < e.id))
    && (s.flight.atoms.all fun x => x.core != core || x.ret || decide (n < x.id))

/-- A release of convoy `k` at a scope over the named kinds, by the threads `ks`, is done (R197). -/
def released (s : State) (k : Nat) (ks : List Nat) (scope : Nat) (ocl ocs occ oct : Bool) : Bool :=
  countersZero s ks ocl ocs occ oct && (scope == 0 || writeThroughDrained s (s.convoy k).core ((s.convoy k).began s))

/-- The L1 part of an acquire (R198): at cluster scope or wider every word of the core's L1 becomes invalid, and fills under
way mark no word. -/
def acquireL1 (s : State) (core scope : Nat) : State :=
  if scope = 0 then s
  else
    let c := s.core core
    let s := s.setCore core { c with l1 := [] }
    { s with flight := { s.flight with reqs := s.flight.reqs.map fun r => if r.core == core then { r with mark := 0 } else r } }

/-- Cohort numbers in use by a crew (R35). -/
def State.cohortUsed (s : State) (crew n : Nat) : Bool :=
  s.threads.any fun p => p.2.crew == crew && p.2.state != .free && p.2.cohort == n

/-- Lowest free cohort number. -/
def freeCohort (s : State) (crew : Nat) : Option Nat := (List.range 128).find? fun n => !s.cohortUsed crew n

/-- Lowest free row of a lane within the footprint (R33). -/
def freeRow (s : State) (cr : Crew) (core quad lane : Nat) : Option Nat :=
  ((List.range cr.rows).map (· + cr.row0)).find? fun r => (s.thread (tkey core quad lane r)).state == .free

/-- A new thread in a row: zero but for what creation gives it (R62, R97, R101). -/
def newThread (s : State) (key crew cohort stage : Nat) (v0 : DWord) (st : ThreadState) : Thread :=
  let cr := s.crew crew
  { v := Tab.set 0 0 v0 [], state := st, crew, cohort, stage, srseed := srSeed cr.seed (tkeyLane key) cohort cr.num,
    gen := (s.thread key).gen + 1 }

/-- Spawn (R62) once its release is done; none while it must hold. -/
def spawnTry (s : State) (k e q a : Nat) : Option State :=
  let c := s.convoy k
  let cr := s.crew c.crew
  let sel := c.members.filter fun m => (s.thread (tkey c.core c.quad m.1 m.2)).pred q
  let addr := Tab.get 0 (s.crewRun c.crew).spawn e
  match freeCohort s c.crew with
  | none => none
  | some coh =>
    let rows := sel.map fun m => (m, freeRow s cr c.core c.quad m.1)
    if rows.any fun p => p.2.isNone then none
    else
      let kids := rows.map fun p => (tkey c.core c.quad p.1.1 p.1.2, tkey c.core c.quad p.1.1 (p.2.getD 0))
      let s1 := kids.foldl (fun x p =>
        x.setThread p.2 (newThread x p.2 c.crew coh (s.thread p.1).stage ((s.thread p.1).reg a) .spilled)) s
      spillAll s1 c.crew c.core c.quad false (kids.map fun p => (p.2, addr))

/-- SPAWN (R61-R64, R205, R485): release at core scope by the selected members, then all children at once. -/
def spawnStep (i : Instr) (e q a : Nat) (s : State) (k : Nat) : State :=
  let c := s.convoy k
  let sel := c.keys.filter fun t => (s.thread t).pred q
  if sel.isEmpty then advance (chargeGroup s k) k i
  else if released s k sel 0 true true false false then
    match spawnTry s k e q a with
    | some s1 => advance (chargeGroup s1 k) k i
    | none => holdSince s k (.on i)
  else holdSince s k (.on i)

def execSpawn (e q a : Nat) (s : State) : Result :=
  .next (gated (.spawn e q a) 0 (fun s k => Tab.get 0 (s.crewRun (s.convoy k).crew).spawn e == 0) noCheck
    (fun s k => spawnStep (.spawn e q a) e q a s k) s)

/-- SPAWN_COMPLETE: a held SPAWN evaluates its condition again. -/
def execSpawnComplete (k : Nat) (s : State) : Result :=
  .next (match (s.convoy k).hold with
    | .on (.spawn e q a) => spawnStep (.spawn e q a) e q a s k
    | _ => s)

/-- TRAP and BRK fault in every member (R423, R499). -/
def execTrap (c : Nat) (s : State) : Result :=
  .next (gated (.trap c) 0 legal noCheck (fun s k => faultAll s k (iword (.trap c)) 0x090) s)
def execBrk (s : State) : Result := .next (gated .brk 0 legal noCheck (fun s k => faultAll s k (iword .brk) 0x0A0) s)

/-- Return address of a handler member (R286). -/
def returnAddress (t : Thread) (skip : Bool) : Nat :=
  if skip then (t.trpc + BitVec.ofNat 64 (if t.len8 then 8 else 4)).toNat else t.trpc.toNat

/-- ERET (R286, R422): RETURN FROM AN EXCEPTION. -/
def eretStep (i : Instr) (skip : Bool) (s : State) (k : Nat) : State :=
  let c := s.convoy k
  let fault (t : Nat) : Option MFault :=
    let th := s.thread t
    if !th.inTrap then some { key := t, cause := 0x003 }
    else (targetFault (returnAddress th skip)).map fun cause => { key := t, cause, addr := returnAddress th skip }
  let fs := c.keys.filterMap fault
  let back := c.keys.filter fun t => (fault t).isNone
  let s1 := (chargeGroup s k).setThreads back fun t => { s.thread t with inTrap := false }
  match spillAll s1 c.crew c.core c.quad false (back.map fun t => (t, returnAddress (s.thread t) skip)) with
  | none => holdAt s k (.on i)
  | some s2 =>
    let s3 := trapEntry s2 k (iword i) c.pc fs
    match (s3.convoy k).hold with
    | .trapSpill _ _ => dropMembers s3 k back
    | _ => if (s3.convoy k).members.isEmpty then s3 else dropMembers s3 k c.keys

def execEret (x : Nat) (s : State) : Result :=
  .next (gated (.eret x) 0 legal noCheck (fun s k => eretStep (.eret x) (x == 1) s k) s)

def execNop (s : State) : Result := .next (groupOp .nop legal noCheck (fun s _ => s) s)

/-- YIELD (R503): the convoy becomes the youngest of its quad and does not issue again in this cycle. -/
def execYield (s : State) : Result :=
  .next (groupOp .yield legal noCheck (fun s k =>
    let c := s.convoy k
    s.setConvoy k { c with age := (s.cycle c.core : Int), notBefore := s.cycle c.core + 1 }) s)

end Sys2Proof.Machine
end

