-- ==== Sys2Proof/Machine/Sync.lean ====
section
/-! DEFINITION. Barriers, cohort sync, milestones, waits, fences, the signpost, handoff queues, token holdings
(02 R70-R79, 07 R196-R209, 08 R232-R233, 15 R403-R409, 16 R440-R459, 17 R493-R502). A convoy whose condition holds completes at
once; else it is held (`Hold.on`) and its event evaluates the condition again. -/

namespace Sys2Proof.Machine

/-! ### Barriers -/

def Crew.bar (c : Crew) (n : Nat) : Barrier := Tab.get {} c.bars n
def State.setBar (s : State) (crew n : Nat) (b : Barrier) : State :=
  let c := s.crew crew
  s.setCrew crew { c with bars := Tab.set {} n b c.bars }

/-- The phase completes (R404). -/
def Barrier.completes (b : Barrier) : Bool := b.armed && b.arrived == b.expect && b.tx == 0 && !b.ovf

/-- Convoys held in a BARW of a barrier of the crew. -/
def barwHeld (s : State) (crew n : Nat) : List Nat :=
  (s.convoys.filter fun p => p.2.crew == crew && (match p.2.hold with | .on (.barw m _) => m == n | _ => false)).map (·.1)

/-- One update of a barrier, then the completion rule; held BARWs are released by any completion (R404, R408). -/
def barUpdate (s : State) (crew n : Nat) (b : Barrier) : State :=
  if b.completes then
    let held := barwHeld s crew n
    let s1 := s.setBar crew n { b with phase := !b.phase, arrived := 0 }
    let s2 := held.foldl (fun x k =>
      let c := x.convoy k
      match c.hold with | .on i => x.setConvoy k { c with hold := .barwDone i } | _ => x) s1
    s2.post (held.map Instr.barwRelease)
  else s.setBar crew n b

/-- A completion by an engine reaches its barrier after the instructions of its core cycle (R404). -/
def barLater (s : State) (crew n bytes : Nat) : State := { s with barBytes := s.barBytes ++ [(crew, n, bytes)] }

/-- A completion by an engine takes bytes off TXBYTES; it never faults (R404). -/
def barComplete (s : State) (crew n bytes : Nat) : State :=
  let b := (s.crew crew).bar n
  if b.ovf || (s.crew crew).phase == .none || (s.crew crew).phase == .ended then s
  else if b.tx - bytes < -2147483648 then s.setBar crew n { b with tx := -2147483648, ovf := true }
  else barUpdate s crew n { b with tx := b.tx - bytes }

/-- Barrier numbers outside the crew's range are reserved for it (R89). -/
def barIllegal (n : Nat) (s : State) (k : Nat) : Bool := !((s.crewOf k).bars? n)

/-- Scope of a crew's barriers (R205). -/
def Crew.barScope (c : Crew) : Nat := if c.cluster then 1 else 0

def inInt32 (x : Int) : Bool := decide (-2147483648 ≤ x ∧ x ≤ 2147483647)

def execBari (n a c : Nat) (s : State) : Result :=
  .next (gated (.bari n a c) 0 (barIllegal n) noCheck (fun s k =>
    let crew := (s.convoy k).crew
    let b := (s.crew crew).bar n
    let e := (s.g k a).toNat
    let x := (s.g k c).toInt
    if b.ovf then faultAll (s.setBar crew n { b with armed := false, arrived := 0, tx := 0, ovf := false }) k (iword (.bari n a c)) 0x051
    else if e < 1 ∨ 4096 < e ∨ inInt32 x = false ∨ (b.armed ∧ (b.arrived ≠ 0 ∨ b.tx ≠ 0)) then faultAll s k (iword (.bari n a c)) 0x051
    else advance (barUpdate (chargeGroup s k) crew n { b with expect := e, tx := x, arrived := 0, armed := true }) k (.bari n a c)) s)

/-- BARA after its release (R406). -/
def baraStep (i : Instr) (n : Nat) (s : State) (k : Nat) : State :=
  let c := s.convoy k
  let cr := s.crew c.crew
  if released s k c.keys cr.barScope true true false false then
    let b := cr.bar n
    if b.ovf || !b.armed || decide (b.expect < b.arrived + c.members.length) then faultAll (holdAt s k .none) k (iword i) 0x051
    else advance (barUpdate (chargeGroup s k) c.crew n { b with arrived := b.arrived + c.members.length }) k i
  else holdSince s k (.on i)

def execBara (n : Nat) (s : State) : Result :=
  .next (gated (.bara n) 0 (barIllegal n) noCheck (fun s k => baraStep (.bara n) n s k) s)
def execBaraArrive (k : Nat) (s : State) : Result :=
  .next (match (s.convoy k).hold with | .on (.bara n) => baraStep (.bara n) n s k | _ => s)

/-- BARW (R408): PHASE differs, or a phase completed while held; then the acquire of R205. -/
def barwStep (i : Instr) (n a : Nat) (done : Bool) (s : State) (k : Nat) : State :=
  let c := s.convoy k
  let cr := s.crew c.crew
  let ok := done || (cr.bar n).phase != (s.g k a).getLsbD 0
  if ok && countersZero s c.keys true true false false then
    advance (acquireL1 (chargeGroup s k) c.core cr.barScope) k i
  else holdAt s k (if done then .barwDone i else .on i)

def execBarw (n a : Nat) (s : State) : Result :=
  .next (gated (.barw n a) 0 (barIllegal n) noCheck (fun s k => barwStep (.barw n a) n a false s k) s)
def execBarwRelease (k : Nat) (s : State) : Result :=
  .next (match (s.convoy k).hold with
    | .on (.barw n a) => barwStep (.barw n a) n a false s k
    | .barwDone (.barw n a) => barwStep (.barw n a) n a true s k
    | _ => s)

/-- BART (R407). -/
def execBart (n a : Nat) (s : State) : Result :=
  .next (gated (.bart n a) 0 (barIllegal n) noCheck (fun s k =>
    let crew := (s.convoy k).crew
    let b := (s.crew crew).bar n
    let x := (s.g k a).toInt
    if b.ovf || !b.armed || !inInt32 x || !inInt32 (b.tx + x) then faultAll s k (iword (.bart n a)) 0x051
    else advance (barUpdate (chargeGroup s k) crew n { b with tx := b.tx + x }) k (.bart n a)) s)

/-! ### Cohort sync -/

/-- A lane of a cohort is empty: no living thread there (R36). -/
def laneEmpty (s : State) (crew cohort lane : Nat) : Bool :=
  !(s.threads.any fun p => p.2.crew == crew && p.2.cohort == cohort && p.2.state != .free && tkeyLane p.1 == lane)

def Crew.sync (c : Crew) (n : Nat) : SyncRec := Tab.get {} c.syncs n
def State.setSync (s : State) (crew n : Nat) (r : SyncRec) : State :=
  let c := s.crew crew
  s.setCrew crew { c with syncs := Tab.set {} n r c.syncs }

/-- Thread keys in ascending lane order. -/
def byLane (l : List Nat) : List Nat := (List.range 32).flatMap fun n => l.filter fun t => tkeyLane t == n

/-- Every named lane of an open episode has arrived or is empty in the cohort. -/
def syncMet (s : State) (crew cohort : Nat) : Bool :=
  let r := (s.crew crew).sync cohort
  !r.parked.isEmpty && (List.range 32).all fun n => !r.mask.testBit n || r.arrived.contains n || laneEmpty s crew cohort n

/-- End of an episode whose condition is met: the parked threads are spilled (R71); it stays open while the spills do not fit. -/
def syncCheck (s : State) (crew cohort : Nat) : State :=
  let r := (s.crew crew).sync cohort
  if syncMet s crew cohort then
    match r.parked with
    | [] => s
    | t :: _ =>
      match spillAll s crew (tkeyCore t) (tkeyQuad t) false ((byLane r.parked).map fun p => (p, r.addr)) with
      | some s1 => s1.setSync crew cohort {}
      | none => s
  else s

/-- One member of SYNCM (R71): it parks, or faults. Where the members of one episode arrive at SYNCMs of different addresses and a later
exit completes it (R72), the parked threads go on after the last arriver's SYNCM (log 62: the spec names one address only). -/
def syncMember (crew addr mask : Nat) (a : State × List MFault) (t : Nat) : State × List MFault :=
  let s := a.1
  let th := s.thread t
  let r := (s.crew crew).sync th.cohort
  let lane := tkeyLane t
  if !mask.testBit lane || (!r.parked.isEmpty && mask != r.mask) then (s, a.2 ++ [{ key := t, cause := 0x050 }])
  else
    let r' : SyncRec := { mask, addr, arrived := (if r.parked.isEmpty then [] else r.arrived) ++ [lane], parked := r.parked ++ [t] }
    let s1 := (s.setThread t { th with state := .parked }).setSync crew th.cohort r'
    (syncCheck s1 crew th.cohort, a.2)

def execSyncm (a : Nat) (s : State) : Result :=
  .next (gated (.syncm a) 0 legal noCheck (fun s k =>
    let c := s.convoy k
    let mask := (s.g k a).toNat % 2^32
    let r := c.keys.foldl (syncMember c.crew (c.pc + 4) mask) (chargeGroup s k, [])
    let parked := c.keys.filter fun t => !(r.2.any fun f => f.key == t)
    trapEntry (dropMembers (advance r.1 k (.syncm a)) k parked) k (iword (.syncm a)) c.pc r.2) s)

/-! ### Milestones -/

/-- MLPASS (R457): release at device scope, then the pass is sent. -/
def execMlpass (a m : Nat) (s : State) : Result :=
  .next (gated (.mlpass a m) 0 legal noCheck (fun s k =>
    let c := s.convoy k
    if released s k c.keys 3 true true false false then
      let rk := (s.crew c.crew).run
      let r := s.run rk
      advance (((chargeGroup s k).setRun rk { r with passes := r.passes ++ [(m, s.g k a)] }).post [.mlpassRecord rk]) k (.mlpass a m)
    else holdSince s k (.on (.mlpass a m))) s)

/-- Convoys held in an MLWAIT of a run. -/
def mlwaitHeld (s : State) (run : Nat) : List Nat :=
  (s.convoys.filter fun p => (s.crew p.2.crew).run == run && (match p.2.hold with | .on (.mlwait _ _) => true | _ => false)).map (·.1)

/-- MLPASS_RECORD: the signpost unit records the oldest pass of a run: M[m] ← max (R457). -/
def execMlpassRecord (run : Nat) (s : State) : Result :=
  .next (let r := s.run run
    match r.passes with
    | [] => s
    | (m, x) :: rest =>
      let old := Tab.get 0 r.miles m
      let s1 := s.setRun run { r with passes := rest, miles := Tab.set 0 m (if old.ult x then x else old) r.miles }
      s1.post ((mlwaitHeld s1 run).map Instr.mlwaitRelease))

/-- MLWAIT (R458): M[m] ≥ gA unsigned, then an acquire at device scope. -/
def mlwaitStep (i : Instr) (a m : Nat) (s : State) (k : Nat) : State :=
  let c := s.convoy k
  let x := Tab.get 0 (s.crewRun c.crew).miles m
  if !(x.ult (s.g k a)) && countersZero s c.keys true true false false then
    advance (acquireL1 (chargeGroup s k) c.core 3) k i
  else holdAt s k (.on i)

def execMlwait (a m : Nat) (s : State) : Result :=
  .next (gated (.mlwait a m) 0 legal noCheck (fun s k => mlwaitStep (.mlwait a m) a m s k) s)
def execMlwaitRelease (k : Nat) (s : State) : Result :=
  .next (match (s.convoy k).hold with | .on (.mlwait a m) => mlwaitStep (.mlwait a m) a m s k | _ => s)

/-! ### WAIT and the fences -/

/-- WAIT (R196). -/
def waitStep (i : Instr) (l st c t : Nat) (s : State) (k : Nat) : State :=
  if (s.convoy k).keys.all fun x => let th := s.thread x
      decide (th.ocl ≤ l) && decide (th.ocs ≤ st) && decide (th.occ ≤ c) && decide (th.oct ≤ t)
  then advance (chargeGroup s k) k i
  else holdAt s k (.on i)

def execWait (l st c t : Nat) (s : State) : Result :=
  .next (gated (.wait l st c t) 0 legal noCheck (fun s k => waitStep (.wait l st c t) l st c t s k) s)
def execWaitRelease (k : Nat) (s : State) : Result :=
  .next (match (s.convoy k).hold with | .on (.wait l st c t) => waitStep (.wait l st c t) l st c t s k | _ => s)

/-- FENCE (R200): `kinds` bits 0 loads, 1 stores, 2 copies, 3 tile operations; `dir` 1 acquire, 2 release, 3 both. -/
def fenceStep (i : Instr) (sc kinds dir : Nat) (s : State) (k : Nat) : State :=
  let c := s.convoy k
  let n (b : Nat) : Bool := kinds.testBit b
  let ok := if 2 ≤ dir then released s k c.keys sc (n 0) (n 1) (n 2) (n 3) else countersZero s c.keys (n 0) (n 1) (n 2) (n 3)
  if ok then
    let s1 := chargeGroup s k
    advance (if dir = 2 then s1 else acquireL1 s1 c.core sc) k i
  else holdSince s k (.on i)

def execFence (sc kinds dir : Nat) (s : State) : Result :=
  .next (gated (.fence sc kinds dir) 0 legal noCheck (fun s k => fenceStep (.fence sc kinds dir) sc kinds dir s k) s)
def execFenceComplete (k : Nat) (s : State) : Result :=
  .next (match (s.convoy k).hold with | .on (.fence sc kinds dir) => fenceStep (.fence sc kinds dir) sc kinds dir s k | _ => s)

/-- Core `b` lies within scope `sc` of core `a` (R190): a die holds 64 clusters. -/
def coreInScope (sc a b : Nat) : Bool :=
  match sc with
  | 0 => a == b
  | 1 => a / 2 == b / 2
  | 2 => a / 128 == b / 128
  | _ => true

/-- Walks of the context that wait start again, at the walkers within the scope. -/
def State.dropWalks (s : State) (sc core ctx : Nat) : State :=
  { s with islands := s.islands.map fun p =>
      if coreInScope (max sc 1) core (2 * p.1) then (p.1, { p.2 with walks := p.2.walks.filter fun w => w.ctx != ctx }) else p }

/-- TLB entries of the context leave every TLB within the scope (06 R174); core scope reaches the core's own TLB only. -/
def dropTlb (s : State) (sc core ctx : Nat) : State :=
  State.dropWalks { s with
    cores := s.cores.map fun p =>
      if coreInScope sc core p.1 then
        (p.1, { p.2 with tlb := p.2.tlb.filter fun e => e.ctx != ctx,
                         sideLog := p.2.sideLog.map fun e => if e.ctx == ctx then { e with pa := none } else e })
      else p,
    islands := s.islands.map fun p =>
      if sc != 0 && coreInScope sc core (2 * p.1) then (p.1, { p.2 with tlb := p.2.tlb.filter fun e => e.ctx != ctx })
      else p } sc core ctx

/-- Accesses of the context that were translated before key `n` was given out and are not yet performed, within the scope. What waits for
a page's resume has no translation. -/
def inFlight (s : State) (sc core ctx n : Nat) : Bool :=
  (s.flight.reqs.any fun r => r.ctx == ctx && decide (r.id ≤ n) && coreInScope sc core r.core)
    || (s.flight.stores.any fun x => x.ctx == ctx && !x.stage && decide (x.born ≤ n) && coreInScope sc core x.core)
    || (s.flight.atoms.any fun x => x.ctx == ctx && !x.stage && !x.parts.isEmpty && decide (x.id ≤ n) && coreInScope sc core x.core)

/-- TFENCE (R174): wait for the stores, invalidate, wait for the accesses translated before. -/
def tfenceStep (i : Instr) (sc : Nat) (sent : Bool) (s : State) (k : Nat) : State :=
  let c := s.convoy k
  let ctx := (s.crew c.crew).ctx
  if sent || countersZero s c.keys false true false false then
    let s1 := if sent then s else dropTlb s sc c.core ctx
    if inFlight s1 sc c.core ctx (c.began s) then holdSince s1 k (.sent i) else advance (chargeGroup s1 k) k i
  else holdAt s k (.on i)

def execTfence (sc : Nat) (s : State) : Result :=
  .next (gated (.tfence sc) 0 legal noCheck (fun s k => tfenceStep (.tfence sc) sc false s k) s)
def execTfenceComplete (k : Nat) (s : State) : Result :=
  .next (match (s.convoy k).hold with
    | .on (.tfence sc) => tfenceStep (.tfence sc) sc false s k
    | .sent (.tfence sc) => tfenceStep (.tfence sc) sc true s k
    | _ => s)

/-! ### The signpost -/

/-- Coord(i) of R77. -/
def signCoord (r : Run) (i : Nat) : Nat × Nat :=
  if r.serp then
    let b := i / (r.band * r.spx)
    let h := min r.band (r.spy - r.band * b)
    let j := i - b * r.band * r.spx
    let col := j / h
    (if b % 2 = 0 then col else r.spx - 1 - col, b * r.band + j % h)
  else (i % r.spx, i / r.spx)

/-- TAKE (R78, R494): the convoy is held until the signpost returns the coordinate. -/
def execTake (d : Nat) (s : State) : Result :=
  .next (gated (.take d) 0 legal noCheck (fun s k => (holdAt (chargeGroup s k) k (.on (.take d))).post [.takeReturn k]) s)

/-- TAKE_RETURN: the signpost hands out the run's next index, or all ones after the last. -/
def execTakeReturn (k : Nat) (s : State) : Result :=
  .next (match (s.convoy k).hold with
    | .on (.take d) =>
      let rk := (s.crew (s.convoy k).crew).run
      let r := s.run rk
      if r.next < r.spx * r.spy then
        let p := signCoord r r.next
        advance ((s.setRun rk { r with next := r.next + 1 }).setG k d (BitVec.ofNat 64 (p.2 * 2^32 + p.1))) k (.take d)
      else advance (s.setG k d (BitVec.allOnes 64)) k (.take d)
    | _ => s)

/-! ### Handoff queues -/

def Crew.queue (c : Crew) (n : Nat) : Handoff := Tab.get {} c.hq n
def State.setHandoff (s : State) (crew n : Nat) (q : Handoff) : State :=
  let c := s.crew crew
  s.setCrew crew { c with hq := Tab.set {} n q c.hq }

/-- Place of entry j of queue n in the stage table (R73). -/
def handoffPlace (c : Crew) (n j : Nat) : Nat := c.stage0 + footWindow c.foot - 4096 + 512 * n + 8 * (j % 64)

/-- HPUT (R75): it reaches the queue once its release is done (R205); held convoys go first, in the order in which they reached the
queue (R441). -/
def hputStep (i : Instr) (a n : Nat) (s : State) (k : Nat) : State :=
  let crew := (s.convoy k).crew
  let cr := s.crew crew
  let q := cr.queue n
  let mine := q.waitPut.head? == some k
  if !countersZero s (s.convoy k).keys true true false false then holdAt s k (.on i)
  else if q.count < 64 ∧ (q.waitPut.isEmpty ∨ mine) then
    let s1 := { s with stage := Tab.setRun 0 (handoffPlace cr n (q.head + q.count)) (leBytes (s.g k a).toNat 8) s.stage }
    let s2 := s1.setHandoff crew n { q with count := q.count + 1, waitPut := if mine then q.waitPut.tail else q.waitPut }
    let s3 := match q.waitGet with | w :: _ => s2.post [.hgetPerform w] | [] => s2
    let s4 := match (if mine then q.waitPut.tail else []) with | w :: _ => s3.post [.hputPerform w] | [] => s3
    advance (chargeIssue (chargeGroup s4 k) k s4.weights.stage) k i
  else
    holdAt (s.setHandoff crew n { q with waitPut := if q.waitPut.contains k then q.waitPut else q.waitPut ++ [k] }) k (.on i)

def execHput (a n : Nat) (s : State) : Result :=
  .next (gated (.hput a n) 0 legal noCheck (fun s k => hputStep (.hput a n) a n s k) s)
def execHputPerform (k : Nat) (s : State) : Result :=
  .next (match (s.convoy k).hold with | .on (.hput a n) => hputStep (.hput a n) a n s k | _ => s)

/-- HGET (R75), after its acquire's wait (R205). -/
def hgetStep (i : Instr) (d n : Nat) (s : State) (k : Nat) : State :=
  let crew := (s.convoy k).crew
  let cr := s.crew crew
  let q := cr.queue n
  let mine := q.waitGet.head? == some k
  if !countersZero s (s.convoy k).keys true true false false then holdAt s k (.on i)
  else if 0 < q.count ∧ (q.waitGet.isEmpty ∨ mine) then
    let x := leNat (Tab.getRun 0 s.stage (handoffPlace cr n q.head) 8)
    let s2 := s.setHandoff crew n { q with head := (q.head + 1) % 64, count := q.count - 1,
                                            waitGet := if mine then q.waitGet.tail else q.waitGet }
    let s3 := match q.waitPut with | w :: _ => s2.post [.hputPerform w] | [] => s2
    let s4 := match (if mine then q.waitGet.tail else []) with | w :: _ => s3.post [.hgetPerform w] | [] => s3
    advance ((chargeIssue (chargeGroup s4 k) k s4.weights.stage).setG k d (BitVec.ofNat 64 x)) k i
  else
    holdAt (s.setHandoff crew n { q with waitGet := if q.waitGet.contains k then q.waitGet else q.waitGet ++ [k] }) k (.on i)

def execHget (d n : Nat) (s : State) : Result :=
  .next (gated (.hget d n) 0 legal noCheck (fun s k => hgetStep (.hget d n) d n s k) s)
def execHgetPerform (k : Nat) (s : State) : Result :=
  .next (match (s.convoy k).hold with | .on (.hget d n) => hgetStep (.hget d n) d n s k | _ => s)

/-! ### Token holdings -/

/-- Total of the holdings of the ring's other convoys. -/
def otherHoldings (s : State) (island k : Nat) : Nat :=
  s.convoys.foldl (fun a p => if p.1 != k && p.2.core / 2 == island then a + heldBy s p.1 else a) 0

/-- Grant of R232. -/
def grantOf (s : State) (k n : Nat) : Nat :=
  let isl := (s.convoy k).core / 2
  min n ((s.island isl).pool / 2 - otherHoldings s isl k)

/-- TCLAIM when the holding covers the grant: its free tokens above it go by Return; those in windows count until their return. The holding
is taken anew where its size changes (R220). -/
def claimShrink (s : State) (k g : Nat) : State :=
  let c := s.convoy k
  let isl := c.core / 2
  let excess := c.free - g
  let s1 := s.setIsland isl (returnTokens (s.island isl) (quadStop c.core c.quad) excess 0).1
  s1.setConvoy k { c with tolls := g, free := c.free - excess, youth := if c.tolls = g then c.youth else s.cycle c.core }

/-- TCLAIM (R232): completes at once where the holding covers the grant, else its shortfall is a demand at the quad's stop. -/
def tclaimStep (i : Instr) (n : Nat) (s : State) (k : Nat) : State :=
  let g := grantOf s k n
  if g ≤ heldBy s k then advance (claimShrink s k g) k i
  else holdAt s k (.on i)

def execTclaim (n : Nat) (s : State) : Result :=
  .next (gated (.tclaim n) 0 legal noCheck (fun s k => tclaimStep (.tclaim n) n (chargeGroup s k) k) s)

/-- TFREE (R233). -/
def execTfree (s : State) : Result := .next (groupOp .tfree legal noCheck (fun s k => giveUpHolding s k) s)

end Sys2Proof.Machine
end

