-- ==== Sys2Proof/Machine/Matrix.lean ====
section
/-! DEFINITION. The matrix engine: signing, reservations, the matrix queue, its starts and completions (05, 16 R460-R468, 17 R479, R498-R500). -/

namespace Sys2Proof.Machine

/-- K of a width, and the 64-bit words of a row of A or a column of B (R125, R126). -/
def matK (w : Nat) : Nat := match w with | 4 => 64 | 6 => 64 | 8 => 32 | 16 => 16 | _ => 8
def matNW (w : Nat) : Nat := if w = 6 then 7 else 4
def matToll (w : Nat) : Nat := match w with | 4 => 24 | 6 => 24 | 8 => 20 | 16 => 16 | _ => 12
def Weights.ofMma (c : Weights) (w : Nat) : Nat := match w with | 16 => c.mma16 | 32 => c.mma32 | _ => c.mma
def matWidth (w : Nat) : Bool := [4, 6, 8, 16, 32].contains w
def matBusy (w : Nat) : Nat := if w = 32 then 128 else 64

def wordWidth (w : Word) : Nat := (Fmt.ofWord w).width

def Crew.latch (c : Crew) (n : Nat) : ALatch := Tab.get {} c.latches n
def State.setLatch (s : State) (crew n : Nat) (l : ALatch) : State :=
  let c := s.crew crew
  s.setCrew crew { c with latches := Tab.set {} n l c.latches }

/-! ### MSIGN -/

/-- The latch after the rows and scales of one signer (R130). -/
def signRows (l : ALatch) (t : Thread) (lane v n wd : Nat) (scaled : Bool) : ALatch :=
  let nw := matNW wd
  let rows := (List.range (4 * nw)).foldl
    (fun a i => Tab.set 0 (8 * (4 * lane + i / nw) + i % nw) (t.reg (v + i)) a) l.rows
  let nb := matK wd / 8
  let scales := if scaled then (List.range (4 * nb)).foldl
    (fun a i => Tab.set 0 (8 * (4 * lane + i / nb) + i % nb) (BitVec.ofNat 8 (elem (t.reg (v + n + i / 8)) 8 (i % 8))) a) l.scales
    else l.scales
  { l with rows, scales }

/-- One member of MSIGN (R130): its deposit, or its fault. -/
def signMember (crew v w n f : Nat) (sc : Bool) (a : State × List MFault) (t : Nat) : State × List MFault :=
  let s := a.1
  let cr := s.crew crew
  let th := s.thread t
  let lane := tkeyLane t
  let l := cr.latch w
  let decl := Tab.get 0 cr.w w
  let e := Tab.get 0 cr.f f
  let se := if sc then Tab.get 0 cr.f (f + 1) else 0
  let wd := wordWidth e
  if !(Fmt.ofWord e).v || (sc && !(Fmt.ofWord se).v) then (s, a.2 ++ [{ key := t, cause := 0x030 }])
  else if field decl.toNat 0 32 != 0xFFFFFFFF || th.cohort != field decl.toNat 32 7 || !matWidth wd || n != 4 * matNW wd
      || (sc && (decide (8 < wd) || wordWidth se != 8)) || l.state == .complete || l.signed.contains lane
      || (l.state == .filling && (l.fmt != e || l.scaled != sc || l.regs != n || (sc && l.sfmt != se))) then
    (s, a.2 ++ [{ key := t, cause := 0x071 }])
  else
    let l0 := if l.state == .empty then { l with fmt := e, sfmt := se, scaled := sc, regs := n } else l
    let l1 := signRows l0 th lane v n wd sc
    let signed := l1.signed ++ [lane]
    (s.setLatch crew w { l1 with signed, state := if signed.length = 32 then .complete else .filling }, a.2)

/-- MSIGN: the field n holds the count − 1 (R129); charged 16 + 4 per member (R144). -/
def execMsign (v w n f sc : Nat) (s : State) : Result :=
  .next (gated (.msign v w n f sc) 0 legal noCheck (fun s k =>
    let c := s.convoy k
    let r := c.keys.foldl (signMember c.crew v w (n + 1) f (sc == 1)) (chargeIssue s k (s.weights.msign + s.weights.msignPer * c.members.length), [])
    finish r.1 k (.msign v w n f sc) r.2) s)

/-! ### Reservations -/

/-- The live reservation of the crew on a core whose FIRST is unit u. -/
def Crew.resv? (c : Crew) (core u : Nat) : Option Resv := c.resvs.find? fun r => r.core == core && r.first == u

/-- Unit u lies in a live reservation of the crew on the core. -/
def Crew.unitTaken (c : Crew) (core u : Nat) : Bool :=
  c.resvs.any fun r => r.core == core && decide (r.first ≤ u) && decide (u < r.first + r.count)

/-- A group instruction that is charged by the row of R144 for RESV and RELS. -/
def unitOp (i : Instr) (illegal : State → Nat → Bool) (check : State → Nat → Option Nat) (body : State → Nat → State) (s : State) : State :=
  gated i 0 illegal check (fun s k => advance (body (chargeIssue s k s.weights.unit) k) k i) s

/-- Block length of the field BL (R132). -/
def blockLen (bl : Nat) : Nat := match bl with | 1 => 8 | 2 => 16 | 3 => 32 | _ => 0

/-- R133: FORMAT_EMPTY, then OB_RESERVATION. `c` is the field C − 1, `soff` the field soff ÷ 128. -/
def resvCheck (u c sf n bl soff : Nat) (s : State) (k : Nat) : Option Nat :=
  let cr := s.crewOf k
  let core := (s.convoy k).core
  let fn := cr.fmt n
  let fs := cr.fmt sf
  let l := blockLen bl
  if !fn.v || (bl != 0 && !fs.v) then some 0x030
  else
    let kk := matK fn.width
    let size := (c + 1) * 4096
    let data := 1024 * matNW fn.width
    let bad := ((List.range (c + 1)).any fun i => cr.unitTaken core (u + i)) || !matWidth fn.width
      || (bl != 0 && (kk % l != 0 || fs.width != 8)) || decide (size < data)
      || (bl != 0 && (decide (soff * 128 < data) || decide (size < soff * 128 + 128 * kk / l)))
    if bad then some 0x070 else none

def execResv (u c b bs sf n bl soff : Nat) (s : State) : Result :=
  .next (unitOp (.resv u c b bs sf n bl soff) (fun s k => decide ((s.crewOf k).units < u + c + 1)) (resvCheck u c sf n bl soff)
    (fun s k =>
      let key := (s.convoy k).crew
      let cr := s.crew key
      let g := (s.g k b).toNat
      let r : Resv :=
        { core := (s.convoy k).core, first := u, count := c + 1, fmt := Tab.get 0 cr.f n,
          sfmt := if bl = 0 then 0 else Tab.get 0 cr.f sf, blk := blockLen bl, soff := soff * 128,
          band0 := if bs = 1 then BitVec.ofNat 16 g else 0x3F80, band1 := if bs = 1 then BitVec.ofNat 16 (g / 2^16) else 0x3F80 }
      s.setCrew key { cr with resvs := cr.resvs ++ [r] }) s)

def execRelsUnit (u : Nat) (s : State) : Result :=
  .next (unitOp (.relsUnit u) (fun s k => decide ((s.crewOf k).units ≤ u))
    (fun s k => if ((s.crewOf k).resv? (s.convoy k).core u).isNone then some 0x070 else none)
    (fun s k =>
      let key := (s.convoy k).crew
      let core := (s.convoy k).core
      let cr := s.crew key
      s.setCrew key { cr with resvs := cr.resvs.filter fun r => !(r.core == core && r.first == u) }) s)

def execRelsWaypoint (n : Nat) (s : State) : Result :=
  .next (unitOp (.relsWaypoint n) legal noCheck (fun s k => s.setLatch (s.convoy k).crew n {}) s)

/-! ### Placing queue entries -/

def whoOf (s : State) (t : Nat) : Who := { key := t, gen := (s.thread t).gen }
/-- The thread is still the one that issued (16 R462). -/
def alive (s : State) (w : Who) : Bool := (s.thread w.key).gen == w.gen && (s.thread w.key).state != .free

/-- Room for one more entry in a core's matrix queue (R141): an entry that has started keeps its place until it is complete.
DESIGN CHOICE (log 84): the spec does not say when a place is free again. -/
def mqRoom (s : State) (core : Nat) : Bool := decide ((s.core core).mq.length < 16)

def pushM (s : State) (core : Nat) (e : MEntry) : State :=
  let c := s.core core
  s.setCore core { c with mq := c.mq ++ [e] }

/-- A tile operation counts in OCT of the members `ks` (07 R195). -/
def countOct (s : State) (ks : List Nat) : State := s.setThreads ks fun t => { s.thread t with oct := (s.thread t).oct + 1 }

/-- An accumulator is in use once an instruction of the crew has written it (R127): from the entry's effect on. -/
def markAcc (s : State) (crew core acc : Nat) : State :=
  let c := s.crew crew
  if c.accUsed.contains (8 * core + acc) then s else s.setCrew crew { c with accUsed := insertSorted (8 * core + acc) c.accUsed }

/-- Range checks of R127 and R89 for a matrix instruction. -/
def mmaIllegal (d u cmp bar : Nat) (cluster : Bool) (s : State) (k : Nat) : Bool :=
  let cr := s.crewOf k
  decide (cr.accs ≤ d) || decide (cr.units ≤ u) || (cmp == 1 && !cr.bars? bar) || (cluster && !cr.cluster)

/-- Checks 2 to 6 of R137 for the named waypoints. -/
def mmaCheck (wps : List Nat) (u rf : Nat) (joint : Bool) (s : State) (k : Nat) : Option Nat :=
  let cr := s.crewOf k
  let core := (s.convoy k).core
  if joint && !(s.ctx cr.ctx).joint then some 0x003
  else if 6 ≤ cr.mode rf then some 0x031
  else match cr.resv? core u with
    | none => some 0x070
    | some r =>
      if wps.any fun w => (cr.latch w).state == .complete && wordWidth (cr.latch w).fmt != wordWidth r.fmt then some 0x070
      else if wps.any fun w => (cr.latch w).state != .complete then some 0x071
      else if (s.island (core / 2)).pool < matToll (wordWidth r.fmt) then some 0x040
      else none

/-- The entry of one engine, with everything latched at issue (R137). -/
def mmaEntry (s : State) (k : Nat) (kind : MKind) (d w u rf cmp bar : Nat) (bands : Option Word) (joint : Nat) : MEntry :=
  let c := s.convoy k
  let cr := s.crew c.crew
  { kind, seq := s.key, ctx := cr.ctx, crew := c.crew, members := c.keys.map (whoOf s), acc := cr.acc0 + d, latch := cr.latch w,
    resv := (cr.resv? c.core u).getD {}, bands, rmode := cr.mode rf, sat := cr.sat rf, cmp := cmp == 1, bar, joint }

/-- The latch becomes EMPTY without .K (R131). -/
def releaseLatch (s : State) (crew w keep : Nat) : State := if keep = 1 then s else s.setLatch crew w {}

/-- Passed over while a queue is full or a member's OCT is 15 (R137): nothing happens. -/
def octRoom (s : State) (k : Nat) : Bool := (s.convoy k).keys.all fun t => decide ((s.thread t).oct < 15)

def execMma (d a b ba keep u cmp bar rf : Nat) (s : State) : Result :=
  let i := Instr.mma d a b ba keep u cmp bar rf
  .next (gated i 0 (mmaIllegal d u cmp bar false) (mmaCheck [a] u rf false) (fun s k =>
    let c := s.convoy k
    if !(mqRoom s c.core && octRoom s k) then s
    else
      let bands := if ba = 1 then some ((s.g k b).setWidth 32 : Word) else none
      let e := mmaEntry s k .mma d a u rf cmp bar bands 0
      let s1 := countOct (pushM (chargeIssue s k s.weights.mmaIssue) c.core e) c.keys
      advance (releaseLatch s1 c.crew a keep).bump k i) s)

/-- MMAB (R139): one entry on each core of the cluster, the odd core's with waypoint A + 1 and gB[63:32]. -/
def execMmab (d a b ba keep u cmp bar rf : Nat) (s : State) : Result :=
  let i := Instr.mmab d a b ba keep u cmp bar rf
  .next (gated i 0 (mmaIllegal d u cmp bar true) (mmaCheck [a, a + 1] u rf false) (fun s k =>
    let c := s.convoy k
    let e0 := 2 * (c.core / 2)
    if !(mqRoom s e0 && mqRoom s (e0 + 1) && octRoom s k) then s
    else
      let g := s.g k b
      let band (hi : Bool) : Option Word := if ba = 1 then some (if hi then ((g >>> 32).setWidth 32 : Word) else g.setWidth 32) else none
      let x := mmaEntry s k .mmab d a u rf cmp bar (band false) 0
      let y := mmaEntry s k .mmab d (a + 1) u rf cmp bar (band true) 0
      let s1 := pushM (pushM (chargeIssue s k s.weights.mmaIssue) e0 x) (e0 + 1) y
      let s2 := countOct s1 c.keys
      advance (releaseLatch (releaseLatch s2 c.crew a keep) c.crew (a + 1) keep).bump k i) s)

/-- MMAJ (R140): an entry on each core of the crew's cluster, of joint operation j. -/
def execMmaj (d a b ba keep u cmp bar rf : Nat) (s : State) : Result :=
  let i := Instr.mmaj d a b ba keep u cmp bar rf
  .next (gated i 0 (mmaIllegal d u cmp bar true) (mmaCheck [a] u rf true) (fun s k =>
    let c := s.convoy k
    let e0 := 2 * (c.core / 2)
    if !(mqRoom s e0 && mqRoom s (e0 + 1) && octRoom s k) then s
    else
      let cr := s.crew c.crew
      let bands := if ba = 1 then some ((s.g k b).setWidth 32 : Word) else none
      let x := mmaEntry s k .mmaj d a u rf cmp bar bands (cr.mmajs + 1)
      let s1 := pushM (pushM (chargeIssue s k s.weights.mmaIssue) e0 x) (e0 + 1) x
      let s2 := countOct s1 c.keys
      let cr2 := s2.crew c.crew
      advance (releaseLatch (s2.setCrew c.crew { cr2 with mmajs := cr2.mmajs + 1 }) c.crew a keep).bump k i) s)

def execTzero (d : Nat) (s : State) : Result :=
  .next (gated (.tzero d) 0 (fun s k => decide ((s.crewOf k).accs ≤ d)) noCheck (fun s k =>
    let c := s.convoy k
    if !(mqRoom s c.core && octRoom s k) then s
    else
      let cr := s.crew c.crew
      let e : MEntry := { kind := .tzero, seq := s.key, ctx := cr.ctx, crew := c.crew, members := c.keys.map (whoOf s), acc := cr.acc0 + d }
      advance (countOct (pushM (chargeIssue s k s.weights.unit) c.core e) c.keys).bump k (.tzero d)) s)

/-- Elements per register of an entry (R126, R148). -/
def lfsrSteps (n : Nat) (t : Word) : Word := (List.range n).foldl (fun t _ => lfsrStep t) t

/-- Members whose row or columns leave the accumulator fault with BOUNDS (R148). -/
def tileFaults (s : State) (k a regs e : Nat) : List Nat :=
  let g := (s.g k a).toNat
  (s.convoy k).keys.filter fun t => decide (127 < field g 0 7 + tkeyLane t) || decide (128 < field g 8 7 + regs * e)

/-- Toll of 4 of the engine port, checked last (R148, R374 step 6). -/
def portTollCheck (s : State) (k : Nat) : Option Nat :=
  if (s.island ((s.convoy k).core / 2)).pool < 4 then some 0x040 else none

/-- TLD and TST place one entry; `c` is the field count − 1 (R147, R148). An entry is placed also where every member faults with BOUNDS: it
moves nothing and pays its toll (log 67: R148 does not say). -/
def tileOp (i : Instr) (kind : MKind) (d a acc c n : Nat) (cmp bar : Nat) (s : State) : State :=
  gated i 0 (fun s k => decide ((s.crewOf k).accs ≤ acc) || (cmp == 1 && !(s.crewOf k).bars? bar))
    (orCheck (formatCheck [n] [n]) portTollCheck) (fun s k =>
    let cv := s.convoy k
    if !(mqRoom s cv.core && octRoom s k) then s
    else
      let cr := s.crew cv.crew
      let f := cr.fmt n
      let e := perReg f.width
      let bad := tileFaults s k a (c + 1) e
      let ok := cv.keys.filter fun t => !bad.contains t
      let g := (s.g k a).toNat
      let regs (t : Nat) : Tab DWord := (List.range (c + 1)).map fun j => (64 * tkeyLane t + j, (s.thread t).reg (d + j))
      let ent : MEntry :=
        { kind, seq := s.key, ctx := cr.ctx, crew := cv.crew, members := ok.map (whoOf s), acc := cr.acc0 + acc,
          rmode := cr.mode n, sat := cr.sat n, cmp := cmp == 1, bar, fmt := Tab.get 0 cr.f n, regs := c + 1, first := d,
          row0 := field g 0 7, col0 := field g 8 7, data := ok.flatMap regs,
          draws := ok.map fun t => (tkeyLane t, (s.thread t).srseed) }
      let steps := if cr.mode n = 5 then (c + 1) * e else 0
      let s1 := pushM (chargeIssue s k s.weights.tileIssue) cv.core ent
      let s2 := s1.setThreads ok fun t => let th := s1.thread t
        { th with oct := th.oct + 1, srseed := lfsrSteps steps th.srseed, tlds := if kind = .tld then th.tlds + 1 else th.tlds }
      finish s2.bump k i (bad.map fun t => { key := t, cause := 0x010 })) s

def execTld (d a acc c n : Nat) (s : State) : Result := .next (tileOp (.tld d a acc c n) .tld d a acc c n 0 0 s)
def execTst (d a acc c n cmp bar : Nat) (s : State) : Result := .next (tileOp (.tst d a acc c n cmp bar) .tst d a acc c n cmp bar s)

/-! ### Timing and order of the queue (R141, R143) -/

def isMma (k : MKind) : Bool := match k with | .mma => true | .mmab => true | .mmaj => true | _ => false
def MEntry.width (e : MEntry) : Nat := wordWidth e.resv.fmt
def MEntry.busy (e : MEntry) : Nat := if isMma e.kind then matBusy e.width else 16
def MEntry.latency (e : MEntry) : Nat := if isMma e.kind then matBusy e.width + 8 else 16
def MEntry.toll (e : MEntry) : Nat := if isMma e.kind then matToll e.width else if e.kind = .tzero then 0 else 4
def MEntry.window (e : MEntry) : Nat := if isMma e.kind then matBusy e.width + 8 else 16
def MEntry.writesAcc (e : MEntry) : Bool := e.kind != .tld
/-- Physical units of the core of the reservation that the entry reads. -/
def MEntry.units (s : State) (e : MEntry) : List Nat :=
  if isMma e.kind then (List.range e.resv.count).map fun i => (s.crew e.crew).unit0 + e.resv.first + i else []

/-- First entry not started. -/
def mqHead (c : Core) : Option MEntry := c.mq.find? fun e => e.started.isNone

/-- The engine is idle in a cycle. -/
def engineIdle (c : Core) (now : Nat) : Bool :=
  c.mq.all fun e => match e.started with | some t => decide (t + e.busy ≤ now) | none => true

/-- Bytes a CPYT moves. -/
def CEntry.tileBytes (e : CEntry) : Nat := e.n
/-- Physical units that a CPYT of the operand buffer touches. -/
def CEntry.units (s : State) (e : CEntry) : List Nat :=
  if e.kind == .cpyt && !e.tile then (List.range ((e.n + 4095) / 4096)).map fun i => (s.crew e.crew).unit0 + e.target + i else []
/-- Physical accumulator of a CPYT of the tile store. -/
def CEntry.acc? (s : State) (e : CEntry) : Option Nat := if e.kind == .cpyt && e.tile then some ((s.crew e.crew).acc0 + e.target) else none

/-- A queue entry on `mcore` and a CPYT on `ccore` must keep their issue order (R143). -/
def conflict (s : State) (mcore : Nat) (m : MEntry) (ccore : Nat) (c : CEntry) : Bool :=
  let accHit := mcore == ccore && c.acc? s == some m.acc && (m.writesAcc || !c.out)
  let unitHit := m.resv.core == ccore && !c.out && (c.units s).any fun u => (m.units s).contains u
  accHit || unitHit

/-- Every start condition of R141 but the toll, for the head entry of a core in cycle `now`. -/
def mStartable (s : State) (core now : Nat) : Option MEntry :=
  let c := s.core core
  match mqHead c with
  | none => none
  | some e =>
    let waits := c.mq.any fun x => x.started.isSome && x.writesAcc && x.acc == e.acc
    let cpyt := ([core, e.resv.core]).any fun cc => (s.core cc).cq.any fun x => decide (x.seq < e.seq) && conflict s core e cc x
    if engineIdle c now && !waits && !cpyt then some e else none

/-- Cores whose ports and engines an operation needs (R139, R140). -/
def opCores (core : Nat) (e : MEntry) : List Nat :=
  match e.kind with
  | .mmab => [2 * (core / 2), 2 * (core / 2) + 1]
  | .mmaj => (List.range 8).map fun n => 8 * (core / 8) + n
  | _ => [core]

/-- The head entry of a core belongs to the operation of `e` and could start. -/
def partOf (s : State) (e : MEntry) (core now : Nat) : Bool :=
  match mStartable s core now with
  | none => false
  | some x => match e.kind with
    | .mmaj => x.kind == .mmaj && x.joint == e.joint && (s.crew x.crew).run == (s.crew e.crew).run
    | _ => x.seq == e.seq

/-- MATRIX_ENTRY_START: the head entry starts, with every engine of its operation, once the tolls are collected (R141, R230). -/
def execMatrixEntryStart (core : Nat) (s : State) : Result :=
  .next (let now := s.cycle core
    match mStartable s core now with
    | none => s
    | some e =>
      let cs := opCores core e
      if !(e.toll == 0 || e.paid) || !(cs.all fun c => partOf s e c (s.cycle c)) then s
      else cs.foldl (fun x c =>
        let co := x.core c
        let now := x.cycle c
        match mqHead co with
        | none => x
        | some h =>
          let x1 := x.setCore c { co with mq := co.mq.map fun y => if y.seq == h.seq then { y with started := some now } else y }
          let elems := h.members.length * h.regs * perReg (wordWidth h.fmt)
          let weight := if isMma h.kind then s.weights.ofMma h.width else if h.kind = .tzero then 0 else s.weights.tileData * ((4 * elems + 127) / 128)
          if h.kind = .tzero then x1 else chargeFor x1 h.ctx h.crew weight (c / 2) (some c)) s)

/-! ### Effects at completion (R122, R138-R140, R142, R146, R148) -/

def accKey (core acc row col : Nat) : Nat := (core * 8 + acc) * 16384 + row * 128 + col
def State.accAt (s : State) (core acc row col : Nat) : Word := Tab.get 0 s.acc (accKey core acc row col)
def obKey (core unit byte : Nat) : Nat := core * 0x40000 + unit * 4096 + byte

/-- Element k of row i of a latched A, with its block scale. -/
def aValue (l : ALatch) (i k : Nat) : Val × Val :=
  let f := Fmt.ofWord l.fmt
  let e := perReg f.width
  let v := decodeVal f (elem (Tab.get 0 l.rows (8 * i + k / e)) f.width (k % e))
  let sc := if l.scaled then decodeVal (Fmt.ofWord l.sfmt) (Tab.get 0 l.scales (8 * i + k / 8)).toNat else .fin false 1 0
  (v, sc)

/-- Element k of column j of a reserved B, with its block scale (R134). -/
def bValue (s : State) (unit0 : Nat) (r : Resv) (j k : Nat) : Val × Val :=
  let f := Fmt.ofWord r.fmt
  let e := perReg f.width
  let base := obKey r.core (unit0 + r.first) 0
  let w := leNat (Tab.getRun 0 s.ob (base + 8 * matNW f.width * j + 8 * (k / e)) 8)
  let v := decodeVal f (elem (BitVec.ofNat 64 w) f.width (k % e))
  let sc := if r.blk = 0 then .fin false 1 0
    else decodeVal (Fmt.ofWord r.sfmt) (Tab.get 0 s.ob (base + r.soff + j * (matK f.width / r.blk) + k / r.blk)).toNat
  (v, sc)

def bandVal (b : Nat) : Val := decodeVal bfloat16 b

/-- bandA of row i: gB[15:0] below 64, gB[31:16] above; 1 without band scales. -/
def bandA (b : Option Word) (i : Nat) : Val :=
  match b with
  | none => .fin false 1 0
  | some w => bandVal (field w.toNat (if i < 64 then 0 else 16) 16)

/-- Reservation, column in it and band of column j of the operation's B (R138, R140). -/
def bColumn (s : State) (core : Nat) (e : MEntry) (j : Nat) : Nat × Resv × Nat × Val :=
  match e.kind with
  | .mmaj =>
    let q := 2 * (core % 2) + j / 64
    let oc := 8 * (core / 8) + 2 * q
    let x := ((s.core oc).mq.find? fun m => m.kind == .mmaj && m.joint == e.joint && (s.crew m.crew).run == (s.crew e.crew).run).getD e
    ((s.crew x.crew).unit0, x.resv, j % 64, bandVal x.resv.band0.toNat)
  | _ => ((s.crew e.crew).unit0, e.resv, j, bandVal (if j < 64 then e.resv.band0 else e.resv.band1).toNat)

/-- The updated accumulator element (R122): one exact sum, one rounding. K is that of the engine's own entry, also where the clusters of a
joint operation bring inputs of other widths (log 66: R140 does not say). -/
def mmaElem (s : State) (core : Nat) (e : MEntry) (i j : Nat) : Word :=
  let b := bColumn s core e j
  let d := decodeVal binary32 (s.accAt core e.acc i j).toNat
  let mode := noRsr e.rmode
  let terms := (List.range (matK e.width)).map fun k =>
    let x := aValue e.latch i k
    let y := bValue s b.1 b.2.1 b.2.2.1 k
    ((bandA e.bands i).mul b.2.2.2).mul ((x.1.mul x.2).mul (y.1.mul y.2))
  BitVec.ofNat 32 (encodeVal binary32 (roundVal binary32 mode e.sat 0 (sumVals mode (d :: terms))))

/-- Writes a whole accumulator. -/
def writeAcc (s : State) (core acc : Nat) (f : Nat → Nat → Word) : State :=
  { s with acc := Tab.splice 0 (accKey core acc 0 0) 16384 (fun n => f (n / 128) (n % 128)) s.acc }

/-- A register of a loading instruction at its completion: a write made since the issue may stand (07 R194). -/
def deliver (n : Nat) (t : Thread) (r : Nat) (old new : DWord) : Thread :=
  let cur := t.reg r
  if cur = old ∨ cur = new then t.setReg r new else if Config.keepWrite n then t else t.setReg r new

/-- What a TLD brings into its registers of one member, ascending. -/
def tldValues (s : State) (core : Nat) (e : MEntry) (w : Who) : List DWord :=
  let lane := tkeyLane w.key
  let f := Fmt.ofWord e.fmt
  let n := perReg f.width
  let xs := (List.range (e.regs * n)).map fun i => decodeVal binary32 (s.accAt core e.acc (e.row0 + lane) (e.col0 + i)).toNat
  let pats := (roundList f e.rmode e.sat xs (Tab.get 0 e.draws lane)).1
  (List.range e.regs).map fun j => pack f.width ((pats.drop (j * n)).take n)

/-- What the destination registers of a member held at the TLD's issue. -/
def MEntry.oldReg (e : MEntry) (w : Who) (j : Nat) : DWord := Tab.get 0 e.data (64 * tkeyLane w.key + j)

/-- TLD's registers of one member. -/
def tldMember (s : State) (core : Nat) (e : MEntry) (w : Who) : State :=
  if !alive s w then s
  else
    let xs := tldValues s core e w
    let th := (List.range e.regs).foldl (fun t j => deliver (s.fresh + j) t (e.first + j) (e.oldReg w j) (xs[j]?.getD 0)) (s.thread w.key)
    { s.setThread w.key { th with tlds := th.tlds - 1 } with fresh := s.fresh + e.regs }

/-- Before a started TLD is complete, each register that is still as it was at the issue holds the old value or the loaded one (07 R194,
R148), as an open choice says (log 69). -/
def tldEarly (s : State) (core : Nat) (e : MEntry) : State :=
  e.members.foldl (fun x w =>
    if !alive x w then x
    else
      let xs := tldValues x core e w
      let th := (List.range e.regs).foldl (fun t j =>
        if t.reg (e.first + j) = e.oldReg w j ∧ Config.choice (x.fresh + j) 2 % 2 = 1 then t.setReg (e.first + j) (xs[j]?.getD 0) else t) (x.thread w.key)
      { x.setThread w.key th with fresh := x.fresh + e.regs }) s

/-- TST's elements of one member. -/
def tstMember (s : State) (core : Nat) (e : MEntry) (w : Who) : State :=
  let lane := tkeyLane w.key
  let f := Fmt.ofWord e.fmt
  let n := perReg f.width
  let xs := (List.range (e.regs * n)).map fun i => decodeVal f (elem (Tab.get 0 e.data (64 * lane + i / n)) f.width (i % n))
  let pats := (roundList binary32 e.rmode e.sat xs (Tab.get 0 e.draws lane)).1
  { s with acc := Tab.setRun 0 (accKey core e.acc (e.row0 + lane) e.col0) (pats.map (BitVec.ofNat 32)) s.acc }

/-- Effect of an entry on the tile store and the registers. -/
def mEffect (s : State) (core : Nat) (e : MEntry) : State :=
  match e.kind with
  | .tzero => markAcc (writeAcc s core e.acc fun _ _ => 0) e.crew core e.acc
  | .tld => e.members.foldl (fun x w => tldMember x core e w) s
  | .tst => if e.members.isEmpty then s else markAcc (e.members.foldl (fun x w => tstMember x core e w) s) e.crew core e.acc
  | _ => markAcc (writeAcc s core e.acc (mmaElem s core e)) e.crew core e.acc

/-- OCT falls in the threads that issued and still live (16 R462). -/
def dropOct (s : State) (ws : List Who) : State :=
  ws.foldl (fun x w => if alive x w then let t := x.thread w.key; x.setThread w.key { t with oct := t.oct - 1 } else x) s

/-- Bytes that a completion takes off TXBYTES (R142). -/
def mBytes (e : MEntry) : Nat := if isMma e.kind then 65536 else 4 * e.members.length * e.regs * perReg (wordWidth e.fmt)

/-- What follows the effect of a completing entry of a core (R142). -/
def mFinish (s1 : State) (core : Nat) (e : MEntry) : State :=
  let c := s1.core core
  let s2 := s1.setCore core { c with mq := c.mq.filter fun x => x.seq != e.seq }
  let sib := core / 2 * 2 + (1 - core % 2)
  let last := e.kind == .mma || !isMma e.kind || !((s2.core sib).mq.any fun x => x.seq == e.seq)
  let s3 := if last then dropOct s2 e.members else s2
  let s4 := if e.cmp then barLater s3 e.crew e.bar (mBytes e) else s3
  if e.kind = .tld then s4.post ((e.members.filter fun w => (s4.thread w.key).state == .exiting).map fun w => .rowFree w.key) else s4

/-- MATRIX_ENTRY_COMPLETE: the oldest started entry of the core whose latency has passed in the core cycle that comes completes; of a TLD that
is not complete, registers may return early. A joint operation completes on
all its engines together, since each reads the others' operands. -/
def execMatrixEntryComplete (core : Nat) (s : State) : Result :=
  .next (match (s.core core).mq.find? fun e => e.started.isSome with
    | none => s
    | some e =>
      match e.started with
      | none => s
      | some t =>
        if s.nextCycle core < t + e.latency then (if e.kind = .tld then tldEarly s core e else s)
        else if e.kind = .mmaj then
          let heads := (opCores core e).filterMap fun c =>
            ((s.core c).mq.find? fun x => x.kind == .mmaj && x.joint == e.joint && (s.crew x.crew).run == (s.crew e.crew).run).map fun x => (c, x)
          let eff := heads.map fun p => (p.1, p.2, mmaElem s p.1 p.2)
          let s1 := eff.foldl (fun x p => markAcc (writeAcc x p.1 p.2.1.acc p.2.2) p.2.1.crew p.1 p.2.1.acc) s
          heads.foldl (fun x p => mFinish x p.1 p.2) s1
        else mFinish (mEffect s core e) core e)

end Sys2Proof.Machine
end

