-- ==== Sys2Proof/Machine/Port.lean ====
section
/-! DEFINITION. Fabric ports: flits, their order, replays, lane repair (13 R365-R368). Idle and NAK flits stand outside the sequence (log 49). -/

namespace Sys2Proof.Machine

/-- This package's own number in the rack. -/
def ownPkg : Nat := 0

def State.port (s : State) (n : Nat) : Port := Tab.get {} s.fabric.ports n
def State.setPort (s : State) (n : Nat) (p : Port) : State := { s with fabric := { s.fabric with ports := Tab.set {} n p s.fabric.ports } }

/-- Header (R365): SEQ, ACK, TYPE, VC. -/
def flitHeader (seq ack type vc : Nat) : Nat := seq % 4096 + 2^12 * (ack % 4096) + 2^24 * (type % 16) + 2^28 * (vc % 4)
def Flit.seq (f : Flit) : Nat := f.header % 4096
def Flit.ack (f : Flit) : Nat := field f.header 12 12
def Flit.type (f : Flit) : Nat := field f.header 24 4

/-- CRC-32 with polynomial 0x04C1_1DB7, in the usual reflected form (log 78). -/
def crc32Bits : Nat → Nat → Nat
  | 0, c => c
  | n + 1, c => crc32Bits n (if c % 2 = 1 then (c / 2) ^^^ 0xEDB88320 else c / 2)
def crc32 (bs : List Byte) : Nat := (bs.foldl (fun c b => crc32Bits 8 (c ^^^ b.toNat)) 0xFFFFFFFF) ^^^ 0xFFFFFFFF

/-- Bytes 0 to 251 of a flit, and the CRC that bytes 252 to 255 hold. -/
def Flit.body (f : Flit) : List Byte := leBytes f.header 8 ++ leBytes f.payload 244
def Flit.crc (f : Flit) : Nat := crc32 f.body
/-- The 256 bytes on the lanes. -/
def Flit.bytes (f : Flit) : List Byte := f.body ++ leBytes f.crc 4

/-- Highest SEQ received in order. -/
def Port.ackNow (p : Port) : Nat := (p.expect + 4095) % 4096

/-- A flit leaves on the lanes: 4,000 qpJ to an account (09 R241, R243). -/
def transmit (s : State) (n acct : Nat) (f : Flit) : State :=
  let p := s.port n
  charge (s.setPort n { p with sent := f :: p.sent }) acct s.weights.flit (portDomain n) none

/-- The port may transmit new flits: not frozen, not down, no replay outstanding, room in the replay buffer (R366, R367). -/
def Port.maySend (p : Port) : Bool := p.state != .down && !p.freezing && p.replaying == 0 && decide (p.replay.length < 1024)

/-- Sends waiting flits while the port may. Their charges were made when they joined. -/
def pump (n : Nat) : Nat → State → State
  | 0, s => s
  | k + 1, s =>
    let p := s.port n
    match p.out with
    | [] => s
    | f :: rest =>
      if p.maySend then
        let g : Flit := { header := flitHeader p.seq p.ackNow f.type (field f.header 28 2), payload := f.payload }
        pump n k (s.setPort n { p with out := rest, seq := (p.seq + 1) % 4096, replay := p.replay ++ [g], sent := g :: p.sent })
      else s

/-- A flit joins those to send; its charge is its sender's. -/
def joinFlit (s : State) (n type payload : Nat) : State :=
  let p := s.port n
  pump n (p.out.length + 1) (s.setPort n { p with out := p.out ++ [{ header := flitHeader 0 0 type 0, payload }] })

/-- A flit joins those to send; it is charged to an account. -/
def sendFlit (s : State) (n type payload acct : Nat) : State :=
  joinFlit (charge s acct s.weights.flit (portDomain n) none) n type payload

/-- The port can take `n` flits of a request now: none waits before them, and the replay buffer has room for all. -/
def Port.room (p : Port) (n : Nat) : Bool := p.maySend && p.out.isEmpty && decide (p.replay.length + n ≤ 1024)

/-- A NAK that carries the expected SEQ (R366). -/
def sendNak (s : State) (n : Nat) : State :=
  let p := s.port n
  transmit (s.setPort n { p with naked := true }) n firmwareAccount { header := flitHeader p.expect p.ackNow 4 0 }

/-- Flits up to and including SEQ `a` are acknowledged. -/
def Port.acked (p : Port) (a : Nat) : Port :=
  match p.replay.findIdx? fun f => f.seq == a with
  | some i => { p with replay := p.replay.drop (i + 1), replaying := p.replaying - (i + 1) }
  | none => p

/-- Every unacknowledged flit is sent again from the oldest on; the flits are charged to the firmware account. -/
def replayFlits (s : State) (n : Nat) : State :=
  let p := s.port n
  if p.replay.isEmpty then s
  else
    let s1 := s.setPort n { p with replaying := p.replay.length, replays := s.host.uptime :: p.replays }
    p.replay.foldl (fun x f => transmit x n firmwareAccount f) s1

/-- PORT_DOWN follows from here: the requests outstanding through the port end (R368); done by the Fabric events. -/
def Port.goDown (p : Port) : Port := { p with state := .down, freezing := false }

/-- A failure attributed to a lane; the sixteenth within 1 ms triggers repair (R367). True where the port goes down. -/
def laneFailure (s : State) (n lane : Nat) : State × Bool :=
  let p := s.port n
  let now := s.host.uptime
  let fails := (lane, now) :: p.fails.filter fun f => decide (now < f.2 + 1000)
  let p1 := { p with fails }
  if (fails.filter fun f => f.1 == lane).length < 16 then (s.setPort n p1, false)
  else
    let p2 := { p1 with fails := fails.filter fun f => f.1 != lane }
    match p.state with
    | .normal =>
      if p.freezing then (s.setPort n p1, false)
      else if p.replaying = 0 then (s.setPort n { p2 with bad := some lane, freezing := true }, false)
      else (s.setPort n { p2 with bad := some lane, state := .pending }, false)
    | .pending => (s.setPort n p1, false)
    | .spared => (s.setPort n p2.goDown, true)
    | .down => (s, false)

/-- In PENDING, once every replayed flit is acknowledged, transmit freezes for the swap. -/
def settlePending (s : State) (n : Nat) : State :=
  let p := s.port n
  if p.state = .pending ∧ p.replaying = 0 then s.setPort n { p with freezing := true } else s

end Sys2Proof.Machine
end

