-- ==== Sys2Proof/Machine/Slice.lean ====
section
/-! DEFINITION. MSC slices, frame ownership, the seal unit and the confinement of errors (06 R151, R152, R166, R167, R175-R177,
11 R294-R313, R318). `mem` holds the plaintext as the slices see it; how a tile stands in its stack follows from it and from the tile's
metadata (log 13). -/

namespace Sys2Proof.Machine

/-! ### Placement (R151, R152, R294) -/

/-- Usable device memory, host memory, peer memory. -/
def usable (pa : Nat) : Bool := decide (pa < 0x013D80000000)
def inDevice (pa : Nat) : Bool := decide (pa < 0x014000000000)
def isHost (pa : Nat) : Bool := decide (0x1000000000000 ≤ pa ∧ pa < 0x2000000000000)
def isPeer (pa : Nat) : Bool := decide (0x4000000000000 ≤ pa ∧ pa < 0x6000000000000)
/-- Package that a peer address names. -/
def peerOf (pa : Nat) : Nat := field pa 41 8

def xorNibbles : Nat → Nat → Nat
  | 0, _ => 0
  | n + 1, x => x % 16 ^^^ xorNibbles n (x / 16)

def tileOf (pa : Nat) : Nat := pa / 2048
def homeSlice (t : Nat) : Nat := xorNibbles 8 t
def localTile (t : Nat) : Nat := t / 16
/-- Tile number of a slice's local tile. -/
def tileAt (slice loc : Nat) : Nat := 16 * loc + (slice ^^^ xorNibbles 7 loc)
/-- Key of the tile's pseudo-channel, its bank, its row (R294). -/
def chanOf (t : Nat) : Nat := 64 * homeSlice t + localTile t % 64
def bankOf (t : Nat) : Nat := 4 * (localTile t / 64 % 4) + localTile t / 256 % 4
def rowOf (t : Nat) : Nat := localTile t / 1024
/-- Bursts of a tile transfer: (row, burst), ascending. -/
def transferBursts (t : Nat) : List (Nat × Nat) := (List.range 32).map fun n => (rowOf t, n)
def setOf (t : Nat) : Nat := localTile t % 512
/-- First local tile of the metadata range (R295). -/
def dataTiles : Nat := 0x27B0000
/-- Metadata and spare tiles are not sealed (R295). -/
def isMetaTile (t : Nat) : Bool := decide (dataTiles ≤ localTile t)
/-- Local tile and byte of a data tile's metadata entry (R295). -/
def metaPlace (l : Nat) : Nat × Nat := (dataTiles + l / 128, 16 * (l % 128))
/-- The tile and the burst that hold a data tile's entry. -/
def metaTileOf (t : Nat) : Nat := tileAt (homeSlice t) (metaPlace (localTile t)).1
def metaBurst (t : Nat) : Nat := (metaPlace (localTile t)).2 / 64

/-! ### Ownership (R175, R176) -/

def State.ownerOf (s : State) (frame : Nat) : Owner := Tab.get {} s.sealing.owners frame

/-- An owner permits an access of traffic class 0 to 2 by a VD (R176). -/
def ownerPermits (s : State) (frame vd : Nat) (write : Bool) : Bool :=
  let o := s.ownerOf frame
  if o.owner = 0 then false
  else if o.owner = 0xFFFF then !write
  else if o.owner = 0xFFFE then (s.vd vd).part == some o.part
  else decide (o.owner ≤ 64) && o.owner == vd + 1

/-- Class 3 reaches firmware's own frames, and the frames that the VD it acts for may reach (R176, R333). -/
def classPermits (s : State) (frame vd cls : Nat) (write : Bool) : Bool :=
  if cls = 3 && (s.ownerOf frame).owner == 0 then true else ownerPermits s frame vd write

/-- Key slot (R297). DESIGN CHOICE (log 84): the table gives none for an owner of 65 to 0xFFFD, who may access nothing
(06 R176); here it is owner - 1, as for a VD. -/
def slotOf (o : Owner) : Nat :=
  if o.owner = 0 then 129 else if o.owner = 0xFFFF then 128 else if o.owner = 0xFFFE then 64 + o.part else o.owner - 1
def State.slotOfTile (s : State) (t : Nat) : Nat := slotOf (s.ownerOf (t / 2))
def State.keySlot (s : State) (k : Nat) : KeySlot := Tab.get {} s.sealing.slots k
def State.setKeySlot (s : State) (k : Nat) (x : KeySlot) : State :=
  { s with sealing := { s.sealing with slots := Tab.set {} k x s.sealing.slots } }
def State.tileMeta (s : State) (t : Nat) : TileMeta := Tab.get {} s.sealing.tiles t
def State.setMeta (s : State) (t : Nat) (m : TileMeta) : State :=
  { s with sealing := { s.sealing with tiles := Tab.set {} t m s.sealing.tiles } }
def State.mscTile? (s : State) (t : Nat) : Option MscTile := (s.msc.tiles.find? fun p => p.1 == t).map (·.2)
def State.setMscTile (s : State) (t : Nat) (x : MscTile) : State :=
  { s with msc := { s.msc with tiles := Tab.insert t x s.msc.tiles } }
def State.dropMscTile (s : State) (t : Nat) : State := { s with msc := { s.msc with tiles := Tab.erase t s.msc.tiles } }

/-! ### Keys, cipher and tag (R297, R299) -/

/-- Draw of the keys that a slot holds under a generation number; none where it holds no such generation. -/
def KeySlot.drawOf (k : KeySlot) (gen : Nat) : Option Nat :=
  if k.destroyed then none else if k.cur = gen then some k.draw else if k.prev = some gen then some k.prevDraw else none

/-- CB of block j. -/
def counterBlock (t v g j : Nat) : BitVec 128 := BitVec.ofNat 128 (v * 2^96 + g * 2^88 + t * 2^8 + j)

/-- Keystream of a tile; a 128-bit quantity is a big-endian byte string. -/
def keystream (slot draw t v g : Nat) : List Byte :=
  let words := keySchedule (Config.sealKey slot draw false)
  (List.range 128).flatMap fun j => aesBytes words (blockBytes (counterBlock t v g j))

/-- Encryption and decryption. -/
def crypt (slot draw t v g : Nat) (data : List Byte) : List Byte := List.zipWith (· ^^^ ·) data (keystream slot draw t v g)

/-- TAG: the first 10 bytes of the GMAC. -/
def sealTag (slot draw t v g : Nat) (c : List Byte) : BitVec 80 :=
  ((gmac (Config.sealKey slot draw true) (BitVec.ofNat 96 (t * 2^40 + v * 2^8 + g))
    (c ++ leBytes t 8 ++ leBytes v 4 ++ leBytes g 1 ++ leBytes 0 3)) >>> 48).truncate 80

/-- Draw under which a tile stands as stored. -/
def tileDraw (s : State) (t : Nat) : Nat := ((s.keySlot (s.slotOfTile t)).drawOf (s.tileMeta t).gen).getD 0

/-- The 32 bursts of a tile as stored. -/
def storedBursts (s : State) (t : Nat) : List Byte :=
  let m := s.tileMeta t
  let data := Tab.getRun 0 s.mem (2048 * t) 2048
  if isMetaTile t then data else m.raw.getD (crypt (s.slotOfTile t) (tileDraw s t) t m.version m.gen data)

/-- TAG as stored. -/
def storedTag (s : State) (t : Nat) : BitVec 80 :=
  let m := s.tileMeta t
  m.tag.getD (sealTag (s.slotOfTile t) (tileDraw s t) t m.version m.gen (storedBursts s t))

/-- The metadata entry of a tile (R296). -/
def metaEntry (s : State) (t : Nat) : BitVec 128 :=
  let m := s.tileMeta t
  BitVec.ofNat 128 (m.version + m.gen * 2^32 + m.zero % 256 * 2^40 + (storedTag s t).toNat * 2^48)

/-- The bytes of a metadata tile of a slice: 128 entries. -/
def metaBytes (s : State) (slice l : Nat) : List Byte :=
  (List.range 128).flatMap fun i => leBytes (metaEntry s (tileAt slice (128 * (l - dataTiles) + i))).toNat 16

/-- The tile's stored bits no longer follow from `mem` and the owner's keys: they stand by themselves, before its owner changes. -/
def freeze (s : State) (t : Nat) : State :=
  if isMetaTile t then s else s.setMeta t { s.tileMeta t with raw := some (storedBursts s t), tag := some (storedTag s t) }

/-! ### Fill's answer (R300) -/

inductive FillRes where
  | ok | poison | tagFail
deriving DecidableEq, Repr, Inhabited

def State.poisonOf (s : State) (t : Nat) : Poison := Tab.get {} s.sealing.poison t
def State.poisoned (s : State) (t : Nat) : Bool := (s.poisonOf t).incident != 0

/-- Errors that the symbol code meets when a tile and its entry are read. -/
def fillErrs (s : State) (t : Nat) : List (Nat × Bool) :=
  (s.tileMeta t).errs ++ (if isMetaTile t then [] else (s.tileMeta (metaTileOf t)).errs.filter fun e => e.1 == metaBurst t)

/-- A burst of the tile itself is uncorrectable. -/
def TileMeta.lost (m : TileMeta) : Bool := m.errs.any (·.2)

/-- Fill's tests in their order. -/
def fillCheck (s : State) (t : Nat) : FillRes :=
  let m := s.tileMeta t
  if s.poisoned t then .poison
  else if (fillErrs s t).any (·.2) then .poison
  else if isMetaTile t then .ok
  else match (s.keySlot (s.slotOfTile t)).drawOf m.gen with
    | none => .tagFail
    | some d =>
      if m.zero ≠ 0 then .tagFail
      else if m.tag = none ∧ m.raw = none then .ok
      else if sealTag (s.slotOfTile t) d t m.version m.gen (storedBursts s t) = storedTag s t then .ok
      else .tagFail

/-! ### Corrections (R318) -/

/-- Locations: a frame, an MSC way of a set, a word of a core's arrays. -/
def locFrame (frame : Nat) : Nat := frame
def wayKey (slice way set : Nat) : Nat := (16 * slice + way) * 512 + set
def locWay (slice way set : Nat) : Nat := 2^40 + wayKey slice way set
def locCore (core word : Nat) : Nat := 2^41 + core * 2^24 + word % 2^24

/-- An error is counted at a location; the flag says that it is the third in the window. -/
def countAt (s : State) (loc : Nat) : State × Bool :=
  let n := Tab.get 0 s.sealing.corrected loc + 1
  ({ s with sealing := { s.sealing with corrected := Tab.set 0 loc n s.sealing.corrected } }, n == 3)

/-- A frame that reaches three corrections is to be migrated and retired by firmware. -/
def countFrame (s : State) (frame : Nat) : State :=
  let r := countAt s (locFrame frame)
  if r.2 then { r.1 with sealing := { r.1.sealing with migrate := r.1.sealing.migrate ++ [frame] } } else r.1

/-- An error of a core's arrays: the third at a word marks the cluster for retirement (01 R16). -/
def countCore (s : State) (core word : Nat) : State :=
  let r := countAt s (locCore core word)
  let i := r.1.island (core / 2)
  if r.2 && i.state == .enabled then (r.1.setIsland (core / 2) { i with state := .marked, reason := 1 }).post [.clusterRetire (core / 2)] else r.1

/-- Corrected bursts of a fill, a scrub or a reseal step are counted; only a scrub rewrites them. -/
def countBursts (s : State) (t : Nat) : State :=
  (fillErrs s t).foldl (fun x e =>
    if e.2 then x
    else
      let sl := homeSlice t
      let y := { x with sealing := { x.sealing with corrBursts := Tab.set 0 sl (Tab.get 0 x.sealing.corrBursts sl + 1) x.sealing.corrBursts } }
      countFrame y ((if (s.tileMeta t).errs.contains e then t else metaTileOf t) / 2)) s

/-- What a fill that succeeds brings: the contents of `mem` are the decryption of what is stored. -/
def openTile (s : State) (t : Nat) : State :=
  let m := s.tileMeta t
  match m.raw with
  | none => s
  | some c =>
    let data := crypt (s.slotOfTile t) (tileDraw s t) t m.version m.gen c
    { s.setMeta t { m with raw := none, tag := none } with mem := Tab.putRun 0 (2048 * t) data s.mem }

/-! ### Incidents and confinement (R309-R313) -/

/-- The 32 bytes of an incident record (R312). -/
def incidentBytes (inc pa owner event confine code slice core part : Nat) : List Byte :=
  leBytes inc 8 ++ leBytes pa 8 ++ leBytes owner 2 ++ leBytes event 1 ++ leBytes confine 1 ++ leBytes code 2 ++ leBytes slice 1
    ++ leBytes 0 1 ++ leBytes core 2 ++ leBytes part 1 ++ leBytes 0 5

/-- Opens an incident and sends its record before any fault that carries its number (R312). -/
def openIncident (s : State) (t event confine code core : Nat) : State × Nat :=
  let inc := s.sealing.incidents + 1
  let o := s.ownerOf (t / 2)
  let s := { s with sealing := { s.sealing with incidents := inc } }
  (eventPost s 2 (incidentBytes inc (2048 * t) o.owner event confine code (homeSlice t) core
    (if o.owner = 0xFFFE then o.part else 0xFF)), inc)

def uncorrCount (s : State) (key : Nat) : Nat := Tab.get 0 s.sealing.uncorrEvents key
def markUncorr (s : State) (key : Nat) : State :=
  { s with sealing := { s.sealing with uncorrEvents := Tab.set 0 key (uncorrCount s key + 1) s.sealing.uncorrEvents } }
/-- Key of a slice's lost MSC copies. -/
def mscKey (slice : Nat) : Nat := 0x10000 + slice

/-- POISON_CONSUMED of a poisoned tile: grade A, or B where its pseudo-channel or slice has had another uncorrectable event in the
current window (R310). -/
def poisonCode (s : State) (p : Poison) : Nat :=
  let own := if p.window = some s.sealing.window then 1 else 0
  if own < uncorrCount s p.place then gradeB 0x060 else 0x060

/-- A draining queue with nothing active or pending is drained (10 R270). -/
def settleQueue (q : Queue) : Queue := if q.state = .draining ∧ q.active = 0 ∧ q.pend.isEmpty then { q with state := .drained } else q
def drainQueue (q : Queue) : Queue := if q.state = .running then settleQueue { q with state := .draining } else q

/-- Contexts in use for which a test holds. -/
def State.contextsWith (s : State) (p : Nat → Context → Bool) : List Nat :=
  (s.ctxs.filter fun x => x.2.used && p x.1 x.2).map (·.1)

/-- These contexts stop, with what the record says beside the code and the incident (R287). -/
def stopContexts (s : State) (l : List Nat) (f : FaultRec) : State := l.foldl (fun x c => contextFault x c f) s

def faultContexts (s : State) (l : List Nat) (code inc : Nat) : State := stopContexts s l { code, incident := inc }

/-- The same where accesses of some of the contexts, of which `f` says whose they were, are the cause (R287). -/
def faultAround (s : State) (l ctx : List Nat) (code : Nat) (f : FaultRec) : State :=
  l.foldl (fun x c => contextFault x c (if ctx.contains c then { f with code } else { code, incident := f.incident })) s

/-- Device confinement (R310): every context stops, every queue drains, every run is refused until device reset. The grade is B. -/
def confineAround (s : State) (cause : Nat) (ctx : List Nat) (f : FaultRec) : State :=
  let s1 := faultAround s (s.contextsWith fun _ _ => true) ctx (gradeB cause) f
  { s1 with host := { s1.host with failed := true },
            queues := Tab.setMany {} (List.range 4096) (fun k => drainQueue (s1.queue k)) s1.queues }

/-- The same of an event that no access of a context met. -/
def confineDevice (s : State) (cause inc : Nat) : State := confineAround s cause [] { code := 0, incident := inc }

/-- An event at the tile confines to the device (R309): of a firmware frame every one, of a shared read-only frame a tag failure and the
loss of a dirty copy. A refused reseal (5) faults the owner's contexts and confines no further (R307). -/
def deviceClass (s : State) (t event : Nat) : Bool :=
  let o := s.ownerOf (t / 2)
  (o.owner == 0 && event != 5) || (o.owner == 0xFFFF && (event == 2 || event == 3))

/-- CONFINE of an incident record. -/
def confineCode (s : State) (t event : Nat) : Nat :=
  if deviceClass s t event then 3 else if (s.ownerOf (t / 2)).owner = 0xFFFE then 2 else 1

/-- Confinement by the owner class of a tile (R309): of a private or shared read-only tile the contexts given. -/
def confine (s : State) (t event : Nat) (ctx : List Nat) (f : FaultRec) : State :=
  let o := s.ownerOf (t / 2)
  if deviceClass s t event then confineAround s (f.code % 1024) ctx f
  else if o.owner = 0xFFFE then faultAround s (s.contextsWith fun _ c => c.part == o.part) ctx f.code f
  else stopContexts s ctx f

/-- A tile is poisoned (R309, R311, R312): table entry and incident; an event that confines to the device, or a full table, does so at
once. `place` is the pseudo-channel or slice where the event counts; a refused reseal (event 5) is no uncorrectable event. -/
def poisonTile (s : State) (t event place : Nat) : State :=
  if s.poisoned t then s
  else
    let s1 := if event = 5 then s else markUncorr s place
    let s2 := if event = 1 then countFrame s1 (t / 2) else s1
    let p : Poison := { incident := s2.sealing.incidents + 1, window := if event = 5 then none else some s2.sealing.window, place }
    let full := decide (4096 ≤ (s2.sealing.poison.filter fun x => homeSlice x.1 == homeSlice t).length)
    let device := full || deviceClass s2 t event
    let code := if event = 5 then 0x062 else if device then gradeB 0x060 else poisonCode s2 p
    let r := openIncident s2 t event (if device then 3 else confineCode s2 t event) code 0xFFFF
    let s3 := if full then r.1 else { r.1 with sealing := { r.1.sealing with poison := Tab.set {} t p r.1.sealing.poison } }
    if device then confineDevice s3 (code % 1024) r.2 else s3

/-- A refused access consumes the poison (R311); `f` says whose access it was. -/
def consumePoison (s : State) (t : Nat) (ctx : List Nat) (f : FaultRec) : State :=
  let p := s.poisonOf t
  confine s t 1 ctx { f with code := poisonCode s p, incident := p.incident }

/-- A tag failure on a fill (R309, R310). -/
def tagFailure (s : State) (t : Nat) (ctx : List Nat) (f : FaultRec) : State :=
  let r := openIncident s t 2 (confineCode s t 2) (gradeB 0x061) 0xFFFF
  confine r.1 t 2 ctx { f with code := gradeB 0x061, incident := r.2 }

/-! ### Write-back and counter exhaustion (R300, R305-R307) -/

/-- A tile transfer joins its pseudo-channel's queue (R315): it arrives in the next controller cycle, and refresh has done before what it does
up to the present one (R316). -/
def queueTransfer (s : State) (t : Nat) (write : Bool) : State :=
  let p := (s.pchan (chanOf t)).reach s.msc.cycle
  s.setPchan (chanOf t) { p with queue := p.queue ++ [{ tile := t, write, arrived := s.msc.cycle + 1 }] }

/-- How far the transfer of a load's request is. -/
def setFetch (s : State) (rid : Nat) (x : Fetching) : State :=
  { s with flight := { s.flight with reqs := s.flight.reqs.map fun r => if r.id == rid then { r with fetch := x } else r } }

/-- WriteBack (R300) of the tile as it stands in `mem`; false where VERSION is exhausted. -/
def writeBack (s : State) (t : Nat) : State × Bool :=
  if isMetaTile t then (queueTransfer (s.setMeta t {}) t true, true)
  else
    let m := s.tileMeta t
    let g := (s.keySlot (s.slotOfTile t)).cur
    if m.gen ≠ g then (queueTransfer (s.setMeta t { version := 0, gen := g }) t true, true)
    else if m.version = 0xFFFFFFFF then (s, false)
    else (queueTransfer (s.setMeta t { version := m.version + 1, gen := g }) t true, true)

/-- Contexts whose VD owns a tile's frame. -/
def ownerContexts (s : State) (t : Nat) : List Nat :=
  let o := s.ownerOf (t / 2)
  if o.owner = 0xFFFE then s.contextsWith fun _ c => c.part == o.part
  else if o.owner = 0 ∨ o.owner = 0xFFFF then s.contextsWith fun _ _ => true
  else s.contextsWith fun _ c => c.vd + 1 == o.owner

/-- Exhausted (R305-R307): the tile stalls, firmware is told and starts the slot's reseal, or the next one after it. -/
def startReseal (s : State) (t : Nat) : State :=
  let n := s.slotOfTile t
  let k := s.keySlot n
  let told := { s with sealing := { s.sealing with notices := s.sealing.notices ++ [(t, n)] } }
  let stall := match told.mscTile? t with
    | some x => told.setMscTile t { x with stalled := true }
    | none => told.setMscTile t { way := 16, dirty := true, stalled := true }
  if k.reseal then stall.setKeySlot n { k with again := true }
  else if s.sec.life = .decommissioned then
    let s1 := poisonTile (told.dropMscTile t) t 5 (chanOf t)
    faultContexts s1 (ownerContexts s1 t) 0x062 (s1.poisonOf t).incident
  else
    let s1 := told.bump.setKeySlot n { k with cur := (k.cur + 1) % 256, prev := some k.cur, draw := told.key, prevDraw := k.draw, reseal := true,
                                              doneSlices := [], cursor := [], again := false }
    let s2 := (writeBack s1 t).1
    let s3 := match s2.mscTile? t with
      | some x => if x.way = 16 then s2.dropMscTile t else s2.setMscTile t { x with dirty := false, stalled := false }
      | none => s2
    s3.post ((List.range 16).map (Instr.resealTile n))

/-- WriteBack, with Exhausted where the version is spent; false where the tile stays stalled in its way. -/
def writeBackTile (s : State) (t : Nat) : State × Bool :=
  let r := writeBack s t
  if r.2 then r
  else
    let s1 := startReseal s t
    (s1, match s1.mscTile? t with | some x => !x.stalled | none => true)

/-- A context's account is open: also after its destruction, until its residuals are in (09 R246). -/
def accountOpen (s : State) (ctx : Nat) : Bool := (s.ctx ctx).used || (s.acct ctx).closing

/-- The last writer of a tile, where its account is open and belongs to the owner's VD. -/
def openWriter (s : State) (t writer : Nat) : Bool :=
  writer != 0 && decide (writer < 0x10000) && accountOpen s writer && (s.ctx writer).vd + 1 == (s.ownerOf (t / 2)).owner

/-- Account of a dirty tile's write-back (09 R243). DESIGN CHOICE (log 84): that of a shared read-only frame (owner 0xFFFF), which the table does not
name, is firmware's. -/
def writeBackAccount (s : State) (t writer : Nat) : Nat :=
  let o := s.ownerOf (t / 2)
  if o.owner = 0xFFFE then partAccount o.part
  else if o.owner = 0 ∨ o.owner = 0xFFFF ∨ 64 < o.owner then firmwareAccount
  else if openWriter s t writer then writer
  else vdAccount (o.owner - 1)

/-- A tile's fill and write-back with their bursts (09 R241). -/
def Weights.ofFill (w : Weights) : Nat := w.tile + 32 * w.readBurst
def Weights.ofBack (w : Weights) : Nat := w.tile + 32 * w.writeBurst

/-- A way is taken out of service in its set (R318). -/
def disableWay (s : State) (t way : Nat) : State :=
  { s with msc := { s.msc with wayOff := Tab.set false (wayKey (homeSlice t) way (setOf t)) true s.msc.wayOff } }

/-- The dirty copy of a tile is lost (R309): it is poisoned, and the last writer's context, or every one of the owner, stops at once. -/
def loseCopy (s : State) (t : Nat) (x : MscTile) : State :=
  let r := countAt (s.dropMscTile t) (locWay (homeSlice t) x.way (setOf t))
  let s1 := poisonTile (if r.2 then disableWay r.1 t x.way else r.1) t 3 (mscKey (homeSlice t))
  let who := if openWriter s t x.writer then [x.writer] else ownerContexts s1 t
  let p := s1.poisonOf t
  confine s1 t 3 who { code := poisonCode s1 p, incident := p.incident }

/-- A correctable word of a tile that leaves its slice is counted at its way; the third takes the way out of service in the set (R308, R318). -/
def countLeaving (s : State) (t : Nat) (x : MscTile) : State :=
  if !x.soft then s
  else
    let r := countAt s (locWay (homeSlice t) x.way (setOf t))
    if r.2 then disableWay r.1 t x.way else r.1

/-- A dirty tile leaves the slice (eviction or before a way is disabled): charged to its last writer (09 R243). False where it stays. -/
def evictTile (s : State) (t : Nat) : State × Bool :=
  match s.mscTile? t with
  | none => (s, true)
  | some x =>
    if !x.dirty then (s.dropMscTile t, true)
    else if x.bad then (loseCopy s t x, true)
    else
      let s1 := charge (countLeaving (s.setMscTile t { x with soft := false }) t x) (writeBackAccount s t x.writer) s.weights.ofBack
        (memDomain (homeSlice t)) none
      let r := writeBackTile s1 t
      if r.2 then (r.1.dropMscTile t, true) else (r.1, false)

/-- An error of a held copy that does no harm is counted at its way; the third takes the way out of service in the set, and the tile
leaves it first (R309, R318). -/
def countWay (s : State) (t : Nat) (x : MscTile) : State :=
  let r := countAt s (locWay (homeSlice t) x.way (setOf t))
  if r.2 then disableWay (evictTile r.1 t).1 t x.way else r.1

/-! ### Serving a request (R166, R167, 09 R241, R243, R259) -/

/-- How a request meets its tile's transfer: a load waits for it, and is served when it is done; the others count no time (log 76). -/
inductive Fill where
  | now | ask (rid : Nat) | done
deriving DecidableEq, Repr, Inhabited

/-- A request to a slice: kind 0 read, 1 write, 2 atomic; class; VD; account; contexts to confine to; cluster for the byte budget. -/
structure SliceReq where
  pa : Nat
  kind : Nat := 0
  cls : Nat := 0
  vd : Nat := 0
  acct : Nat := 0
  crew : Nat := 0
  ctx : List Nat := []
  core : Option Nat := none
  pol : Nat := 0
  cluster : Option Nat := none
  /-- Local owner value that a peer's request acts under (13 R369), 0 for a request of this package. -/
  asOwner : Nat := 0
  /-- An instruction fetch: included in the issue weights, and no lane, copy or walk request (09 R242, R259). -/
  free : Bool := false
  /-- Whose access it is, for a fault record (10 R287). -/
  src : FaultRec := { code := 0 }
  /-- What waits where the budget is spent (09 R259). -/
  who : Waiter := .access 0
  fill : Fill := .now
deriving DecidableEq, Repr, Inhabited

/-- The slice's answer: served; refused by ownership; poison or tag failure; to wait for the byte budget, or for the tile's transfer. -/
inductive SliceOut where
  | ok | refused | failed | wait | fetching
deriving DecidableEq, Repr, Inhabited

/-- Ways that a request may allocate in (R167). -/
def allocWays (s : State) (r : SliceReq) (t : Nat) : List Nat :=
  let mask := (Tab.get 0x0000FFFFFFFFFFFF s.msc.masks (4 * r.vd + r.cls)).toNat
  if r.pol = 2 then []
  else (List.range 16).filter fun w => mask.testBit (16 * r.kind + w)
    && !(Tab.get false s.msc.wayOff (wayKey (homeSlice t) w (setOf t)))

/-- Tiles held in the set of a tile. -/
def setTiles (s : State) (t : Nat) : List (Nat × MscTile) :=
  s.msc.tiles.filter fun p => homeSlice p.1 == homeSlice t && setOf p.1 == setOf t

/-- The first of some tiles that can be evicted: the state after it, and its way. -/
def evictFirst (s : State) : List (Nat × MscTile) → Option (State × Nat)
  | [] => none
  | p :: ps =>
    let r := evictTile s p.1
    if r.2 then some (r.1, p.2.way) else evictFirst r.1 ps

/-- A way for the tile: a free permitted one, or that of a victim (which is the device's own choice); none where there is none. -/
def takeWay (s : State) (r : SliceReq) (t : Nat) : Option (State × Nat) :=
  let ways := allocWays s r t
  let held := setTiles s t
  match ways.find? fun w => !(held.any fun p => p.2.way == w) with
  | some w => some (s, w)
  | none =>
    let vs := held.filter fun p => ways.contains p.2.way && !p.2.stalled
    if vs.isEmpty then none
    else
      let n := Config.choice s.fresh vs.length % vs.length
      evictFirst s.bump (vs.drop n ++ vs.take n)

/-- Budget tiles that a request costs (R259): a fill, and an immediate write-back where no way takes the tile. A held copy that has to be fetched
again is no hit, and a fill that has been made costs no second time. -/
def budgetCost (s : State) (r : SliceReq) (t : Nat) : Nat :=
  if r.fill = .done then 0
  else match s.mscTile? t with
  | some x => if x.bad && !x.dirty then 1 else 0
  | none => if r.kind != 0 && (takeWay s r t).isNone then 2 else 1

/-- Key of a cluster's budget at a tile's slice. -/
def budgetKey (t cluster : Nat) : Nat := 256 * homeSlice t + cluster

/-- What waits before a request in its cluster's line at the slice. -/
def aheadInLine (s : State) (key : Nat) (w : Waiter) : Bool :=
  match Tab.get [] s.msc.line key with
  | [] => false
  | p :: _ => p.1 != w

/-- The request would take USED beyond BUDGET, or another waits before it (R259). -/
def overBudget (s : State) (r : SliceReq) (t : Nat) : Bool :=
  match r.cluster with
  | none => false
  | some c =>
    let key := budgetKey t c
    let b := Tab.get 0xFFFF s.msc.budgets key
    b != 0xFFFF && decide (0 < budgetCost s r t)
      && (decide (b < Tab.get 0 s.msc.used key + budgetCost s r t) || aheadInLine s key r.who)

def useBudget (s : State) (r : SliceReq) (t : Nat) : State :=
  match r.cluster with
  | none => s
  | some c =>
    let key := budgetKey t c
    { s with msc := { s.msc with used := Tab.set 0 key (Tab.get 0 s.msc.used key + budgetCost s r t) s.msc.used } }

def setLine (s : State) (key : Nat) (l : List (Waiter × Bool)) : State := { s with msc := { s.msc with line := Tab.set [] key l s.msc.line } }

/-- A request takes its place in the line, or keeps the one it has. -/
def joinLine (s : State) (r : SliceReq) (t : Nat) : State :=
  match r.cluster with
  | none => s
  | some c =>
    let l := Tab.get [] s.msc.line (budgetKey t c)
    setLine s (budgetKey t c) (if l.any fun p => p.1 == r.who then l.map fun p => if p.1 == r.who then (p.1, true) else p else l ++ [(r.who, true)])

/-- Tries a waiting access again. -/
def retryRequest (s : State) (id : Nat) : List Instr :=
  if s.flight.reqs.any fun r => r.id == id then [.mscServe id]
  else if s.flight.stores.any fun x => x.id == id then [.storePerformed id]
  else if s.flight.atoms.any fun a => a.id == id then [.atomicPerformed id]
  else s.cores.flatMap fun p => (p.2.sideLog.filter fun e => e.id == id).map fun e => .sideLogReplay p.1 e.ctx (e.va / 4096)

/-- A request that is served leaves the line, and an access that is now the first is tried again: engines and walks try by themselves. -/
def leaveLine (s : State) (r : SliceReq) (t : Nat) : State :=
  match r.cluster with
  | none => s
  | some c =>
    let l := Tab.get [] s.msc.line (budgetKey t c)
    if !(l.any fun p => p.1 == r.who) then s
    else
      let rest := l.filter fun p => p.1 != r.who
      let s1 := setLine s (budgetKey t c) rest
      match rest with
      | (.access id, _) :: _ => s1.post (retryRequest s1 id)
      | _ => s1

/-- A charge of a request; a fetch has none. -/
def SliceReq.pay (r : SliceReq) (s : State) (weight : Nat) : State :=
  if r.free then s else chargeFor s r.acct r.crew weight (memDomain (homeSlice (tileOf r.pa))) r.core

/-- A load's tile is already being fetched: for itself, or for another load, and the slice will hold it. -/
def underWay (s : State) (r : SliceReq) (rid t : Nat) : Bool :=
  s.flight.reqs.any fun x => tileOf x.pa == t && x.fetch != .no && x.fetch != .here && (x.id == rid || (x.pol != 2 && r.pol != 2))

/-- The transfer of a load's tile is asked for; its request reaches the controller in the next cycle, or later. -/
def askFill (s : State) (rid : Nat) : State := setFetch s rid (.comes (s.msc.cycle + max 1 s.msc.lead))

/-- A tile that the slice does not hold: fill, and allocation or immediate write-back (R166). A load waits for the transfer first. -/
def missAccess (s : State) (r : SliceReq) (t : Nat) : State × SliceOut :=
  match r.fill with
  | .ask rid => (askFill (r.pay (useBudget s r t) s.weights.ofFill) rid, .fetching)
  | f =>
    let s1 := countBursts (if f = .done then s else queueTransfer (r.pay (useBudget s r t) s.weights.ofFill) t false) t
    match fillCheck s1 t with
    | .poison => (consumePoison (poisonTile s1 t 1 (chanOf t)) t r.ctx r.src, .failed)
    | .tagFail => (tagFailure s1 t r.ctx r.src, .failed)
    | .ok =>
      match takeWay (openTile s1 t) r t with
      | some (s2, w) => (s2.setMscTile t { way := w, dirty := r.kind != 0, writer := if r.kind = 0 then 0 else r.acct }, .ok)
      | none =>
        if r.kind = 0 then (openTile s1 t, .ok)
        else ((writeBackTile (r.pay (openTile s1 t) s.weights.ofBack) t).1, .ok)

/-- The slice's ownership check (R176, R177, 13 R369). -/
def requestPermits (s : State) (r : SliceReq) : Bool :=
  let f := r.pa / 4096
  let o := (s.ownerOf f).owner
  if r.asOwner = 0 then classPermits s f r.vd r.cls (r.kind != 0)
  else if r.asOwner ≤ 64 then ownerPermits s f (r.asOwner - 1) (r.kind != 0)
  else if o = 0xFFFF then r.kind == 0
  else o == 0xFFFE && r.asOwner == 0xFFFE

/-- A load that has to be fetched waits for a transfer that is under way. -/
def SliceReq.awaits (r : SliceReq) (s : State) (t : Nat) : Bool :=
  match r.fill, s.mscTile? t with
  | .ask rid, none => underWay s r rid t
  | _, _ => false

/-- A slice serves a request (R166, R176, R177, R309): a lost dirty copy poisons its tile, and the request consumes it (R311). -/
def sliceAccess (s : State) (r : SliceReq) : State × SliceOut :=
  let t := tileOf r.pa
  if !(usable r.pa) || !(requestPermits s r) then (s, .refused)
  else if s.poisoned t then (consumePoison s t r.ctx r.src, .failed)
  else if r.awaits s t then (s, .fetching)
  else if overBudget s r t then (joinLine s r t, .wait)
  else
    let s0 := leaveLine s r t
    let s1 := if r.fill = .done then s0 else r.pay s0 s.weights.sector
    match s1.mscTile? t with
    | none => missAccess s1 r t
    | some x =>
      if x.bad && x.dirty then (consumePoison (loseCopy s1 t x) t r.ctx r.src, .failed)
      else if x.bad then missAccess (countWay s1 t x |>.dropMscTile t) r t
      else
        let y := { x with soft := false, dirty := x.dirty || r.kind != 0, writer := if r.kind = 0 then x.writer else r.acct }
        let s2 := s1.setMscTile t y
        (if x.soft then countWay s2 t y else s2, .ok)

end Sys2Proof.Machine
end

