-- ==== Sys2Proof/Machine/Translate.lean ====
section
/-! DEFINITION. Buffer records and element addresses (03 R90-R93), translation (06 R168-R173), page requests (06 R180, 12 R330)
and the L1 (06 R159-R164). -/

namespace Sys2Proof.Machine

/-! ### Records (R90-R93) -/

def recBase (k : BitVec 128) : Nat := field k.toNat 0 57
def recSpace (k : BitVec 128) : Nat := field k.toNat 57 3
def recOor (k : BitVec 128) : Bool := k.getLsbD 60
def recPol (k : BitVec 128) : Nat := field k.toNat 61 2
def recRo (k : BitVec 128) : Bool := k.getLsbD 63
def recExtent (k : BitVec 128) : Nat := field k.toNat 64 32
def recStride (k : BitVec 128) : Nat := field k.toNat 96 16
def recEsz (k : BitVec 128) : Nat := field k.toNat 112 4
def recSw (k : BitVec 128) : Nat := field k.toNat 116 4
def recSs (k : BitVec 128) : Nat := field k.toNat 120 4

/-- R91; `write`: a ST, an atomic, or a copy whose destination is the record. -/
def recInvalid (k : BitVec 128) (cluster write : Bool) : Bool :=
  decide (3 ≤ recSpace k) || (recSpace k == 2 && !cluster) || recPol k == 3 || decide (9 < recEsz k) || recExtent k == 0
    || (decide (0 < recSw k) && decide (recSs k < recSw k)) || field k.toNat 124 4 != 0 || (recRo k && write)

/-- a[hi:4] XOR a[hi + SS : 4 + SS], with hi = 3 + SW (R92). -/
def swizzle (k : BitVec 128) (a : Nat) : Nat :=
  if recSw k = 0 then a else a ^^^ (field a (4 + recSs k) (recSw k) * 16)

/-- ElemAddr (R92): none is OUT_OF_RANGE; `limit` is the size of the space. -/
def elemAddr (k : BitVec 128) (limit idx off nbytes : Nat) : Option Nat :=
  let e := idx + off
  let sz := 2^recEsz k
  let span := max 1 ((nbytes + sz - 1) / sz)
  if recExtent k ≤ e + span - 1 then none
  else
    let a := swizzle k (recBase k + e * recStride k)
    if limit < a + nbytes then none else some a

/-- Size of the space that a record names (R92). -/
def recLimit (k : BitVec 128) (cr : Crew) : Nat :=
  match recSpace k with | 0 => 2^57 | 1 => cr.corePart | _ => 0x100000

/-- Place in the stage table of an offset into a record's space (R93). -/
def stagePlace (k : BitVec 128) (cr : Crew) (core a : Nat) : Nat :=
  cr.stage0 + (if recSpace k = 1 then cr.space1 core a else a)

def State.record (s : State) (key k : Nat) : BitVec 128 := Tab.get 0 (s.crew (s.convoy key).crew).k k

/-! ### Translation (R168-R173) -/

/-- Outcome of a translation (R156); `wait`: its walk waits for the byte budget (09 R259). -/
inductive Outcome where
  | ok (pa : Nat) | trap (cause : Nat) | notPresent | hold | wait
deriving DecidableEq, Repr, Inhabited

/-- What an entry answers: the checks of R172 in their order. -/
def entryOutcome (e : TlbEntry) (va : Nat) (write fetch : Bool) : Outcome :=
  if fetch && !e.x then .trap 0x021
  else if write && e.h then .hold
  else if write && !e.w then .trap 0x021
  else if !(if write then e.wr else e.rd) then .trap 0x022
  else .ok (e.pa + (va - e.va))

/-- Step of a walk. -/
inductive WalkRes where
  | next (tbl : Nat) | leaf (e : TlbEntry) | trap (cause : Nat) | notPresent | wait
deriving DecidableEq, Repr, Inhabited

/-- Page size of a leaf by level and SZ (R171), 0 for a malformed combination. -/
def leafSize (n sz : Nat) : Nat :=
  match n, sz with
  | 0, 0 => 0x1000 | 0, 1 => 0x10000 | 1, 0 => 0x200000 | 1, 1 => 0x2000000 | 2, 0 => 0x40000000 | _, _ => 0

/-- What a page-table entry `e` of level `n` says of an address (R172). -/
def walkEntry (s : State) (ctx vd va n e : Nat) : WalkRes :=
  let frame := field e 12 40
  let sz := field e 5 2
  if field e 0 1 = 0 then .notPresent
  else if field e 52 12 ≠ 0 ∨ 2 ≤ sz then .trap 0x021
  else if field e 4 1 = 1 then
    if n = 0 ∨ usable (frame * 4096) = false then .trap 0x021
    else if ownerPermits s frame vd false then .next (frame * 4096)
    else .trap 0x022
  else
    let size := leafSize n sz
    if size = 0 then .trap 0x021
    else if (frame * 4096) % size ≠ 0 then .trap 0x021
    else
      let pa := frame * 4096 + va % size
      if !(usable pa || isHost pa || isPeer pa) then .trap 0x021
      else
        let dev := usable pa
        .leaf { ctx, vd, va := va - va % size, size, pa := frame * 4096, w := field e 1 1 == 1, x := field e 2 1 == 1,
                h := field e 3 1 == 1, rd := !dev || ownerPermits s (pa / 4096) vd false,
                wr := !dev || ownerPermits s (pa / 4096) vd true }

/-- Address of the entry of level `n`. -/
def entryAddr (tbl va n : Nat) : Nat := tbl + 8 * field va (12 + 9 * n) 9

/-- Who walks: the context, the class and account of its reads, its crew and core. -/
structure WalkReq where
  ctx : Nat
  cls : Nat := 0
  acct : Nat
  crew : Nat := 0
  core : Option Nat := none
deriving DecidableEq, Repr, Inhabited

/-- One entry's read, at its home slice (R173). -/
def walkRead (s : State) (q : WalkReq) (va a : Nat) : State × SliceOut :=
  sliceAccess s { pa := a, cls := q.cls, vd := (s.ctx q.ctx).vd, acct := q.acct, crew := q.crew, core := q.core, cluster := q.core.map (· / 2),
                  who := .walk q.ctx (va / 4096) }

/-- A walk has met an incident: that of the poisoned tile, else of the tag failure which it has opened (11 R312). -/
def noteWalk (s : State) (va a : Nat) : State :=
  let n := if s.poisoned (tileOf a) then (s.poisonOf (tileOf a)).incident else s.sealing.incidents
  { s with sealing := { s.sealing with walked := Tab.set 0 (va / 4096) n s.sealing.walked } }

/-- The walker keeps the place of a walk that waits. -/
def holdWalk (s : State) (q : WalkReq) (va n tbl : Nat) : State :=
  match q.core with
  | none => s
  | some c =>
    let i := s.island (c / 2)
    s.setIsland (c / 2) { i with walks := i.walks ++ [{ ctx := q.ctx, page := va / 4096, level := n, tbl }] }

/-- The walk of one level (R172): the next table, or the walk's end. -/
def walkLevel (q : WalkReq) (va n tbl : Nat) (s : State) : State × WalkRes :=
  let a := entryAddr tbl va n
  let r := walkRead s q va a
  match r.2 with
  | .ok => (r.1, walkEntry r.1 q.ctx (r.1.ctx q.ctx).vd va n (r.1.readNat a 8))
  | .refused => (r.1, .trap 0x022)
  | .failed => (noteWalk r.1 va a, .trap 0x023)
  | _ => (holdWalk r.1 q va n tbl, .wait)

/-- Walk from level `n` down (R169, R172). -/
def walkFrom (q : WalkReq) (va : Nat) : Nat → Nat → State → State × WalkRes
  | 0, tbl, s => walkLevel q va 0 tbl s
  | n + 1, tbl, s =>
    let r := walkLevel q va (n + 1) tbl s
    match r.2 with
    | .next t => walkFrom q va n t r.1
    | _ => r

/-- Walk: from the root, or from where it had to wait. -/
def walk (s : State) (q : WalkReq) (va : Nat) : State × WalkRes :=
  let root := (s.ctx q.ctx).root
  match q.core with
  | none => walkFrom q va 4 root s
  | some c =>
    let i := s.island (c / 2)
    match i.walks.find? fun p => p.ctx == q.ctx && p.page == va / 4096 with
    | none => walkFrom q va 4 root s
    | some p => walkFrom q va p.level p.tbl (s.setIsland (c / 2) { i with walks := i.walks.filter (· != p) })

/-- Answer of a walk for an access (R172). -/
def walkOutcome (r : WalkRes) (va : Nat) (write fetch : Bool) : Outcome :=
  match r with
  | .leaf e => entryOutcome e va write fetch
  | .trap c => .trap c
  | .wait => .wait
  | _ => .notPresent

def tlbFind (l : List TlbEntry) (ctx vd va : Nat) : Option TlbEntry :=
  l.find? fun e => e.ctx == ctx && e.vd == vd && decide (e.va ≤ va) && decide (va < e.va + e.size)

/-- Set of the cluster TLB that an entry stands in: its page's number modulo 256 (log 70). -/
def TlbEntry.set (e : TlbEntry) : Nat := e.va / e.size % 256

/-- A new entry, the newest first; the oldest that competes with it for a place leaves where `cap` of them are held. -/
def tlbAdd (cap : Nat) (rival : TlbEntry → Bool) (l : List TlbEntry) (e : TlbEntry) : List TlbEntry :=
  let l1 := l.filter fun x => !(x.ctx == e.ctx && x.vd == e.vd && x.va == e.va && x.size == e.size)
  let mine := l1.filter rival
  e :: (if mine.length < cap then l1 else match mine.getLast? with | some y => l1.filter (· != y) | none => l1)

/-- The core TLB has 64 entries, fully associative; the cluster TLB 256 sets of 8 ways (R168). -/
def addCoreTlb (s : State) (core : Nat) (e : TlbEntry) : State :=
  let c := s.core core
  s.setCore core { c with tlb := tlbAdd 64 (fun _ => true) c.tlb e }
def addClusterTlb (s : State) (isl : Nat) (e : TlbEntry) : State :=
  let i := s.island isl
  s.setIsland isl { i with tlb := tlbAdd 8 (fun x => x.set == e.set) i.tlb e }

/-- Translate (R153, R168): core TLB, cluster TLB, walk. -/
def translate (s : State) (core ctx crew va : Nat) (write fetch : Bool) (cls : Nat) : State × Outcome :=
  let vd := (s.ctx ctx).vd
  match tlbFind (s.core core).tlb ctx vd va with
  | some e => (s, entryOutcome e va write fetch)
  | none =>
    match tlbFind (s.island (core / 2)).tlb ctx vd va with
    | some e => (addCoreTlb s core e, entryOutcome e va write fetch)
    | none =>
      let r := walk s { ctx, cls, acct := ctx, crew, core := some core } va
      let o := walkOutcome r.2 va write fetch
      match r.2, o with
      | .leaf e, .ok _ => (addCoreTlb (addClusterTlb r.1 (core / 2) e) core e, o)
      | .leaf e, .hold => (addCoreTlb (addClusterTlb r.1 (core / 2) e) core e, o)
      | _, _ => (r.1, o)

/-! ### Page requests (R180, 12 R330) -/

/-- One request per context, page and kind until its resume: 0 read, 1 write, 2 atomic, 3 fetch. -/
def pageRequest (s : State) (ctx va kind : Nat) (isHold : Bool) (core : Nat) : State :=
  let x := s.ctx ctx
  let page := va / 4096
  if x.pages_.contains (page, kind) then s
  else eventPost (s.setCtx ctx { x with pages_ := x.pages_ ++ [(page, kind)] }) 3
    (leBytes ctx 4 ++ leBytes (page * 4096) 8 ++ leBytes kind 1 ++ leBytes (if isHold then 1 else 0) 1 ++ leBytes core 2)

/-! ### The L1 (R159-R164) -/

/-- Words of a line that bytes lo … lo + n − 1 touch. -/
def wordMask (lo n : Nat) : BitVec 32 :=
  BitVec.ofNat 32 ((2^((lo + n - 1) / 4 - lo / 4 + 1) - 1) * 2^(lo / 4))

/-- Key of a line in an L1: it is tagged with the VD that allocated it (R159). -/
def l1Key (line vd : Nat) : Nat := 64 * line + vd

def State.l1 (s : State) (core line vd : Nat) : Option L1Line :=
  ((s.core core).l1.find? fun p => p.1 == l1Key line vd).map (·.2)
def State.setL1 (s : State) (core line vd : Nat) (l : L1Line) : State :=
  let c := s.core core
  s.setCore core { c with l1 := Tab.insert (l1Key line vd) l c.l1 }

/-- Fills under way no longer mark these words of a line: those of one VD, or of every VD. -/
def clearMarks (s : State) (core line : Nat) (vd : Option Nat) (words : BitVec 32) : State :=
  { s with flight := { s.flight with reqs := s.flight.reqs.map fun r =>
      if r.core == core && r.pa / 128 == line && (vd == none || vd == some r.vd) then { r with mark := r.mark &&& ~~~words } else r } }

/-- A line leaves the L1 by replacement. -/
def l1Drop (s : State) (core key : Nat) : State :=
  let c := s.core core
  clearMarks (s.setCore core { c with l1 := Tab.erase key c.l1 }) core (key / 64) (some (key % 64)) (BitVec.allOnes 32)

/-- The line is present, allocated with no valid word where it was absent; the victim of a full set is the device's own choice. -/
def l1Alloc (s : State) (core line vd : Nat) : State :=
  match s.l1 core line vd with
  | some _ => s
  | none =>
    let set := (s.core core).l1.filter fun p => p.1 / 64 % 256 == line % 256
    let s1 := if set.length < 8 then s
      else match set[Config.choice s.fresh set.length % set.length]? with
        | some p => (l1Drop s core p.1).bump
        | none => s
    s1.setL1 core line vd { valid := 0, data := List.replicate 128 0 }

/-- Words of a line become invalid. -/
def l1Invalidate (s : State) (core line : Nat) (words : BitVec 32) : State :=
  let c := s.core core
  clearMarks (s.setCore core { c with l1 := c.l1.map fun p =>
    if p.1 / 64 == line then (p.1, { p.2 with valid := p.2.valid &&& ~~~words }) else p }) core line none words

/-- Bytes of a range, as words of lines, become invalid. -/
def l1InvalidateBytes (s : State) (core pa n : Nat) : State :=
  if n = 0 then s
  else (List.range ((pa + n - 1) / 128 - pa / 128 + 1)).foldl (fun x i =>
    let line := pa / 128 + i
    let lo := max pa (128 * line)
    let hi := min (pa + n) (128 * line + 128)
    l1Invalidate x core line (wordMask (lo - 128 * line) (hi - lo))) s

/-- One word of a present line after a store of `bytes` (offset in the line, value): R161. -/
def l1StoreWord (l : L1Line) (bytes : List (Nat × Byte)) (w : Nat) : L1Line :=
  let bs := bytes.filter fun b => b.1 / 4 == w
  if bs.isEmpty then l
  else if (dedup (bs.map (·.1))).length = 4 ∨ l.valid.getLsbD w then
    { l with data := bs.foldl (fun d b => d.set b.1 b.2) l.data, valid := l.valid ||| (1#32 <<< w) }
  else l

/-- Words that some bytes touch. -/
def touched (bytes : List (Nat × Byte)) : BitVec 32 := bytes.foldl (fun a b => a ||| (1#32 <<< (b.1 / 4))) 0

/-- A ST in the L1 (R161): a miss allocates under normal policy only; words left invalid are not marked by fills under way. -/
def l1Store (s : State) (core line vd pol : Nat) (bytes : List (Nat × Byte)) : State :=
  let s1 := if pol = 0 then l1Alloc s core line vd else s
  match s1.l1 core line vd with
  | none => clearMarks s1 core line (some vd) (touched bytes)
  | some l =>
    let l' := (List.range 32).foldl (l1StoreWord · bytes) l
    clearMarks (s1.setL1 core line vd l') core line (some vd) (touched bytes &&& ~~~l'.valid)

/-- A returning fill writes the words that are still invalid and marks them valid (R160). -/
def l1Fill (s : State) (core line vd : Nat) (mark : BitVec 32) (data : List Byte) : State :=
  match s.l1 core line vd with
  | none => s
  | some l =>
    let take (n : Nat) : Bool := mark.getLsbD (n / 4) && !l.valid.getLsbD (n / 4)
    s.setL1 core line vd { l with valid := l.valid ||| mark,
                                   data := (List.range 128).map fun n => if take n then data[n]?.getD 0 else l.data[n]?.getD 0 }

/-- What a load of a line sees when its request returns: valid words of the L1 stand under normal policy (R160), and under streaming
policy too, or a later load that hits them would return an older write (R192 item 3; log 71). -/
def l1Merged (s : State) (core line vd pol : Nat) (data : List Byte) : List Byte :=
  if pol = 2 then data
  else match s.l1 core line vd with
    | none => data
    | some l => (List.range 128).map fun n => if l.valid.getLsbD (n / 4) then l.data[n]?.getD 0 else data[n]?.getD 0

/-! ### Shoot-down (R175) -/

/-- Every TLB entry that maps the frame and every L1 line of it become invalid, on every core; walks and replays that wait start again. -/
def shootDown (s : State) (frame : Nat) : State :=
  let keep (e : TlbEntry) : Bool := !(decide (e.pa ≤ frame * 4096) && decide (frame * 4096 < e.pa + e.size))
  let side (e : SideEntry) : SideEntry := if e.pa.map (· / 4096) = some frame then { e with pa := none } else e
  { s with
    cores := s.cores.map fun p =>
      (p.1, { p.2 with tlb := p.2.tlb.filter keep, l1 := p.2.l1.filter fun l => l.1 / 64 / 32 != frame, sideLog := p.2.sideLog.map side }),
    islands := s.islands.map fun p => (p.1, { p.2 with tlb := p.2.tlb.filter keep, walks := [] }),
    flight := { s.flight with reqs := s.flight.reqs.map fun r => if r.pa / 4096 == frame then { r with mark := 0 } else r } }

end Sys2Proof.Machine
end

