-- ==== Sys2Proof/Machine/Memory.lean ====
section
/-! DEFINITION. LD, ST and the atomics: the address unit (06 R153-R158), what each line's outcome does, the side log (06 R178-R181),
and the events in which accesses are performed and completed (07 R189-R195, R201, R202, 15 R396-R401, 16 R451-R454, 17 R489-R492). -/

namespace Sys2Proof.Machine

/-! ### The address unit -/

/-- A member's place (R153). -/
inductive MSpan where
  | fault (f : MFault) | supp | span (a : Nat)
deriving DecidableEq, Repr, Inhabited

def memberSpan (s : State) (key : Nat) (rcd : BitVec 128) (i off nb align : Nat) (val : Nat → Option Nat) (t : Nat) : MSpan :=
  match elemAddr rcd (recLimit rcd (s.crewOf key)) ((s.thread t).reg i).toNat off nb with
  | none => if recOor rcd then .supp else .fault { key := t, cause := 0x010, val := val t }
  | some a => if a % align ≠ 0 then .fault { key := t, cause := 0x011, addr := a, val := val t } else .span a

/-- 128-byte lines that a span touches, ascending, as line numbers. -/
def spanLines (a nb : Nat) : List Nat := (List.range ((a + nb - 1) / 128 - a / 128 + 1)).map (· + a / 128)

/-- Alignment of LD and ST (R154). -/
def lmAlign (nb : Nat) : Nat := min nb 16

/-- Each line is translated once, ascending (R153), up to one whose walk has to wait. -/
def translateLines (s : State) (core ctx crew : Nat) (write : Bool) (lines : List Nat) : State × List (Nat × Outcome) :=
  lines.foldl (fun (a : State × List (Nat × Outcome)) l =>
    if a.2.any fun p => p.2 == .wait then a
    else
      let r := translate a.1 core ctx crew (128 * l) write false 0
      (r.1, a.2 ++ [(l, r.2)])) (s, [])

/-- The instruction waits with its walk, and takes no effect meanwhile (09 R259; log 72). -/
def walkWaits (outs : List (Nat × Outcome)) : Bool := outs.any fun p => p.2 == .wait

def outcomeOf (outs : List (Nat × Outcome)) (l : Nat) : Outcome := ((outs.find? fun p => p.1 == l).map (·.2)).getD .wait

/-- A span's first trapping line, as the fault of its member (R153, R453). -/
def lineFault (outs : List (Nat × Outcome)) (nb : Nat) (val : Nat → Option Nat) (t a : Nat) : Option MFault :=
  (spanLines a nb).findSome? fun l =>
    match outcomeOf outs l with
    | .trap c => some { key := t, cause := c, addr := a, val := val t, idx := (max (128 * l) a - a) / 8, fatal := c == 0x023 }
    | _ => none

/-- Lines with a pending side-log entry of the context (R179, R181). -/
def pendingSide (s : State) (ctx l : Nat) : Bool :=
  s.cores.any fun p => p.2.sideLog.any fun e => e.ctx == ctx && e.va == 128 * l

/-- Bytes that a span has in a line, as offset in the line and number. -/
def inLine (a nb l : Nat) : Nat × Nat :=
  let lo := max a (128 * l)
  (lo - 128 * l, min (a + nb) (128 * l + 128) - lo)

/-- Words of a line that some spans touch. -/
def lineWords (spans : List (Nat × Nat)) (nb l : Nat) : BitVec 32 :=
  spans.foldl (fun m p => if (spanLines p.2 nb).contains l then m ||| wordMask (inLine p.2 nb l).1 (inLine p.2 nb l).2 else m) 0

/-- A core-scope atomic of this core that has not been performed touches the line. -/
def l1AtomPending (s : State) (core line : Nat) : Bool :=
  s.flight.atoms.any fun x => x.core == core && x.scope == 0 && !x.stage && x.parts.any fun p => usable p.addr && p.addr / 128 == line

/-- Such an atomic holds an access whose line has this translation. -/
def atomHolds (s : State) (core : Nat) (o : Outcome) : Bool := match o with | .ok pa => l1AtomPending s core (pa / 128) | _ => false

def okPa (o : Outcome) : Nat := match o with | .ok pa => pa | _ => 0
def isOk (o : Outcome) : Bool := match o with | .ok _ => true | _ => false

/-! ### Places and order of requests (06 R162, 07 R192) -/

/-- Home slice, 16 for the host, 17 for peers. -/
def placeOf (pa : Nat) : Nat := if isHost pa then 16 else if isPeer pa then 17 else homeSlice (tileOf pa)

def atomPlaces (a : Atom) : List Nat := if a.stage then [] else a.parts.map fun p => placeOf p.addr

/-- Accesses of a core to a place that are not performed: number and event. -/
def atPlace (s : State) (core place : Nat) : List (Nat × Instr) :=
  (s.flight.reqs.filter fun r => r.core == core && placeOf r.pa == place).map (fun r => (r.id, Instr.mscServe r.id))
    ++ (s.flight.stores.filter fun x => x.core == core && !x.stage && placeOf x.pa == place).map (fun x => (x.id, Instr.storePerformed x.id))
    ++ (s.flight.atoms.filter fun a => a.core == core && (atomPlaces a).contains place).map (fun a => (a.id, Instr.atomicPerformed a.id))

/-- An earlier access of the core to the place is still to be performed. -/
def olderAt (s : State) (core place id : Nat) : Bool := (atPlace s core place).any fun p => decide (p.1 < id)

/-- The oldest access of a core to a place may now be performed. -/
def wakeNext (s : State) (core place : Nat) : State :=
  match (atPlace s core place).foldl (fun (a : Option (Nat × Instr)) p =>
      match a with | none => some p | some q => some (if p.1 < q.1 then p else q)) none with
  | some p => s.post [p.2]
  | none => s

/-- A request waits for the next budget window of its slice, or for room at a port (09 R259, 13 R366). -/
def waitAt (s : State) (place id : Nat) : State :=
  let l := Tab.get [] s.msc.waiting place
  if l.contains id then s else { s with msc := { s.msc with waiting := Tab.set [] place (l ++ [id]) s.msc.waiting } }

/-- Whose access it is, for a fault record: the thread's (10 R287). -/
def threadRec (s : State) (core crew : Nat) (w : Who) (trpc traddr trval : Nat) : FaultRec :=
  { code := 0, flags := 0, core, run := (s.crewRun crew).id, crew := (s.crew crew).num, quad := tkeyQuad w.key, lane := tkeyLane w.key,
    row := tkeyRow w.key, cohort := (s.thread w.key).cohort, trpc, traddr, trval }

/-! ### Flits and peers (13 R365-R369) -/

/-- A port that is up and leads to the package. -/
def upPort (s : State) (pkg : Nat) : Option Nat :=
  (List.range 16).find? fun n => let p := Tab.get {} s.fabric.ports n; p.state != .down && p.peer == pkg

/-- A request to a peer: its flits, the request and what write data it has, join the port's and are charged to the context; it waits while
the port takes no new flits. Without an up port, or refused by the peer, the context stops. -/
def peerRequest (s : State) (ctx crew : Nat) (core : Option Nat) (pa flits : Nat) (write : Bool) (src : FaultRec) : State × SliceOut :=
  match upPort s (peerOf pa) with
  | none => (contextFault s ctx { code := gradeC 0x0F0 }, .failed)
  | some p =>
    if !(s.port p).room flits then (s, .wait)
    else
      let vd := (s.ctx ctx).vd
      let s1 := (List.range flits).foldl (fun x n =>
        joinFlit (chargeFor x ctx crew s.weights.flit (portDomain p) core) p (1 + min n 1) (Config.requestPayload ownPkg vd pa write)) s
      if Config.peerRefuses vd pa write s.fresh then (contextFault s1.bump ctx { src with code := gradeD 0x022 }, .failed) else (s1.bump, .ok)

/-! ### Loads -/

/-- Bytes of a load whose lines are fixed. -/
def Load.bytes (l : Load) : List Byte :=
  (List.range l.nbytes).map fun n =>
    match l.lines.find? fun x => x.va == (l.va + n) / 128 with
    | some x => x.data[(l.va + n) % 128]?.getD 0
    | none => 0

def Load.ready (l : Load) : Bool := if l.atom then l.value.isSome else l.lines.all fun x => !x.data.isEmpty
/-- The line still waits for its translation (06 R156). -/
def LoadLine.waits (x : LoadLine) : Bool := x.rid == 0 && x.data.isEmpty
def Load.unresolved (l : Load) : Bool := !l.atom && l.lines.any LoadLine.waits

/-- Registers of a load, in ascending order, once its bytes are fixed (R452). -/
def Load.values (l : Load) : List DWord :=
  if l.atom then [l.value.getD 0]
  else if l.regs = 1 then [BitVec.ofNat 64 (leNat l.bytes)]
  else (List.range l.regs).map fun j => BitVec.ofNat 64 (leNat ((l.bytes.drop (8 * j)).take 8))

/-- A line of a load goes to the L1 or is requested (R155, R160). -/
def lineLoad (s : State) (core ctx crew vd pol pa va : Nat) (words : BitVec 32) : State × LoadLine :=
  let line := pa / 128
  let hit := if usable pa && pol != 2 then
      match s.l1 core line vd with
      | some l => if words &&& ~~~l.valid = 0 then some l else none
      | none => none
    else none
  match hit with
  | some l => (chargeFor s ctx crew s.weights.l1 (core / 2) (some core), { va, data := l.data })
  | none =>
    let norm := usable pa && pol == 0
    let s1 := if norm then l1Alloc s core line vd else s
    let r : Req := { id := s1.key, core, ctx, vd, va := 128 * va, pa := 128 * line, pol, crew, mark := if norm then BitVec.allOnes 32 else 0 }
    (({ s1 with flight := { s1.flight with reqs := s1.flight.reqs ++ [r] } }.bump).post [.mscServe r.id], { va, rid := r.id })

/-- The lines of an instruction, ascending: fixed, requested, or still to be translated. -/
def loadLines (s : State) (core ctx crew vd pol nb : Nat) (outs : List (Nat × Outcome)) (spans : List (Nat × Nat)) (lines : List Nat) :
    State × List LoadLine :=
  lines.foldl (fun (a : State × List LoadLine) l =>
    match outcomeOf outs l with
    | .ok pa =>
      if pendingSide a.1 ctx l then (a.1, a.2 ++ [{ va := l }])
      else
        let r := lineLoad a.1 core ctx crew vd pol pa l (lineWords spans nb l)
        (r.1, a.2 ++ [r.2])
    | o => (pageRequest a.1 ctx (128 * l) 0 (o == .hold) core, a.2 ++ [{ va := l }])) (s, [])

/-- The cycle in which the last byte of a load returns (R452). -/
def Load.noteBack (l : Load) (now : Nat) : Load := if l.ready && l.back.isNone then { l with back := some now } else l

/-- Adds a load of one member: it counts in OCL (07 R195). -/
def addLoad (s : State) (l : Load) : State :=
  let t := s.thread l.who.key
  let s1 := s.setThread l.who.key { t with ocl := t.ocl + 1 }
  let s2 := { s1 with flight := { s1.flight with loads := s1.flight.loads ++ [{ l.noteBack (s.cycle l.core) with id := s1.key }] } }.bump
  if l.ready then s2.post [.loadComplete s1.key 0] else s2

/-- Counts of a kind that the instruction could carry past its maximum (07 R195). -/
def counterFull (s : State) (key : Nat) (f : Thread → Nat) (add : Nat) : Bool :=
  (s.convoy key).keys.any fun t => decide (63 < f (s.thread t) + add)

/-- The loads that some threads have in flight write these registers no more: a later load has, and its value stands (R454). -/
def outdate (s : State) (ks : List Nat) (v n : Nat) : State :=
  let upd (l : Load) : Load :=
    if ks.contains l.who.key then
      { l with old := l.old.mapIdx fun j x => if v ≤ l.first + j ∧ l.first + j < v + n then none else x }
    else l
  { s with flight := { s.flight with loads := s.flight.loads.map upd } }

/-- Suppressed members receive zeros at issue (R452); LLAT is of a LD only (03 R95). -/
def zeroSuppressed (s : State) (ks : List Nat) (v n : Nat) (ld : Bool) : State :=
  let s1 := s.setThreads ks fun t =>
    let th := s.thread t
    { th.setRegs v (List.replicate n 0) with llat := if ld then 0 else th.llat }
  if ks.isEmpty then s1 else outdate s1 ks v n

/-- Distinct lines of some spans, ascending. -/
def allLines (nb : Nat) (spans : List (Nat × Nat)) : List Nat := ascending (spans.flatMap fun p => spanLines p.2 nb)

/-- The members' spans, and the members in each class. -/
def spansOf (l : List (Nat × MSpan)) : List (Nat × Nat) := l.filterMap fun p => match p.2 with | .span a => some (p.1, a) | _ => none
def suppOf (l : List (Nat × MSpan)) : List Nat := l.filterMap fun p => match p.2 with | .supp => some p.1 | _ => none
/-- Faults in ascending lane order: of the member itself, else of its lines. -/
def faultsOf (outs : List (Nat × Outcome)) (nb : Nat) (val : Nat → Option Nat) (l : List (Nat × MSpan)) : List MFault :=
  l.filterMap fun p => match p.2 with
    | .fault f => some f
    | .span a => lineFault outs nb val p.1 a
    | .supp => none
/-- Spans of the members that do not trap. -/
def goodSpans (outs : List (Nat × Outcome)) (nb : Nat) (l : List (Nat × Nat)) : List (Nat × Nat) :=
  l.filter fun p => (lineFault outs nb (fun _ => none) p.1 p.2).isNone

/-- A block of 128 bytes of stage memory as a line of a load. -/
def stageLine (s : State) (rcd : BitVec 128) (cr : Crew) (core l : Nat) : LoadLine :=
  { va := l, data := Tab.getRun 0 s.stage (stagePlace rcd cr core (128 * l)) 128 }

/-- LD after its checks (R452-R454). -/
def ldBody (i : Instr) (v ix k off w : Nat) (s : State) (key : Nat) : State :=
  let c := s.convoy key
  let cr := s.crew c.crew
  let rcd := s.record key k
  let nb := 2^w
  let regs := lmRegs w
  let none? : Nat → Option Nat := fun _ => none
  let ms := c.keys.map fun t => (t, memberSpan s key rcd ix off nb (lmAlign nb) none? t)
  let spans := spansOf ms
  let s1 := zeroSuppressed (chargeIssue s key (s.weights.ofMem c.members.length)) (suppOf ms) v regs true
  let base : Load :=
    { id := 0, who := default, convoy := key, crew := c.crew, core := c.core, ctx := cr.ctx, vd := (s.ctx cr.ctx).vd, first := v, regs,
      nbytes := nb, pol := recPol rcd, issued := s.cycle c.core, pc := c.pc, w0 := encode0 i, two := false }
  let add (x : State) (lines : List LoadLine) (p : Nat × Nat) : State :=
    addLoad x { base with held := lines.any LoadLine.waits, who := whoOf x p.1, va := p.2, lines := lines.filter fun y => (spanLines p.2 nb).contains y.va,
                          old := (List.range regs).map fun j => some ((x.thread p.1).reg (v + j)) }
  if counterFull s key Thread.ocl 1 then s
  else if recSpace rcd = 0 then
    let r := translateLines s1 c.core cr.ctx c.crew false (allLines nb spans)
    let good := goodSpans r.2 nb spans
    let lines := allLines nb good
    if walkWaits r.2 then (translateLines s c.core cr.ctx c.crew false (allLines nb spans)).1
    else if lines.any fun l => atomHolds s c.core (outcomeOf r.2 l) then s
    else
      let q := loadLines r.1 c.core cr.ctx c.crew base.vd base.pol nb r.2 good lines
      finish (good.foldl (fun x p => add x q.2 p) q.1) key i (faultsOf r.2 nb none? ms)
  else
    let lines := allLines nb spans
    let s2 := if lines.isEmpty then s1 else chargeCore s1 c.core c.crew (s.weights.stage * lines.length)
    let ls := lines.map (stageLine s rcd cr c.core)
    finish (spans.foldl (fun x p => add x ls p) s2) key i (faultsOf [] nb none? (ms.map fun p =>
      match p.2 with | .span _ => (p.1, .supp) | _ => p))

/-- RECORD_INVALID (R91). -/
def recCheck (k : Nat) (write : Bool) (s : State) (key : Nat) : Option Nat :=
  if recInvalid (s.record key k) (s.crewOf key).cluster write then some 0x012 else none

def lmToll (w : Nat) : Nat := if 4 ≤ w then 1 else 0

def execLd (v i k o w : Nat) (s : State) : Result :=
  .next (gated (.ld v i k o w) (lmToll w) legal (recCheck k false) (ldBody (.ld v i k o w) v i k o w) s)

/-! ### Completion of loads (07 R194, R195) -/

/-- Younger loads of the thread see the value written as the old value of that register (R454). -/
def settleOld (s : State) (w : Who) (id r : Nat) (x : DWord) : State :=
  let upd (l : Load) : Load :=
    if l.who == w && decide (id < l.id) && decide (l.first ≤ r) && decide (r < l.first + l.regs)
    then { l with old := l.old.modify (r - l.first) fun y => y.map fun _ => x } else l
  { s with flight := { s.flight with loads := s.flight.loads.map upd } }

/-- Delivers register j of a load, where no later load has written it (R454). -/
def deliverReg (s : State) (l : Load) (j : Nat) : State :=
  match (l.old[j]?).join with
  | none => s
  | some old =>
    let t := s.thread l.who.key
    let x := (l.values[j]?).getD 0
    let t' := deliver s.fresh t (l.first + j) old x
    let s1 := (s.setThread l.who.key t').bump
    if t'.reg (l.first + j) = x then settleOld s1 l.who l.id (l.first + j) x else s1

/-- An older load of the thread is still in flight. -/
def olderLoad (s : State) (l : Load) : Bool := s.flight.loads.any fun x => x.who == l.who && decide (x.id < l.id)

/-- A load leaves flight: OCL falls, a row that waited for it may free, the thread's next load may complete. -/
def retireLoad (s : State) (l : Load) : State :=
  let s1 := { s with flight := { s.flight with loads := s.flight.loads.filter fun x => x.id != l.id } }
  let t := s1.thread l.who.key
  let s2 := if alive s1 l.who then s1.setThread l.who.key { t with ocl := t.ocl - 1 } else s1
  let s3 := if t.state = .exiting then s2.post [.rowFree l.who.key] else s2
  match s3.flight.loads.find? fun x => x.who == l.who with
  | some x => if x.ready then s3.post [.loadComplete x.id 0] else s3
  | none => s3

/-- Bytes of register j are fixed. -/
def Load.regReady (l : Load) (j : Nat) : Bool :=
  let lo := l.va + 8 * j
  [lo / 128, (lo + 7) / 128].all fun n => l.lines.any fun x => x.va == n && !x.data.isEmpty

/-- LLAT of a load: core cycles from its issue to the return of its last byte (R452). -/
def Load.latency (l : Load) (now : Nat) : Nat := min (l.back.getD now - l.issued) 0xFFFFFFFF

/-- Every register of a load is written, and a LD's LLAT (R452, 03 R95). -/
def deliverAll (s : State) (l : Load) : State :=
  let s2 := (List.range l.regs).foldl (fun x j => deliverReg x l j) s
  let t := s2.thread l.who.key
  if l.atom then s2 else s2.setThread l.who.key { t with llat := l.latency (s.cycle l.core) }

/-- LOAD_COMPLETE: part 0 is the completion, in issue order; part p > 0 is register p − 1 returning early (R194, R195), which no register
of a held load does (06 R156). -/
def execLoadComplete (id part : Nat) (s : State) : Result :=
  .next (match s.flight.loads.find? fun l => l.id == id with
    | none => s
    | some l =>
      if part = 0 then
        if l.ready && !olderLoad s l then
          retireLoad (if alive s l.who then deliverAll s l else s) l
        else s
      else if 1 < l.regs && !l.held && decide (part ≤ l.regs) && l.regReady (part - 1) && alive s l.who then deliverReg s l (part - 1)
      else s)

/-- Loads of a context that met poison or a tag failure end without writing a register (11 R311). -/
def dropLoads (s : State) (p : Load → Bool) : State :=
  (s.flight.loads.filter p).foldl retireLoad s

/-- The data of a request reaches its loads: full completions and early registers follow. -/
def fixLine (s : State) (rid : Nat) (data : List Byte) : State :=
  let hit := s.flight.loads.filter fun l => l.lines.any fun x => x.rid == rid
  let upd (l : Load) : Load :=
    Load.noteBack { l with lines := l.lines.map fun x => if x.rid == rid then { x with rid := 0, data } else x } (s.cycle l.core)
  let s1 := { s with flight := { s.flight with loads := s.flight.loads.map upd } }
  s1.post (hit.flatMap fun l =>
    match s1.flight.loads.find? fun x => x.id == l.id with
    | none => []
    | some y => if y.ready then [Instr.loadComplete y.id 0]
                else if y.held then []
                else ((List.range y.regs).filter fun j => y.regReady j).map fun j => .loadComplete y.id (j + 1))

/-- MSC_SERVE: the request is served at its slice, the host or the peer, in the order of issue (R162, R166); one that misses asks for its tile's
transfer, and is served when that has ended (11 R315). -/
def execMscServe (id : Nat) (s : State) : Result :=
  .next (match s.flight.reqs.find? fun r => r.id == id with
    | none => s
    | some r =>
      let place := placeOf r.pa
      let line := r.pa / 128
      let gone (x : State) : State := wakeNext { x with flight := { x.flight with reqs := x.flight.reqs.filter fun y => y.id != id } } r.core place
      let fail (x : State) : State := dropLoads (gone x) fun l => l.lines.any fun y => y.rid == id
      let src : FaultRec := match s.flight.loads.find? fun l => l.lines.any fun y => y.rid == id with
        | some l => threadRec s r.core r.crew l.who l.pc l.va l.w0
        | none => { code := 0, core := r.core, traddr := r.va }
      if olderAt s r.core place id then s
      else if usable r.pa then
        let q := sliceAccess s { pa := r.pa, vd := r.vd, acct := r.ctx, crew := r.crew, ctx := [r.ctx], core := some r.core, pol := r.pol,
                                 cluster := some (r.core / 2), src, who := .access id, fill := if r.fetch = .here then .done else .ask id }
        match q.2 with
        | .wait => waitAt q.1 place id
        | .fetching => q.1
        | .refused => fail (contextFault q.1 r.ctx { src with code := gradeD 0x022 })
        | .failed => fail q.1
        | .ok =>
          let data := l1Merged q.1 r.core line r.vd r.pol (q.1.readBytes r.pa 128)
          gone (fixLine (l1Fill q.1 r.core line r.vd r.mark data) id data)
      else if isPeer r.pa then
        let q := peerRequest s r.ctx r.crew (some r.core) r.pa 1 false src
        match q.2 with
        | .ok => gone (fixLine q.1 id (q.1.readBytes r.pa 128))
        | .wait => waitAt s place id
        | _ => fail q.1
      else gone (fixLine s id (s.readBytes r.pa 128)))

/-! ### Order in which OCS falls (07 R195) -/

/-- Numbers of a thread's store lines and atomics without return that are still to be performed. -/
def openStores (s : State) (w : Who) : List Nat :=
  (s.flight.stores.filter fun x => x.whos.contains w).map (·.id)
    ++ (s.flight.atoms.filter fun a => !a.ret && (a.parts.any fun p => p.who == w)).map (·.id)
    ++ s.cores.flatMap fun p => (p.2.sideLog.filter fun e => e.lanes.contains w).map (·.id)

/-- OCS falls for performed lines with no older one still open. -/
def settleAcks (s : State) : State :=
  let free (a : Who × Nat) : Bool := (openStores s a.1).all fun n => decide (a.2 < n)
  let done := s.flight.acks.filter free
  let s1 := { s with flight := { s.flight with acks := s.flight.acks.filter fun a => !free a } }
  done.foldl (fun x a =>
    if alive x a.1 then let t := x.thread a.1.key; x.setThread a.1.key { t with ocs := t.ocs - 1 } else x) s1

def retireStore (s : State) (ws : List Who) (id : Nat) : State :=
  settleAcks { s with flight := { s.flight with acks := s.flight.acks ++ ws.map fun w => (w, id) } }

/-! ### Kicks (12 R333, R334) -/

/-- Translation of KICKVA through the queue's context, by a walk of class 3: the kick word, or the graded cause. -/
def kickTranslate (s : State) (vd ctx va : Nat) : State × Sum Nat Nat :=
  let r := walk s { ctx, cls := 3, acct := ctx } va
  (r.1, match walkOutcome r.2 va false false with
  | .ok pa => if usable pa && (s.ownerOf (pa / 4096)).owner == vd + 1 then .inr pa else .inl (gradeD 0x022)
  | .trap c => .inl (if c = 0x023 then gradeB c else gradeD c)
  | _ => .inl (gradeD 0x020))

/-- Slots of a queue's rings. -/
def Queue.slots (q : Queue) : Nat := 16 * 2^q.size

/-- A kick write (R334): whole or not at all; dropped in CONFIG_LOCKED (R331). -/
def kickWrite (s : State) (key val : Nat) : State :=
  let q := s.queue key
  let tail : BitVec 32 := BitVec.ofNat 32 val
  if field val 32 31 ≠ 0 ∨ q.slots < (tail - q.head).toNat ∨ (s.vd (key / 64)).tstate = .locked then s
  else
    let q1 := { q with tail }
    let r : State × Queue := if val.testBit 63 && q.fault != 0 then
        if q.kickFault then
          let w := kickTranslate s (key / 64) q.ctx q.kickva
          (w.1, match w.2 with
            | .inr pa => { q1 with fault := 0, kickFault := false, kickPa := some pa }
            | .inl c => { q1 with fault := c })
        else (s, { q1 with fault := 0 })
      else (s, q1)
    (raiseSignal (r.1.setQueue key r.2) (procOfVd (key / 64)) (key / 64 / 8)).post [.fetchSlot (key / 64) (key % 64)]

/-- A 64-bit store performed at the kick words of queues is a kick write with the stored value (R334). -/
def storeKick (s : State) (pa val : Nat) : State :=
  ((s.queues.filter fun p => p.2.en && p.2.kickPa == some pa).map (·.1)).foldl (fun x k => kickWrite x k val) s

/-- Writes single bytes of memory. -/
def writeSparse (s : State) (bytes : List (Nat × Byte)) : State :=
  { s with mem := bytes.foldl (fun m b => Tab.set 0 b.1 b.2 m) s.mem }

/-- Kicks of the 64-bit words that a performed line holds. -/
def lineKicks (s : State) (width : Nat) (bytes : List (Nat × Byte)) : State :=
  if width ≠ 8 then s
  else ((bytes.filter fun b => b.1 % 8 == 0).map (·.1)).foldl (fun x pa => storeKick x pa (x.readNat pa 8)) s

/-! ### Stores -/

/-- Data of a member's ST. -/
def storeData (t : Thread) (v w : Nat) : Nat :=
  let n := lmRegs w
  if n = 1 then (t.reg v).toNat % 2^(8 * 2^w)
  else (List.range n).foldr (fun j a => (t.reg (v + j)).toNat + 2^64 * a) 0

/-- Bytes of a line merged over the members in ascending lane order (R157): the highest lane stands. -/
def mergeLine (spans : List (Nat × Nat)) (nb l : Nat) (data : Nat → Nat) : List (Nat × Byte) :=
  spans.foldl (fun m p =>
    if (spanLines p.2 nb).contains l then
      let r := inLine p.2 nb l
      (List.range r.2).foldl (fun m n => Tab.insert (r.1 + n) (BitVec.ofNat 8 (data p.1 / 2^(8 * (128 * l + r.1 + n - p.2)))) m) m
    else m) []

/-- Members whose span touches a line. -/
def onLine (s : State) (spans : List (Nat × Nat)) (nb l : Nat) : List Who :=
  (spans.filter fun p => (spanLines p.2 nb).contains l).map fun p => whoOf s p.1

def countOcs (s : State) (ws : List Who) : State :=
  ws.foldl (fun x w => let t := x.thread w.key; x.setThread w.key { t with ocs := t.ocs + 1 }) s

def pushSide (s : State) (core : Nat) (e : SideEntry) : State :=
  let c := s.core core
  (s.setCore core { c with sideLog := c.sideLog ++ [{ e with id := s.key }] }).bump

def pushStore (s : State) (x : Store) : State :=
  ({ s with flight := { s.flight with stores := s.flight.stores ++ [{ x with id := s.key }] } }.bump).post [.storePerformed s.key]

/-- A line of a store or of an atomic with N = 1 that must enter the side log (R179). -/
def mustLog (s : State) (ctx : Nat) (outs : List (Nat × Outcome)) (l : Nat) : Bool := !isOk (outcomeOf outs l) || pendingSide s ctx l

/-- The side log cannot take these lines (R179). -/
def sideLogFull (s : State) (core ctx : Nat) (outs : List (Nat × Outcome)) (lines : List Nat) : Bool :=
  let new := lines.filter (mustLog s ctx outs)
  !new.isEmpty && decide (64 < (s.core core).sideLog.length + new.length)

/-- The request that a side-logged line sends. -/
def logRequest (s : State) (core ctx kind : Nat) (outs : List (Nat × Outcome)) (l : Nat) : State :=
  match outcomeOf outs l with
  | .ok _ => s
  | o => pageRequest s ctx (128 * l) kind (o == .hold) core

/-- One line of a ST (R156, R161, R179): to device memory it is written through the L1, which is charged, and its request counts at the
slice (17 R492). -/
def storeLine (s : State) (c : Convoy) (ctx vd pol nb : Nat) (outs : List (Nat × Outcome)) (spans : List (Nat × Nat)) (data : Nat → Nat)
    (log : Bool) (l : Nat) : State :=
  let bytes := mergeLine spans nb l data
  let ws := onLine s spans nb l
  let s1 := countOcs s ws
  if log then
    pushSide (logRequest s1 c.core ctx 1 outs l) c.core { ctx, crew := c.crew, va := 128 * l, bytes, width := nb, lanes := ws }
  else
    let pa := okPa (outcomeOf outs l)
    let s2 := if usable pa then
        chargeFor (l1Store s1 c.core (pa / 128) vd pol bytes) ctx c.crew s.weights.l1 (c.core / 2) (some c.core)
      else s1
    pushStore s2 { id := 0, whos := ws, core := c.core, ctx, vd, pa, pol, crew := c.crew, width := nb, va := 128 * l, pc := c.pc,
                   bytes := bytes.map fun b => (pa + b.1, b.2) }

/-- ST after its checks (R490-R492). -/
def stBody (i : Instr) (v ix k off w : Nat) (s : State) (key : Nat) : State :=
  let c := s.convoy key
  let cr := s.crew c.crew
  let rcd := s.record key k
  let nb := 2^w
  let data (t : Nat) : Nat := storeData (s.thread t) v w
  let val (t : Nat) : Option Nat := some (data t % 2^64)
  let ms := c.keys.map fun t => (t, memberSpan s key rcd ix off nb (lmAlign nb) val t)
  let spans := spansOf ms
  let vd := (s.ctx cr.ctx).vd
  let s1 := chargeIssue s key (s.weights.ofMem c.members.length)
  if counterFull s key Thread.ocs (if 5 ≤ w then 2 else 1) then s
  else if recSpace rcd = 0 then
    let r := translateLines s1 c.core cr.ctx c.crew true (allLines nb spans)
    let good := goodSpans r.2 nb spans
    let lines := allLines nb good
    if walkWaits r.2 then (translateLines s c.core cr.ctx c.crew true (allLines nb spans)).1
    else if lines.any fun l => atomHolds s c.core (outcomeOf r.2 l) then s
    else if sideLogFull s c.core cr.ctx r.2 lines then holdAt s key (.sideFull i)
    else
      finish (lines.foldl (fun x l => storeLine x c cr.ctx vd (recPol rcd) nb r.2 good data (mustLog s cr.ctx r.2 l) l) r.1) key i
        (faultsOf r.2 nb val ms)
  else
    let lines := allLines nb spans
    let s2 := if lines.isEmpty then s1 else chargeCore s1 c.core c.crew (s.weights.stage * lines.length)
    let s3 := lines.foldl (fun x l =>
      let base := stagePlace rcd cr c.core (128 * l)
      let ws := onLine x spans nb l
      let x1 := { x with stage := (mergeLine spans nb l data).foldl (fun m b => Tab.set 0 (base + b.1) b.2 m) x.stage }
      pushStore (countOcs x1 ws) { id := 0, whos := ws, core := c.core, ctx := cr.ctx, stage := true, crew := c.crew }) s2
    finish s3 key i (faultsOf [] nb val (ms.map fun p => match p.2 with | .span _ => (p.1, .supp) | _ => p))

def execSt (v i k o w : Nat) (s : State) : Result :=
  .next (gated (.st v i k o w) (lmToll w) legal (recCheck k true) (stBody (.st v i k o w) v i k o w) s)

/-- STORE_PERFORMED: the line is written at its slice, the host or the peer, in the order of issue (R162, R189). -/
def execStorePerformed (id : Nat) (s : State) : Result :=
  .next (match s.flight.stores.find? fun x => x.id == id with
    | none => s
    | some x =>
      let gone (y : State) : State := { y with flight := { y.flight with stores := y.flight.stores.filter fun z => z.id != id } }
      if x.stage then retireStore (gone s) x.whos id
      else
        let place := placeOf x.pa
        let fin (y : State) : State := retireStore (wakeNext (gone y) x.core place) x.whos id
        let src : FaultRec := match x.whos with
          | w :: _ => threadRec s x.core x.crew w x.pc x.va 0
          | [] => { code := 0, core := x.core, traddr := x.va }
        if olderAt s x.core place id then s
        else if usable x.pa then
          let q := sliceAccess s { pa := x.pa, kind := 1, vd := x.vd, acct := x.ctx, crew := x.crew, ctx := [x.ctx], core := some x.core,
                                   pol := x.pol, cluster := some (x.core / 2), src, who := .access id }
          match q.2 with
          | .refused => fin (contextFault q.1 x.ctx { src with code := gradeD 0x022 })
          | .failed => fin q.1
          | .ok => fin (lineKicks (writeSparse q.1 x.bytes) x.width x.bytes)
          | _ => waitAt q.1 place id
        else if isPeer x.pa then
          let q := peerRequest s x.ctx x.crew (some x.core) x.pa 2 true src
          match q.2 with
          | .ok => fin (writeSparse q.1 x.bytes)
          | .wait => waitAt s place id
          | _ => fin q.1
        else fin (writeSparse s x.bytes))

/-! ### Atomics -/

/-- The new value, none where a failing ACAS writes nothing (R396); old, s, cmp are w-bit. -/
def atomNew (op : AtomOp) (old s cmp : Nat) : Option Nat :=
  let w := if op.w64 then 64 else 32
  match op.aop with
  | 0 => some ((old + s) % 2^w)
  | 1 => some (old &&& s)
  | 2 => some (old ||| s)
  | 3 => some (old ^^^ s)
  | 4 => some (if signed w s < signed w old then s else old)
  | 5 => some (if signed w old < signed w s then s else old)
  | 6 => some (min s old)
  | 7 => some (max s old)
  | 8 => some s
  | 9 => if old = cmp then some s else none
  | _ =>
    let f := Fmt.ofWord op.fmt
    let m := noRsr op.rmode
    some (encodeVal f (roundVal f m op.sat 0 (sumVals m [decodeVal f old, decodeVal f s])))

def atomBytes (op : AtomOp) : Nat := if op.w64 then 8 else 4

/-- Members' operations on a byte table, in ascending lane order (R158): the bytes, the replaced values, the places written. -/
def atomFold (op : AtomOp) (parts : List AtomPart) (place : AtomPart → Nat) (mem : Tab Byte) :
    Tab Byte × List (Who × Nat) × List (Nat × Nat) :=
  let n := atomBytes op
  parts.foldl (fun (a : Tab Byte × List (Who × Nat) × List (Nat × Nat)) p =>
    let old := leNat (Tab.getRun 0 a.1 (place p) n)
    match atomNew op old (p.s.toNat % 2^(8 * n)) (p.cmp.toNat % 2^(8 * n)) with
    | none => (a.1, a.2.1 ++ [(p.who, old)], a.2.2)
    | some x => (Tab.setRun 0 (place p) (leBytes x n) a.1, a.2.1 ++ [(p.who, old)], a.2.2 ++ [(place p, x)])) (mem, [], [])

/-- The load of a member of an atomic with return. -/
def Load.isOf (l : Load) (aid : Nat) (w : Who) : Bool := l.atom && l.aid == aid && l.who == w

/-- Replaced values reach the loads of an atomic with return (R158, R397). -/
def atomValues (s : State) (aid : Nat) (vals : List (Who × Nat)) : State :=
  vals.foldl (fun x p =>
    match x.flight.loads.find? fun l => l.isOf aid p.1 && l.value.isNone with
    | none => x
    | some l =>
      let upd (y : Load) : Load := if y.id == l.id then { y with value := some (BitVec.ofNat 64 p.2) } else y
      ({ x with flight := { x.flight with loads := x.flight.loads.map upd } }).post [.loadComplete l.id 0]) s

/-- Parts of an atomic leave flight once performed: values or OCS; the rest follows. -/
def atomDone (s : State) (a : Atom) (mine : List AtomPart) (vals : List (Who × Nat)) : State :=
  let rest := a.parts.filter fun p => !mine.contains p
  let atoms := if rest.isEmpty && a.deferred.isEmpty then s.flight.atoms.filter fun x => x.id != a.id
    else s.flight.atoms.map fun x => if x.id == a.id then { a with parts := rest } else x
  let s1 := { s with flight := { s.flight with atoms } }
  let s2 := if a.ret then atomValues s1 a.id vals else retireStore s1 (mine.map (·.who)) a.id
  if rest.isEmpty then s2 else s2.post [.atomicPerformed a.id]

/-- Parts whose access was refused: their loads end without writing. -/
def atomFail (s : State) (a : Atom) (mine : List AtomPart) : State :=
  let s1 := atomDone s { a with ret := false } mine []
  if a.ret then dropLoads s1 fun l => l.value.isNone && mine.any fun p => l.isOf a.id p.who else s1

/-- Words of its line that an atomic's parts touch. -/
def atomWords (mine : List AtomPart) (n : Nat) : BitVec 32 := mine.foldl (fun m p => m ||| wordMask (p.addr % 128) n) 0

/-- The L1 holds every word of the line at `pa` that a core-scope atomic touches. -/
def atomHits (s : State) (a : Atom) (mine : List AtomPart) (pa : Nat) : Bool :=
  match s.l1 a.core (pa / 128) a.vd with
  | some l => atomWords mine (atomBytes a.op) &&& ~~~l.valid == 0
  | none => false

/-- A core-scope atomic on a line that the L1 holds (R163): the replaced values, and the write-through of what it has written. -/
def performInL1 (s : State) (a : Atom) (mine : List AtomPart) (pa va : Nat) : State × List (Who × Nat) :=
  let line := pa / 128
  let n := atomBytes a.op
  let l := (s.l1 a.core line a.vd).getD {}
  let tab : Tab Byte := (List.range 128).map fun i => (i, l.data[i]?.getD 0)
  let r := atomFold a.op mine (fun p => p.addr % 128) tab
  let data := (List.range 128).map fun i => Tab.get 0 r.1 i
  let x1 := chargeFor (s.setL1 a.core line a.vd { l with data }) a.ctx a.crew s.weights.l1 (a.core / 2) (some a.core)
  let bytes := r.2.2.flatMap fun p => (List.range n).map fun i => (128 * line + p.1 + i, Tab.get 0 r.1 (p.1 + i))
  (if bytes.isEmpty then x1
   else pushStore x1 { id := 0, core := a.core, ctx := a.ctx, vd := a.vd, pa := 128 * line, pol := a.pol, crew := a.crew, width := n, bytes,
                       va, pc := a.pc, ofAtom := a.id }, r.2.1)

/-- The whole fill of its line, whatever the policy, where a word that it touches is invalid (R163). -/
def fillForAtom (s : State) (a : Atom) (pa : Nat) (src : FaultRec) : State × SliceOut :=
  let line := pa / 128
  let q := sliceAccess (l1Alloc s a.core line a.vd)
    { pa := 128 * line, vd := a.vd, acct := a.ctx, crew := a.crew, ctx := [a.ctx], core := some a.core, pol := a.pol, cluster := some (a.core / 2), src,
      who := .access a.id }
  match q.2 with
  | .ok => (l1Fill q.1 a.core line a.vd (BitVec.allOnes 32) (q.1.readBytes (128 * line) 128), .ok)
  | o => (q.1, o)

/-- A core-scope atomic in the L1 (R163): the line is filled whole where a word it touches is invalid; then the write-through. -/
def atomInL1 (s : State) (a : Atom) (mine : List AtomPart) (pa : Nat) (src : FaultRec) : State :=
  let place := placeOf pa
  let perform (x : State) : State :=
    let r := performInL1 x a mine pa src.traddr
    wakeNext (atomDone r.1 a mine r.2) a.core place
  if atomHits s a mine pa then perform s
  else if olderAt s a.core place a.id then s
  else
    let q := fillForAtom s a pa src
    match q.2 with
    | .ok => perform q.1
    | .refused => wakeNext (atomFail (contextFault q.1 a.ctx { src with code := gradeD 0x022 }) a mine) a.core place
    | .failed => wakeNext (atomFail q.1 a mine) a.core place
    | _ => waitAt q.1 place a.id

/-- ATOMIC_PERFORMED: the operations on the line of the first member still to act, at their place (R163, R165, R397, R401). -/
def execAtomicPerformed (id : Nat) (s : State) : Result :=
  .next (match s.flight.atoms.find? fun a => a.id == id with
    | none => s
    | some a =>
      match a.parts with
      | [] => s
      | p :: _ =>
        let mine := a.parts.filter fun x => x.addr / 128 == p.addr / 128
        let place := placeOf p.addr
        let n := atomBytes a.op
        let src := threadRec s a.core a.crew p.who a.pc p.va a.w0
        if a.stage then
          let r := atomFold a.op mine AtomPart.addr s.stage
          atomDone (chargeFor { s with stage := r.1 } a.ctx a.crew s.weights.stage (a.core / 2) (some a.core)) a mine r.2.1
        else if a.scope = 0 && usable p.addr then atomInL1 s a mine p.addr src
        else if olderAt s a.core place id then s
        else
          let perform (x : State) : State :=
            let r := atomFold a.op mine AtomPart.addr x.mem
            let x1 := { x with mem := r.1 }
            let x2 := if usable p.addr then mine.foldl (fun y m => l1InvalidateBytes y a.core m.addr n) x1 else x1
            let x3 := if n = 8 && usable p.addr then r.2.2.foldl (fun y m => storeKick y m.1 m.2) x2 else x2
            wakeNext (atomDone x3 a mine r.2.1) a.core place
          if usable p.addr then
            let q := sliceAccess s { pa := p.addr, kind := 2, vd := a.vd, acct := a.ctx, crew := a.crew, ctx := [a.ctx], core := some a.core,
                                     pol := a.pol, cluster := some (a.core / 2), src, who := .access id }
            match q.2 with
            | .refused => wakeNext (atomFail (contextFault q.1 a.ctx { src with code := gradeD 0x022 }) a mine) a.core place
            | .failed => wakeNext (atomFail q.1 a mine) a.core place
            | .ok => perform q.1
            | _ => waitAt q.1 place id
          else if isPeer p.addr then
            let q := peerRequest s a.ctx a.crew (some a.core) p.addr 2 true src
            match q.2 with
            | .ok => perform q.1
            | .wait => waitAt s place id
            | _ => wakeNext (atomFail q.1 a mine) a.core place
          else perform s)

/-- Checks of R399: the record, then AFADD's. -/
def atomCheck (k aop f : Nat) (s : State) (key : Nat) : Option Nat :=
  match recCheck k true s key with
  | some c => some c
  | none =>
    if aop = 10 then
      match formatCheck [f] [f] s key with
      | some c => some c
      | none => if (s.crewRun (s.convoy key).crew).det then some 0x100 else none
    else none

/-- AFADD's entry must have the access width, where it is valid (R374 step 4). -/
def atomIllegal (aop f w : Nat) (s : State) (key : Nat) : Bool :=
  let e := (s.crewOf key).fmt f
  aop == 10 && e.v && e.width != (if w = 1 then 64 else 32)

/-- An atomic after its checks (R158, R163, R179, R201, R397-R400). -/
def atomBody (i : Instr) (aop v ix k sr w scope order f n : Nat) (s : State) (key : Nat) : State :=
  let c := s.convoy key
  let cr := s.crew c.crew
  let rcd := s.record key k
  let nb := if w = 1 then 8 else 4
  let vd := (s.ctx cr.ctx).vd
  let op : AtomOp := { aop, w64 := w == 1, fmt := Tab.get 0 cr.f f, rmode := cr.mode f, sat := cr.sat f }
  let none? : Nat → Option Nat := fun _ => none
  let ms := c.keys.map fun t => (t, memberSpan s key rcd ix 0 nb nb none? t)
  let spans := spansOf ms
  let ret := n == 0
  let part (addr : Nat → Nat) (p : Nat × Nat) : AtomPart :=
    { who := whoOf s p.1, va := p.2, addr := addr p.2, s := (s.thread p.1).reg sr, cmp := (s.thread p.1).reg v }
  let s0 := chargeIssue s key (s.weights.ofMem c.members.length)
  let s1 := if ret then zeroSuppressed s0 (suppOf ms) v 1 false else s0
  let base : Atom :=
    { id := 0, convoy := key, crew := c.crew, core := c.core, ctx := cr.ctx, vd, op, scope, order, ret, reg := v, pol := recPol rcd,
      pc := c.pc, w0 := encode0 i, two := true }
  let addAtom (x : State) (a : Atom) : State :=
    ({ x with flight := { x.flight with atoms := x.flight.atoms ++ [{ a with id := x.key }] } }.bump).post
      (if a.parts.isEmpty then [] else [.atomicPerformed x.key])
  let addLd (aid : Nat) (held : Bool) (x : State) (p : Nat × Nat) : State :=
    addLoad x { id := 0, aid, held, who := whoOf x p.1, convoy := key, crew := c.crew, core := c.core, ctx := cr.ctx, vd, first := v, regs := 1,
                nbytes := nb, va := p.2, issued := s.cycle c.core, atom := true, old := [some ((x.thread p.1).reg v)],
                pc := c.pc, w0 := encode0 i, two := true }
  let acq (x : State) : State :=
    if order = 1 ∨ order = 3 then let y := x.convoy key; if y.members.isEmpty then x else x.setConvoy key { y with acq := some scope } else x
  if counterFull s key (if ret then Thread.ocl else Thread.ocs) 1 then s
  else if 2 ≤ order && !released s key c.keys scope true true false false then holdSince s key (.on i)
  else if recSpace rcd = 0 then
    let r := translateLines s1 c.core cr.ctx c.crew true (allLines nb spans)
    let good := goodSpans r.2 nb spans
    let lines := allLines nb good
    let fs := faultsOf r.2 nb none? ms
    let held (p : Nat × Nat) : Bool := mustLog s cr.ctx r.2 (p.2 / 128)
    let pa (a : Nat) : Nat := okPa (outcomeOf r.2 (a / 128)) + a % 128
    let now := good.filter fun p => !held p
    let later := good.filter held
    if walkWaits r.2 then (translateLines s c.core cr.ctx c.crew true (allLines nb spans)).1
    else if lines.any fun l => atomHolds s c.core (outcomeOf r.2 l) then s
    else if !ret && sideLogFull s c.core cr.ctx r.2 lines then holdAt s key (.sideFull i)
    else
      let s2 := if now.isEmpty then r.1 else addAtom r.1 { base with parts := now.map (part pa) }
      let s3 := if scope = 0 then s2 else now.foldl (fun x p => if usable (pa p.2) then l1InvalidateBytes x c.core (pa p.2) nb else x) s2
      if ret then
        let s4 := (allLines nb later).foldl (fun x l => logRequest x c.core cr.ctx 2 r.2 l) s3
        let s5 := if later.isEmpty then s4 else addAtom s4 { base with deferred := later.map (part fun _ => 0) }
        acq (finish (good.foldl (fun x p => addLd (if held p then s4.key else r.1.key) (!later.isEmpty) x p) s5) key i fs)
      else
        let s4 := countOcs s3 (good.map fun p => whoOf s p.1)
        let s5 := (allLines nb later).foldl (fun x l =>
          let ps := later.filter fun p => p.2 / 128 == l
          pushSide (logRequest x c.core cr.ctx 2 r.2 l) c.core
            { ctx := cr.ctx, crew := (s.convoy key).crew, va := 128 * l, width := nb, atom := some op, scope, order, parts := ps.map (part fun a => a % 128),
              lanes := ps.map fun p => whoOf s p.1 }) s4
        acq (finish s5 key i fs)
  else
    let place (a : Nat) : Nat := stagePlace rcd cr c.core a
    let s2 := if spans.isEmpty then s1 else addAtom s1 { base with stage := true, parts := spans.map (part place) }
    let s3 := if ret then spans.foldl (addLd s1.key false) s2 else countOcs s2 (spans.map fun p => whoOf s p.1)
    acq (finish s3 key i (faultsOf [] nb none? (ms.map fun p => match p.2 with | .span _ => (p.1, .supp) | _ => p)))

/-- One atomic of the table. -/
def atomic (i : Instr) (aop v ix k sr w scope order f n : Nat) (s : State) : State :=
  gated i 1 (atomIllegal aop f w) (atomCheck k aop f) (atomBody i aop v ix k sr w scope order f n) s

def execAadd (v i k sr w scope order n : Nat) (s : State) : Result := .next (atomic (.aadd v i k sr w scope order n) 0 v i k sr w scope order 0 n s)
def execAand (v i k sr w scope order n : Nat) (s : State) : Result := .next (atomic (.aand v i k sr w scope order n) 1 v i k sr w scope order 0 n s)
def execAor (v i k sr w scope order n : Nat) (s : State) : Result := .next (atomic (.aor v i k sr w scope order n) 2 v i k sr w scope order 0 n s)
def execAxor (v i k sr w scope order n : Nat) (s : State) : Result := .next (atomic (.axor v i k sr w scope order n) 3 v i k sr w scope order 0 n s)
def execAmin (v i k sr w scope order n : Nat) (s : State) : Result := .next (atomic (.amin v i k sr w scope order n) 4 v i k sr w scope order 0 n s)
def execAmax (v i k sr w scope order n : Nat) (s : State) : Result := .next (atomic (.amax v i k sr w scope order n) 5 v i k sr w scope order 0 n s)
def execAminu (v i k sr w scope order n : Nat) (s : State) : Result := .next (atomic (.aminu v i k sr w scope order n) 6 v i k sr w scope order 0 n s)
def execAmaxu (v i k sr w scope order n : Nat) (s : State) : Result := .next (atomic (.amaxu v i k sr w scope order n) 7 v i k sr w scope order 0 n s)
def execAxchg (v i k sr w scope order n : Nat) (s : State) : Result := .next (atomic (.axchg v i k sr w scope order n) 8 v i k sr w scope order 0 n s)
def execAcas (v i k sr w scope order n : Nat) (s : State) : Result := .next (atomic (.acas v i k sr w scope order n) 9 v i k sr w scope order 0 n s)
def execAfadd (v i k sr w scope order f n : Nat) (s : State) : Result :=
  .next (atomic (.afadd v i k sr w scope order f n) 10 v i k sr w scope order f n s)

/-! ### Replays (06 R156, R178-R182) -/

/-- Traps met by the replay of a held load or atomic: their accesses end, and the members trap in one TrapEntry (R284). -/
def lateTraps (s : State) (fs : List (Load × MFault)) : State :=
  match fs with
  | [] => s
  | (l, _) :: _ =>
    let s1 := fs.foldl (fun x p => retireLoad x p.1) s
    let keys := (s1.convoy l.convoy).keys
    trapEntry s1 l.convoy { w0 := l.w0, two := l.two } l.pc ((fs.filter fun p => keys.contains p.2.key && alive s1 p.1.who).map (·.2))

/-- The fault of a member whose line met a cause. -/
def lineTrap (l : Load) (line cause : Nat) : MFault :=
  { key := l.who.key, cause, addr := l.va, idx := (max (128 * line) l.va - l.va) / 8, fatal := cause == 0x023 }

/-- One line of a convoy's held loads after its translation. -/
def retryLine (ctx k : Nat) (outs : List (Nat × Outcome)) (s : State) (n : Nat) : State :=
  let mine (l : Load) : Bool := l.convoy == k && l.ctx == ctx && !l.atom && l.lines.any fun x => x.va == n && x.waits
  match s.flight.loads.find? mine with
  | none => s
  | some l0 =>
    match outcomeOf outs n with
    | .ok pa =>
      if pendingSide s ctx n || l1AtomPending s l0.core (pa / 128) then s
      else
        let words := (s.flight.loads.filter mine).foldl (fun (m : BitVec 32) l => m ||| wordMask (inLine l.va l.nbytes n).1 (inLine l.va l.nbytes n).2) 0
        let q := lineLoad s l0.core ctx l0.crew l0.vd l0.pol pa n words
        let upd (l : Load) : Load :=
          if mine l then Load.noteBack { l with lines := l.lines.map fun x => if x.va == n then q.2 else x } (s.cycle l.core) else l
        let s1 := { q.1 with flight := { q.1.flight with loads := q.1.flight.loads.map upd } }
        s1.post ((s1.flight.loads.filter fun l => l.convoy == k && l.ready).map fun l => .loadComplete l.id 0)
    | .notPresent => pageRequest s ctx (128 * n) 0 false l0.core
    | .hold => pageRequest s ctx (128 * n) 0 true l0.core
    | _ => s

/-- Replay of the lines that a convoy's held loads wait for (R156): every line is translated, then the members whose lines met a cause trap
at once, and the lines of the others are requested. -/
def retryLoads (ctx : Nat) (hit : Nat → Bool) (s : State) (k : Nat) : State :=
  let ls := s.flight.loads.filter fun l => l.convoy == k && l.ctx == ctx && l.unresolved
  match ls with
  | [] => s
  | l0 :: _ =>
    let open_ (l : Load) : List Nat := (l.lines.filter fun x => x.waits && hit x.va).map (·.va)
    let lines := ascending (ls.flatMap open_)
    let r := translateLines s l0.core ctx l0.crew false lines
    let fault (l : Load) : Option MFault := (open_ l).findSome? fun n =>
      match outcomeOf r.2 n with | .trap c => some (lineTrap l n c) | _ => none
    lines.foldl (retryLine ctx k r.2) (lateTraps r.1 (ls.filterMap fun l => (fault l).map fun f => (l, f)))

/-- Replay of the deferred members of an atomic with return, in the same way. -/
def retryAtom (hit : Nat → Bool) (s : State) (id : Nat) : State :=
  match s.flight.atoms.find? fun a => a.id == id with
  | none => s
  | some a =>
    let ps := a.deferred.filter fun p => hit (p.va / 128)
    let lines := ascending (ps.map fun p => p.va / 128)
    let r := translateLines s a.core a.ctx a.crew true lines
    let out (p : AtomPart) : Outcome := outcomeOf r.2 (p.va / 128)
    let goes (p : AtomPart) : Bool := match out p with
      | .ok pa => !pendingSide s a.ctx (p.va / 128) && !l1AtomPending s a.core (pa / 128)
      | _ => false
    let traps (p : AtomPart) : Option (Load × MFault) := match out p with
      | .trap c => (s.flight.loads.find? fun y => y.isOf a.id p.who).map fun y =>
          (y, lineTrap y (p.va / 128) c)
      | _ => none
    let trapped (p : AtomPart) : Bool := match out p with | .trap _ => true | _ => false
    let go := (ps.filter goes).map fun p => { p with addr := okPa (out p) + p.va % 128 }
    let b := { a with deferred := a.deferred.filter fun p => !(ps.contains p && (goes p || trapped p)), parts := a.parts ++ go }
    let atoms := if b.deferred.isEmpty && b.parts.isEmpty then r.1.flight.atoms.filter fun y => y.id != id
      else r.1.flight.atoms.map fun y => if y.id == id then b else y
    let s1 := { r.1 with flight := { r.1.flight with atoms } }
    let s2 := if go.isEmpty then s1 else s1.post [.atomicPerformed id]
    let s3 := lines.foldl (fun x n => match outcomeOf r.2 n with
      | .notPresent => pageRequest x a.ctx (128 * n) 2 false a.core
      | .hold => pageRequest x a.ctx (128 * n) 2 true a.core
      | _ => x) s2
    lateTraps s3 (ps.filterMap traps)

/-- Held loads and atomics of a context try the lines that `hit` names again. -/
def retryHeld (s : State) (ctx : Nat) (hit : Nat → Bool) : State :=
  let ks := dedup ((s.flight.loads.filter fun l => l.ctx == ctx && l.unresolved).map (·.convoy))
  let s1 := ks.foldl (retryLoads ctx hit) s
  ((s1.flight.atoms.filter fun a => a.ctx == ctx && !a.deferred.isEmpty).map (·.id)).foldl (retryAtom hit) s1

/-- Cores where a context is resident. -/
def State.coresOf (s : State) (ctx : Nat) : List Nat :=
  dedup (((s.crews.filter fun p => p.2.ctx == ctx && p.2.phase != .none && p.2.phase != .ended && p.2.phase != .saved).flatMap fun p => p.2.cores))

/-- The line is invalidated in the L1 of the logging core and of the cores where the context is resident (R178). -/
def replayInvalidate (s : State) (core ctx line : Nat) : State :=
  (dedup (core :: s.coresOf ctx)).foldl (fun x c => l1Invalidate x c line (BitVec.allOnes 32)) s

/-- Whose transfer it is, for a fault record: the core whose engine runs it and the crew (10 R287). -/
def engineRec (s : State) (core crew addr : Nat) : FaultRec :=
  let cr := s.crew crew
  { code := 0, core, run := (s.run cr.run).id, crew := cr.num, traddr := addr }

/-- A side-logged core-scope atomic on device memory is performed in the L1 of its core, as any other (R163, R202); the write-through is its own. -/
def performSideInL1 (s : State) (core pa : Nat) (e : SideEntry) (op : AtomOp) (src : FaultRec) : State × SliceOut :=
  let a : Atom := { id := e.id, crew := e.crew, core, ctx := e.ctx, vd := (s.ctx e.ctx).vd, op }
  let mine := e.parts.map fun p => { p with addr := pa + p.addr }
  if atomHits s a mine pa then ((performInL1 s a mine pa e.va).1, .ok)
  else
    let q := fillForAtom s a pa src
    match q.2 with
    | .ok => ((performInL1 q.1 a mine pa e.va).1, .ok)
    | o => (q.1, o)

/-- A side-log entry is performed at its place: charges go to CTX. The slice serves it under normal policy, whatever the record's policy was: the
entry has no field for it, and no rule names one (log 68). -/
def performSideAt (s : State) (core pa : Nat) (e : SideEntry) (src : FaultRec) : State × SliceOut :=
  let vd := (s.ctx e.ctx).vd
  let kind := if e.atom.isSome then 2 else 1
  let q : State × SliceOut := if usable pa then
      sliceAccess s { pa, kind, vd, acct := e.ctx, crew := e.crew, ctx := [e.ctx], core := some core, cluster := some (core / 2), src, who := .access e.id }
    else if isPeer pa then peerRequest s e.ctx e.crew (some core) pa 2 true src
    else (s, .ok)
  match q.2 with
  | .ok =>
    let bytes := e.bytes.map fun b => (pa + b.1, b.2)
    (match e.atom with
      | none => lineKicks (writeSparse q.1 bytes) (if usable pa then e.width else 0) bytes
      | some op =>
        let r := atomFold op e.parts (fun p => pa + p.addr) q.1.mem
        let x := { q.1 with mem := r.1 }
        if op.w64 && usable pa then r.2.2.foldl (fun y m => storeKick y m.1 m.2) x else x, .ok)
  | _ => q

/-- A side-log entry is performed (R178): its line is then invalidated in the L1 of the logging core and of the context's. -/
def performSide (s : State) (core pa : Nat) (e : SideEntry) : State × SliceOut :=
  let src : FaultRec := { code := 0, core, traddr := e.va }
  let q := match e.atom with
    | some op => if e.scope = 0 && usable pa then performSideInL1 s core pa e op src else performSideAt s core pa e src
    | none => performSideAt s core pa e src
  match q.2 with
  | .ok => (if usable pa then replayInvalidate q.1 core e.ctx (pa / 128) else q.1, .ok)
  | .refused => (contextFault q.1 e.ctx { src with code := gradeD 0x022 }, .refused)
  | _ => q

/-- Takes an entry out of a core's side log; OCS falls in its members. -/
def dropSide (s : State) (core : Nat) (e : SideEntry) : State :=
  let c := s.core core
  retireStore (s.setCore core { c with sideLog := c.sideLog.filter fun x => x.id != e.id }) e.lanes e.id

/-- An older entry of the same line and context stands in another core's log (R178, R181). -/
def behindOther (s : State) (core : Nat) (e : SideEntry) : Bool :=
  s.cores.any fun p => p.1 != core && p.2.sideLog.any fun x => x.ctx == e.ctx && x.va == e.va && decide (x.id < e.id)

/-- The walk of an entry's replay has given this translation; its access waits. -/
def setSidePa (s : State) (core : Nat) (e : SideEntry) (pa : Nat) : State :=
  let c := s.core core
  s.setCore core { c with sideLog := c.sideLog.map fun x => if x.id == e.id then { x with pa := some pa } else x }

/-- One entry of a replay; the flag says that an earlier entry of the page stayed. -/
def replayEntry (core : Nat) (a : State × Bool) (e : SideEntry) : State × Bool :=
  if a.2 || behindOther a.1 core e then (a.1, true)
  else
    let r : State × Outcome := match e.pa with
      | some pa => (a.1, .ok pa)
      | none => let w := walk a.1 { ctx := e.ctx, acct := e.ctx, crew := e.crew, core := some core } e.va; (w.1, walkOutcome w.2 e.va true false)
    match r.2 with
    | .ok pa =>
      if olderAt r.1 core (placeOf pa) e.id then (setSidePa r.1 core e pa, true)
      else
        let p := performSide r.1 core pa e
        match p.2 with
        | .wait => (setSidePa p.1 core e pa, true)
        | .fetching => (setSidePa p.1 core e pa, true)
        | _ => (dropSide p.1 core e, false)
    | .trap c => (contextFault (dropSide r.1 core e) e.ctx { code := if c = 0x023 then gradeB c else gradeD c, core, traddr := e.va }, false)
    | .wait => (r.1, true)
    | o => (pageRequest r.1 e.ctx e.va (if e.atom.isSome then 2 else 1) (o == .hold) core, true)

/-- SIDE_LOG_REPLAY: the entries of a context and page in one core's log, in the order they were made (R178, R179); held loads of the
page follow. What has to wait behind another access is tried again by the ring's cycle. -/
def execSideLogReplay (core ctx page : Nat) (s : State) : Result :=
  .next (let es := (s.core core).sideLog.filter fun e => e.ctx == ctx && e.va / 4096 == page
    retryHeld (es.foldl (replayEntry core) (s, false)).1 ctx fun l => l / 32 == page)

/-- Replays and held accesses of a page start (R180): of a resume, or of every page of every context after a shoot-down. -/
def startReplays (s : State) (ctx page : Nat) : State :=
  let s1 := s.post ((s.cores.filter fun p => p.2.sideLog.any fun e => e.ctx == ctx && e.va / 4096 == page).map fun p => .sideLogReplay p.1 ctx page)
  retryHeld s1 ctx fun l => l / 32 == page

/-- Pages that side-log entries or held accesses of a context wait for. -/
def waitingPages (s : State) : List (Nat × Nat) :=
  let side := s.cores.flatMap fun p => p.2.sideLog.map fun e => (e.ctx, e.va / 4096)
  let lds := s.flight.loads.flatMap fun l => (l.lines.filter LoadLine.waits).map fun x => (l.ctx, x.va / 32)
  let ats := s.flight.atoms.flatMap fun a => a.deferred.map fun p => (a.ctx, p.va / 4096)
  (side ++ lds ++ ats).foldl (fun a x => if a.contains x then a else a ++ [x]) []

/-- A convoy waits for lines of its held load or atomic: until all of them have been performed (R156). -/
def awaitsAccess (s : State) (k : Nat) : Bool := s.flight.loads.any fun l => l.convoy == k && l.held && !l.ready

end Sys2Proof.Machine
end

