-- ==== Sys2Proof/Machine/Fetch.lean ====
section
/-! DEFINITION. Instruction fetch: translation with X, the instruction path of the core, both words before either has an effect
(07 R209, 14 R370-R374). -/

namespace Sys2Proof.Machine

/-- What a convoy's fetch of one word gives: `later` where its walk or its port makes it wait, `stopped` where its context has stopped. -/
inductive WordRes where
  | word (w : Nat) | trap (cause : Nat) | notPresent | later | stopped
deriving DecidableEq, Repr, Inhabited

/-- The word that the instruction path of a core holds for a context and address. -/
def pathWord (c : Core) (ctx va : Nat) : Option Nat := (c.ipath.find? fun e => e.1 == ctx && e.2.1 == va).map fun e => e.2.2

/-- The path now holds this word. -/
def pathSet (s : State) (core ctx va w : Nat) : State :=
  let c := s.core core
  if pathWord c ctx va = some w then s
  else s.setCore core { c with ipath := (ctx, va, w) :: c.ipath.filter fun e => !(e.1 == ctx && e.2.1 == va) }

/-- The word at a physical address comes from its slice, a peer or the host into the instruction path. The slice's work is included in the
issue weights (09 R242); flits to a peer are charged as such (09 R243; log 73). -/
def fetchFrom (s : State) (core ctx crew va pa : Nat) (src : FaultRec) : State × WordRes :=
  let q : State × SliceOut := if usable pa then
      sliceAccess s { pa, vd := (s.ctx ctx).vd, acct := ctx, crew, ctx := [ctx], core := some core, free := true, src }
    else if isPeer pa then peerRequest s ctx crew (some core) pa 1 false src
    else (s, .ok)
  match q.2 with
  | .ok => let w := q.1.readNat pa 4; (pathSet q.1 core ctx va w, .word w)
  | .refused => (q.1, .trap 0x022)
  | .failed => (q.1, .stopped)
  | .wait | .fetching => (q.1, .later)

/-- Fetch of one aligned word (R371, R209): a word that the path holds may be returned as it is. -/
def fetchWord (s : State) (core ctx crew va : Nat) (src : FaultRec) : State × WordRes :=
  if 2^57 ≤ va then (s, .trap 0x021)
  else
    let r := translate s core ctx crew va false true 0
    match r.2 with
    | .trap c => (r.1, .trap c)
    | .wait => (r.1, .later)
    | .ok pa =>
      match pathWord (r.1.core core) ctx va with
      | some old =>
        let new := r.1.readNat pa 4
        if old = new then (r.1, .word old)
        else if Config.fetchOld ctx va old new then (r.1, .word old)
        else fetchFrom r.1 core ctx crew va pa src
      | none => fetchFrom r.1 core ctx crew va pa src
    | _ => (r.1, .notPresent)

/-- A convoy's fetch: its word or words (the second 0 where there is one), or why there are none; a trap says whether the instruction is known
to have two. -/
inductive FetchRes where
  | words (w0 w1 : Nat) | trap (cause addr : Nat) (two : Bool) | wait (va : Nat) | later | stopped
deriving DecidableEq, Repr, Inhabited

/-- Why a word at `va` is missing. -/
def WordRes.miss (w : WordRes) (va : Nat) (two : Bool) : FetchRes :=
  match w with
  | .trap c => .trap c va two
  | .notPresent => .wait va
  | .later => .later
  | _ => .stopped

def fetchWords (s : State) (core ctx crew pc : Nat) (src : FaultRec) : State × FetchRes :=
  let r := fetchWord s core ctx crew pc src
  match r.2 with
  | .word w0 =>
    if lenOf w0 = 1 then (r.1, .words w0 0)
    else
      let q := fetchWord r.1 core ctx crew (pc + 4) src
      match q.2 with
      | .word w1 => (q.1, .words w0 w1)
      | x => (q.1, x.miss (pc + 4) true)
  | x => (r.1, x.miss pc false)

/-- The fetch of a convoy at its PC. -/
def fetchOf (s : State) (k : Nat) : State × FetchRes :=
  let c := s.convoy k
  fetchWords s c.core (s.crew c.crew).ctx c.crew c.pc (threadRec s c.core c.crew (whoOf s (c.keys.headD 0)) c.pc c.pc 0)

/-- The instruction in hand. -/
def InHand.instr (h : InHand) : Option Instr := decode h.w0 h.w1

/-- A fetch fault in every member: TRVAL is 0, and LEN that of the instruction where its first word is known (R284, R371). -/
def fetchFault (s : State) (k cause addr : Nat) (two : Bool) : State :=
  let s1 := chargeGroup s k
  let c := s1.convoy k
  trapEntry s1 k { w0 := 0, two } c.pc (c.keys.map fun t => { key := t, cause, addr, val := some 0, fatal := cause == 0x023 })

/-- A fetch that met NOT_PRESENT: the page is requested and the convoy held (R371). -/
def fetchHold (s : State) (k va : Nat) : State :=
  let c := s.convoy k
  holdAt (pageRequest s (s.crew c.crew).ctx va 3 false c.core) k (.fetch va)

/-- A convoy that may issue takes the words of its instruction in hand (R373); a trap is left to the issue. -/
def takeHand (s : State) (k : Nat) : State :=
  if (s.inHand k).isSome then s
  else
    let r := fetchOf s k
    match r.2 with
    | .words w0 w1 => r.1.setHand k (some { pc := (s.convoy k).pc, w0, w1 })
    | .wait va => fetchHold r.1 k va
    | _ => r.1

/-- The convoy that issues now executes the words it has in hand, or fetches them: the state after it, and the instruction to execute if there is
one. What its presentation has settled stands (08 R239, 14 R374). -/
def fetchStep (s : State) (k : Nat) : State × Option Instr :=
  let s1 := { s with cur := k }
  let c := s1.convoy k
  if c.members.isEmpty then (s1, none)
  else
    let r : State × FetchRes := match s1.inHand k with
      | some h => (s1.setHand k none, .words h.w0 h.w1)
      | none => fetchOf s1 k
    match r.2 with
    | .words w0 w1 =>
      match decode w0 w1, (s1.inHand k).bind InHand.verdict with
      | some i, none => (r.1, some i)
      | some i, some cause => (faultAll r.1 k (iword i) cause 0 (if cause = 0x001 then fun _ => none else faultVal i r.1), none)
      | none, _ => (faultAll r.1 k { w0, two := lenOf w0 == 2 } 0x001, none)
    | .trap cause addr two => (fetchFault r.1 k cause addr two, none)
    | .wait va => (fetchHold r.1 k va, none)
    | .later => (r.1, none)
    | .stopped => (r.1, none)

/-! ### IFENCE (07 R209; 16 R446, R447) -/

/-- The instruction paths within the scope hold no word of the context. -/
def dropPath (s : State) (sc core ctx : Nat) : State :=
  { s with cores := s.cores.map fun p =>
      if coreInScope sc core p.1 then (p.1, { p.2 with ipath := p.2.ipath.filter fun e => e.1 != ctx }) else p }

/-- The instruction that a convoy is held at and has not issued (02 R45, 09 R242): one that has paid its toll has (DEDUCED, log 83). -/
def Convoy.unissued (c : Convoy) : Option Instr :=
  if c.tolled then none
  else match c.hold with
  | .on (.take _) => none
  | .on (.tclaim _) => none
  | .on i => some i
  | _ => none

/-- The convoy leaves the handoff queues of its crew: the instruction there is not the one it executes. -/
def leaveQueues (s : State) (k : Nat) : State :=
  let crew := (s.convoy k).crew
  let c := s.crew crew
  s.setCrew crew { c with hq := c.hq.map fun p => (p.1, { p.2 with waitPut := p.2.waitPut.filter (· != k), waitGet := p.2.waitGet.filter (· != k) }) }

/-- A convoy fetches anew what it had fetched before the invalidation and not issued (16 R447): where another word stands there now, it is
presented or held at its PC no more. -/
def refetch (s : State) (k : Nat) : State :=
  let c := s.convoy k
  let old : Option (Nat × Nat) := match c.unissued, s.inHand k with
    | some i, _ => some (encode0 i, encode1 i)
    | none, some h => if c.tolled then none else some (h.w0, h.w1)
    | none, none => none
  match old with
  | none => s
  | some (w0, w1) =>
    if (fetchOf (s.setHand k none) k).2 = .words w0 w1 then s
    else
      let s1 := (leaveQueues s k).setHand k none
      s1.setConvoy k { s1.convoy k with hold := .none, checked := false, since := none }

/-- Convoys of a context within a scope of a core. -/
def convoysIn (s : State) (sc core ctx : Nat) : List Nat :=
  (s.convoys.filter fun p => coreInScope sc core p.2.core && (s.crew p.2.crew).ctx == ctx && !p.2.members.isEmpty).map (·.1)

/-- IFENCE (R209, R446, R447): every convoy within the scope fetches anew what it has not issued; convoys that the arbitration has let issue in
this core cycle have. Fetches are one step here, so none is under way once the stores are performed. -/
def ifenceStep (i : Instr) (sc : Nat) (s : State) (k : Nat) : State :=
  let c := s.convoy k
  let ctx := (s.crew c.crew).ctx
  if countersZero s c.keys false true false false then
    let s1 := dropPath s sc c.core ctx
    let s2 := ((convoysIn s1 sc c.core ctx).filter fun j => j != k && !s.issue.contains j).foldl refetch s1
    advance (chargeGroup s2 k) k i
  else holdAt s k (.on i)

def execIfence (sc : Nat) (s : State) : Result :=
  .next (gated (.ifence sc) 0 legal noCheck (fun s k => ifenceStep (.ifence sc) sc s k) s)
def execIfenceComplete (k : Nat) (s : State) : Result :=
  .next (match (s.convoy k).hold with | .on (.ifence sc) => ifenceStep (.ifence sc) sc s k | _ => s)

end Sys2Proof.Machine
end

