-- ==== Sys2Proof/Machine/Copy.lean ====
section
/-! DEFINITION. The copy engine: CPY, CPYG, CPYT, their starts and completions (05 R143, R149, 06 R183-R186, 15 R414-R419), and the
staging and write-back of regions (06 R188). -/

namespace Sys2Proof.Machine

/-! ### Issue -/

/-- Passed over while the copy queue is full or a member's OCC is 15 (R416). -/
def cqRoom (s : State) (k : Nat) : Bool :=
  decide ((s.core (s.convoy k).core).cq.length < 16) && (s.convoy k).keys.all fun t => decide ((s.thread t).occ < 15)

def countOcc (s : State) (ks : List Nat) : State := s.setThreads ks fun t => { s.thread t with occ := (s.thread t).occ + 1 }

def pushC (s : State) (core : Nat) (e : CEntry) : State :=
  let c := s.core core
  s.setCore core { c with cq := c.cq ++ [e] }

/-- n of CPY and CPYG (14 R384). -/
def copyCount (s : State) (k c : Nat) : Nat := (s.g k c).toNat % 65536 + 1

/-- Checks of R185 and R414, then the toll (R374 step 6): cause and TRADDR, which is 0 but for the stage span's BOUNDS
(DESIGN CHOICE, log 84). -/
def copyCheck (gather : Bool) (c sr x dir k : Nat) (s : State) (key : Nat) : Option (Nat × Nat) :=
  let cr := s.crewOf key
  let rcd := s.record key k
  let n := copyCount s key c
  let st := (s.g key sr).toNat
  let ix := (s.g key x).toNat
  let esz := 2^recEsz rcd
  let al := min esz 16
  let win := footWindow cr.foot
  if recInvalid rcd cr.cluster (dir == 1) || recSpace rcd != 0 then some (0x012, 0)
  else if recBase rcd % al ≠ 0 ∨ recStride rcd % al ≠ 0 ∨ st % 16 ≠ 0 ∨ (gather ∧ ix % 4 ≠ 0) then some (0x011, 0)
  else if win < st + n * esz ∨ (gather ∧ win < ix + 4 * n) then some (0x010, st)
  else if !gather && !recOor rcd && decide (recExtent rcd ≤ ix + n - 1) then some (0x010, 0)
  else (portTollCheck s key).map fun c => (c, 0)

/-- Address of an element (R183, R185). -/
def copyAddr (s : State) (e : CEntry) (m : Nat) : Option Nat :=
  let cr := s.crew e.crew
  let i := if e.kind = .cpyg then leNat (Tab.getRun 0 s.stage (cr.stage0 + e.idx + 4 * m) 4) else e.idx + m
  elemAddr e.rcd (2^57) i 0 (2^recEsz e.rcd)

/-- Bytes that a transfer moves. -/
def CEntry.bytes (e : CEntry) : Nat := if e.kind = .cpyt then e.n else e.n * 2^recEsz e.rcd

/-- The transfer writes stage memory, or global memory. -/
def CEntry.toStage (e : CEntry) : Bool := if e.kind = .cpyt then e.out else !e.out
def CEntry.toGlobal (e : CEntry) : Bool := e.kind != .cpyt && e.out

/-- A copy of the crew that is still queued writes these bytes of its window. -/
def stageBusy (s : State) (crew lo n : Nat) : Bool :=
  (s.crew crew).cores.any fun c => (s.core c).cq.any fun x =>
    x.crew == crew && x.toStage && decide (x.stage < lo + n) && decide (lo < x.stage + x.bytes)

/-- A store or atomic that has not been performed touches these bytes, or the line's page waits in a side log. -/
def globalBusy (s : State) (ctx va pa n : Nat) : Bool :=
  let inside (a : Nat) : Bool := decide (pa ≤ a) && decide (a < pa + n)
  (s.flight.stores.any fun x => !x.stage && x.bytes.any fun b => inside b.1)
    || (s.flight.atoms.any fun a => !a.stage && a.parts.any fun p => (List.range (if a.op.w64 then 8 else 4)).any fun i => inside (p.addr + i))
    || pendingSide s ctx (va / 128)

/-- A queued transfer of the context writes these bytes of its global memory. -/
def copyWrites (s : State) (ctx va n : Nat) : Bool :=
  s.cores.any fun p => p.2.cq.any fun x => x.ctx == ctx && x.toGlobal && (List.range x.n).any fun m =>
    match copyAddr s x m with
    | some a => decide (a < va + n) && decide (va < a + 2^recEsz x.rcd)
    | none => false

/-- Global bytes as they stand, none where an access to them is still to be performed or they have no translation. -/
def latchGlobal (s : State) (core ctx crew : Nat) : Nat → Nat → Nat → Option (List Byte)
  | 0, _, _ => some []
  | f + 1, va, n =>
    if n = 0 then some []
    else
      let k := min n (128 - va % 128)
      match (translate s core ctx crew va false false 1).2 with
      | .ok pa =>
        if globalBusy s ctx va pa k || copyWrites s ctx va k || (usable pa && (s.tileMeta (tileOf pa)).raw.isSome) then none
        else (latchGlobal s core ctx crew f (va + k) (n - k)).map fun l => s.readBytes pa k ++ l
      | _ => none

/-- The source of a transfer as of its issue (07 R207), element by element: none where a write of these bytes that the issue does not wait for is
still under way, which the engine may read before or after it, or where they have no translation yet. That a walk would have to wait for the byte
budget does not matter here. -/
def latchSource (s : State) (core : Nat) (e : CEntry) : List (Option (List Byte)) :=
  let cr := s.crew e.crew
  let stage (lo n : Nat) : Option (List Byte) := if stageBusy s e.crew lo n then none else some (Tab.getRun 0 s.stage (cr.stage0 + lo) n)
  if e.kind = .cpyt then (if e.out then [] else [stage e.stage e.n])
  else
    let esz := 2^recEsz e.rcd
    if e.out then (List.range e.n).map fun m => stage (e.stage + m * esz) esz
    else
      let x := { s with msc := { s.msc with budgets := [], used := [] } }
      (List.range e.n).map fun m => match copyAddr s e m with
        | some a => latchGlobal x core e.ctx e.crew (esz / 128 + 2) a esz
        | none => none

/-- CPY and CPYG (R414, R416). -/
def copyBody (i : Instr) (gather : Bool) (c sr x dir k cmp bar : Nat) (s : State) (key : Nat) : State :=
  match copyCheck gather c sr x dir k s key with
  | some (cause, addr) => faultAll s key (iword i) cause addr
  | none =>
    let cv := s.convoy key
    if !cqRoom s key then s
    else
      let cr := s.crew cv.crew
      let e : CEntry :=
        { kind := if gather then .cpyg else .cpy, seq := s.key, ctx := cr.ctx, crew := cv.crew, members := cv.keys.map (whoOf s),
          rcd := s.record key k, out := dir == 1, stage := (s.g key sr).toNat, idx := (s.g key x).toNat, n := copyCount s key c,
          cmp := cmp == 1, bar }
      advance (countOcc (pushC (chargeGroup s key) cv.core { e with source := latchSource s cv.core e }) cv.keys).bump key i

def copyIllegal (cmp bar : Nat) (s : State) (k : Nat) : Bool := cmp == 1 && !(s.crewOf k).bars? bar

def execCpy (c s x dir k cmp bar : Nat) (st : State) : Result :=
  .next (gated (.cpy c s x dir k cmp bar) 0 (copyIllegal cmp bar) noCheck (copyBody (.cpy c s x dir k cmp bar) false c s x dir k cmp bar) st)
def execCpyg (c s x dir k cmp bar : Nat) (st : State) : Result :=
  .next (gated (.cpyg c s x dir k cmp bar) 0 (copyIllegal cmp bar) noCheck (copyBody (.cpyg c s x dir k cmp bar) true c s x dir k cmp bar) st)

/-- Bytes of a CPYT. -/
def cpytBytes (len : Nat) : Nat := (len + 1) * 128

/-- R149: values reserved for the crew. -/
def cpytIllegal (t tgt cmp bar len : Nat) (s : State) (k : Nat) : Bool :=
  let cr := s.crewOf k
  (cmp == 1 && !cr.bars? bar)
    || (if tgt = 1 then decide (cr.accs ≤ t) else decide (cr.units * 4096 < t * 4096 + cpytBytes len))

/-- R149's checks, in order. DESIGN CHOICE (log 84): TRADDR of CPYT's MISALIGNED is gA, as that of BOUNDS, for which alone the rule names it. -/
def cpytCheck (t a tgt len : Nat) (s : State) (k : Nat) : Option (Nat × Nat) :=
  let cr := s.crewOf k
  let core := (s.convoy k).core
  let ga := (s.g k a).toNat
  let units := (List.range ((cpytBytes len + 4095) / 4096)).map (· + t)
  if tgt = 0 ∧ (units.all fun u => cr.unitTaken core u) = false then some (0x070, 0)
  else if ga % 128 ≠ 0 then some (0x011, ga)
  else if footWindow cr.foot < ga + cpytBytes len then some (0x010, ga)
  else (portTollCheck s k).map fun c => (c, 0)

def cpytBody (i : Instr) (t a tgt dir cmp bar len row : Nat) (s : State) (key : Nat) : State :=
  match cpytCheck t a tgt len s key with
  | some (cause, addr) => faultAll s key (iword i) cause addr
  | none =>
    let cv := s.convoy key
    if !cqRoom s key then s
    else
      let e : CEntry :=
        { kind := .cpyt, ctx := (s.crew cv.crew).ctx, seq := s.key, crew := cv.crew, members := cv.keys.map (whoOf s), out := dir == 1,
          stage := (s.g key a).toNat, n := cpytBytes len, tile := tgt == 1, target := t, row0 := row, cmp := cmp == 1, bar }
      advance (countOcc (pushC (chargeIssue s key s.weights.cpytIssue) cv.core { e with source := latchSource s cv.core e }) cv.keys).bump key i

def execCpyt (t a tgt dir cmp bar len row : Nat) (s : State) : Result :=
  .next (gated (.cpyt t a tgt dir cmp bar len row) 0 (cpytIllegal t tgt cmp bar len) noCheck
    (cpytBody (.cpyt t a tgt dir cmp bar len row) t a tgt dir cmp bar len row) s)

/-! ### Start (R415) -/

/-- Every start condition but the toll, for the head of a core's copy queue. -/
def cStartable (s : State) (core : Nat) : Option CEntry :=
  match (s.core core).cq with
  | [] => none
  | e :: rest =>
    let waits := e.kind == .cpyt && ((List.range 8).any fun n =>
      let mc := 8 * (core / 8) + n
      (s.core mc).mq.any fun m => decide (m.seq < e.seq) && conflict s mc m core e)
    if e.started.isSome || waits || rest.any (·.started.isSome) then none else some e

def setHead (s : State) (core : Nat) (e : CEntry) : State :=
  let c := s.core core
  s.setCore core { c with cq := c.cq.map fun x => if x.seq == e.seq then e else x }

/-- COPY_START: charged to the context in the entry (R417, R144). -/
def execCopyStart (core : Nat) (s : State) : Result :=
  .next (match cStartable s core with
    | none => s
    | some e =>
      if !e.paid then s
      else
        let w := if e.kind = .cpyt then s.weights.cpyt + s.weights.cpytPer * (e.n / 128) else s.weights.copy * ((e.bytes + 127) / 128)
        chargeFor (setHead s core { e with started := some (s.cycle core) }) e.ctx e.crew w (core / 2) (some core))

/-! ### Moving elements (R183-R186) -/

/-- How a piece of a transfer went. -/
inductive Moved where
  | done | wait (va : Nat) | stop (va : Nat) (isHold : Bool) | fault (code addr : Nat) | ended (va : Nat)
deriving DecidableEq, Repr, Inhabited

/-- Graded code of a trap cause met outside a thread. -/
def gradeOf (c : Nat) : Nat := if c = 0x023 then gradeB c else gradeD c

/-- Who waits where a transfer meets a spent byte budget: a crew's regions while they are staged or written back, else the copy engine. -/
def mover (s : State) (core crew : Nat) : Waiter :=
  if (s.crew crew).phase = .staging ∨ (s.crew crew).phase = .writingBack then .region crew else .engine core

/-- Moves `n` bytes between global virtual address `va` and place `st` of the stage table, inside one line; `fresh` asks for a new
sector request, pieces of one line in a row share it. `data` is the source as latched at issue. -/
def movePiece (s : State) (core ctx crew pol va st n : Nat) (out fresh : Bool) (data : Option (List Byte)) : State × Moved :=
  let r := translate s core ctx crew va out false 1
  match r.2 with
  | .trap c => (r.1, .fault (gradeOf c) va)
  | .notPresent => (r.1, .stop va false)
  | .hold => (r.1, .stop va true)
  | .wait => (r.1, .wait va)
  | .ok pa =>
    let move (x : State) : State :=
      if out then
        let x1 := x.writeBytes pa (data.getD (Tab.getRun 0 x.stage st n))
        if usable pa then l1InvalidateBytes x1 core pa n else x1
      else { x with stage := Tab.setRun 0 st (data.getD (x.readBytes pa n)) x.stage }
    let src := engineRec s core crew va
    let q : State × SliceOut := if !fresh then (r.1, .ok)
      else if usable pa then
        sliceAccess r.1 { pa, kind := if out then 1 else 0, cls := 1, vd := (s.ctx ctx).vd, acct := ctx, crew, ctx := [ctx], core := some core,
                          pol, cluster := some (core / 2), src, who := mover s core crew }
      else if isPeer pa then peerRequest r.1 ctx crew (some core) pa (if out then 2 else 1) out src
      else (r.1, .ok)
    match q.2 with
    | .ok => (move q.1, .done)
    | .wait | .fetching => (q.1, .wait va)
    | .refused => (q.1, .fault (gradeD 0x022) va)
    | .failed => (q.1, .ended va)

/-- The pieces of a span, one per line: `last` is the line of the piece before. -/
def moveSpan (core ctx crew pol va st n : Nat) (out : Bool) (last : Option Nat) (data : Option (List Byte)) : Nat → State → State × Moved
  | 0, s => (s, .done)
  | f + 1, s =>
    if n = 0 then (s, .done)
    else
      let k := min n (128 - va % 128)
      let r := movePiece s core ctx crew pol va st k out (last != some (va / 128)) (data.map (·.take k))
      match r.2 with
      | .done => moveSpan core ctx crew pol (va + k) (st + k) (n - k) out (some (va / 128)) (data.map (·.drop k)) f r.1
      | _ => r

/-- Line of the last byte of the element before, where the two belong to one request. -/
def lastLine (a : Option Nat) (esz : Nat) : Option Nat := a.map fun x => (x + esz - 1) / 128

/-- Stage blocks that element m touches first: 40 each (R241, R417). An element that an out transfer drops touches none; its list entry is read. -/
def copyBlocks (s : State) (e : CEntry) (m : Nat) : Nat :=
  let esz := 2^recEsz e.rcd
  let drops (m : Nat) : Bool := e.out && (copyAddr s e m).isNone
  let block := (e.stage + m * esz) / 128
  let shared := (List.range (min m 128)).any fun j => !drops (m - 1 - j) && (e.stage + (m - j) * esz - 1) / 128 == block
  let data := if drops m then 0 else (e.stage + (m + 1) * esz - 1) / 128 - block + (if shared then 0 else 1)
  data + (if e.kind = .cpyg ∧ (m = 0 ∨ (e.idx + 4 * m) % 128 = 0) then 1 else 0)

/-- Element m of a transfer: its stage blocks are charged once it moves. -/
def moveElem (s : State) (core : Nat) (e : CEntry) (m : Nat) : State × Moved :=
  let esz := 2^recEsz e.rcd
  let st := (s.crew e.crew).stage0 + e.stage + m * esz
  let pay (x : State) : State := chargeFor x e.ctx e.crew (s.weights.stage * copyBlocks s e m) (core / 2) (some core)
  match copyAddr s e m with
  | none =>
    if e.kind = .cpy ∧ recOor e.rcd = false then (s, .fault (gradeD 0x010) 0)
    else if e.out then (pay s, .done)
    else ({ pay s with stage := Tab.setRun 0 st (List.replicate esz 0) s.stage }, .done)
  | some a =>
    let o := if m = e.moved then e.off else 0
    let last := if m = 0 ∨ m = e.moved then none else lastLine (copyAddr s e (m - 1)) esz
    let data := ((e.source[m]?).getD none).map (·.drop o)
    let r := moveSpan core e.ctx e.crew (recPol e.rcd) (a + o) (st + o) (esz - o) e.out last data (esz / 128 + 2) s
    match r.2 with
    | .fault c _ => (r.1, .fault c a)
    | .done => (pay r.1, .done)
    | _ => r

/-- Elements from m on: the state, the element reached and how it ended. -/
def moveElems (core : Nat) (e : CEntry) : Nat → Nat → State → State × Nat × Moved
  | 0, m, s => (s, m, .done)
  | f + 1, m, s =>
    let r := moveElem s core e m
    match r.2 with
    | .done => moveElems core e f (m + 1) r.1
    | x => (r.1, m, x)

/-- CPYT's bytes (R149): stage memory as of the issue where it is the source. -/
def moveTile (s : State) (core : Nat) (e : CEntry) : State :=
  let cr := s.crew e.crew
  let st := cr.stage0 + e.stage
  let from_ : List Byte := ((e.source[0]?).getD none).getD (Tab.getRun 0 s.stage st e.n)
  if e.tile then
    let key := accKey core (cr.acc0 + e.target) e.row0 0
    if e.out then
      { s with stage := Tab.setRun 0 st ((Tab.getRun 0 s.acc key (e.n / 4)).flatMap fun w => leBytes w.toNat 4) s.stage }
    else
      markAcc { s with acc := Tab.setRun 0 key ((List.range (e.n / 4)).map fun i => BitVec.ofNat 32 (leNat ((from_.drop (4 * i)).take 4))) s.acc } e.crew core (cr.acc0 + e.target)
  else
    let key := obKey core (cr.unit0 + e.target) 0
    if e.out then { s with stage := Tab.setRun 0 st (Tab.getRun 0 s.ob key e.n) s.stage }
    else { s with ob := Tab.setRun 0 key from_ s.ob }

/-- The transfer leaves the queue: OCC falls, TXBYTES falls by the full amount (R416, R186). -/
def copyFinish (s : State) (core : Nat) (e : CEntry) : State :=
  let c := s.core core
  let s1 := s.setCore core { c with cq := c.cq.filter fun x => x.seq != e.seq }
  let s2 := e.members.foldl (fun x w =>
    if alive x w then let t := x.thread w.key; x.setThread w.key { t with occ := t.occ - 1 } else x) s1
  if e.cmp then barLater s2 e.crew e.bar e.bytes else s2

/-- COPY_COMPLETE: at 128 bytes a cycle the transfer has had its time; the elements left are moved, and it completes, stops at an
element until the resume, or ends (R186, R416). -/
def execCopyComplete (core : Nat) (s : State) : Result :=
  .next (match (s.core core).cq.find? fun e => e.started.isSome with
    | none => s
    | some e =>
      match e.started with
      | none => s
      | some t0 =>
        if e.page.isSome || decide (s.nextCycle core < t0 + (e.bytes + 127) / 128) then s
        else if e.kind = .cpyt then copyFinish (moveTile s core e) core e
        else
          let r := moveElems core e (e.n - e.moved) e.moved s
          let at_ (va : Nat) : CEntry := { e with moved := r.2.1, off := va - (copyAddr s e r.2.1).getD va }
          match r.2.2 with
          | .done => copyFinish r.1 core e
          | .wait va => setHead r.1 core (at_ va)
          | .stop va h => setHead (pageRequest r.1 e.ctx va (if e.out then 1 else 0) h core) core { at_ va with page := some (va / 4096) }
          | .ended _ => copyFinish r.1 core e
          | .fault code addr => contextFault (copyFinish r.1 core e) e.ctx { engineRec s core e.crew addr with code })

/-! ### Regions (R187, R188) -/

/-- Charges of `n` blocks of 128 bytes of a region that have been moved: the copy engine's and each stage block (R188; regions are aligned, R187). -/
def regionCharge (s : State) (core ctx crew n : Nat) : State :=
  chargeFor s ctx crew (s.weights.copy * n + s.weights.stage * n) (core / 2) (some core)

/-- Moves regions in list order from the byte where the crew stands, in (true) or out: how it ended. Where the transfer has to stop,
the crew keeps its place. What has been moved is charged, however it ends. -/
def moveRegions (crew : Nat) (toStage : Bool) : List Region → State → State × Moved
  | [], s => (s, .done)
  | r :: rs, s =>
    let cr := s.crew crew
    let place (x : State) (region offset : Nat) : State := x.setCrew crew { x.crew crew with region, offset }
    let q := moveSpan cr.core cr.ctx crew 0 (r.base + cr.offset) (cr.stage0 + r.soff + cr.offset) (r.len - cr.offset) (!toStage) none none
      (r.len / 128 + 2) s
    let upTo (o : Nat) : State := regionCharge q.1 cr.core cr.ctx crew ((o - cr.offset) / 128)
    match q.2 with
    | .done => moveRegions crew toStage rs (place (upTo r.len) (cr.region + 1) 0)
    | .stop va h => (place (upTo (va - r.base)) cr.region (va - r.base), .stop va h)
    | .wait va => (place (upTo (va - r.base)) cr.region (va - r.base), .wait va)
    | .fault c va => (upTo (va - r.base), .fault c va)
    | .ended va => (upTo (va - r.base), .ended va)

end Sys2Proof.Machine
end

