-- ==== Sys2Proof/Machine/Former.lean ====
section
/-! DEFINITION. Which convoys are runnable, and the formers of the layby tables (02 R42-R60, R81-R84; 09 R251, R254). -/

namespace Sys2Proof.Machine

/-! ### Runnable convoys -/

/-- Crew in a slot, and the crew of the running slot. -/
def Core.crewAt (c : Core) (slot : Nat) : Nat := if slot = 0 then c.slot0 else c.slot1
def State.runningCrew (s : State) (core : Nat) : Nat := (s.core core).crewAt (s.core core).running
/-- Crews of the running context on a core: both slots' where one context holds both with two crews (R50, R84). -/
def State.runningCrews (s : State) (core : Nat) : List Nat :=
  let c := s.core core
  let r := s.runningCrew core
  if r = 0 then []
  else (dedup [c.slot0, c.slot1]).filter fun x => x != 0 && (s.crew x).ctx == (s.crew r).ctx

/-- A context is dry on a core (R251). -/
def State.dry (s : State) (core ctx : Nat) : Bool := let l := s.lease core ctx; l.refused && decide (l.rem ≤ 0)

/-- The crew may issue on the core but for its slot not being the running one. -/
def crewLive (s : State) (core crew : Nat) : Bool :=
  let cr := s.crew crew
  crew != 0 && cr.phase == CrewPhase.running && (s.ctx cr.ctx).stop == none && !s.dry core cr.ctx && !(s.core core).gated

/-- Instructions that a full layby table holds at their address, as not yet issued (R49). SPAWN waits for rows and numbers too (R62). -/
def waitsForRoom (i : Instr) : Bool :=
  match i with | .br _ _ _ => true | .jmp _ => true | .ret => true | .join _ => true | .eret _ => true | .spawn _ _ _ => true | _ => false

/-- The instruction of a convoy held by such an instruction, executed now. -/
def retried (s : State) (k : Nat) (i : Instr) : Result :=
  let s := { s with cur := k }
  match i with
  | .br q n d => execBr q n d s
  | .jmp a => execJmp a s
  | .ret => execRet s
  | .join n => execJoin n s
  | .eret x => execEret x s
  | .spawn e q a => execSpawn e q a s
  | _ => .next s

/-- It would issue now: it would not be held again. -/
def goesOn (s : State) (k : Nat) (i : Instr) : Bool :=
  match retried s k i with
  | .next t => (t.convoy k).hold != .on i
  | _ => false

/-- What the condition of a held convoy, evaluated now, makes of it. -/
def heldStep (s : State) (k : Nat) : State :=
  match (s.convoy k).hold with
  | .on (.bara n) => baraStep (.bara n) n s k
  | .on (.barw n a) => barwStep (.barw n a) n a false s k
  | .barwDone (.barw n a) => barwStep (.barw n a) n a true s k
  | .on (.mlwait a m) => mlwaitStep (.mlwait a m) a m s k
  | .on (.wait l st c t) => waitStep (.wait l st c t) l st c t s k
  | .on (.fence sc kinds dir) => fenceStep (.fence sc kinds dir) sc kinds dir s k
  | .on (.tfence sc) => tfenceStep (.tfence sc) sc false s k
  | .sent (.tfence sc) => tfenceStep (.tfence sc) sc true s k
  | .on (.ifence sc) => ifenceStep (.ifence sc) sc s k
  | .on (.hput a n) => hputStep (.hput a n) a n s k
  | .on (.hget d n) => hgetStep (.hget d n) d n s k
  | .on (.tclaim n) => tclaimStep (.tclaim n) n s k
  | .trapSpill _ _ => trapSpillRetry s k
  | .jumpSpill _ _ _ _ => jumpSpillRetry s k
  | _ => s

/-- The condition that holds a convoy is true (R45): what it is held at would go on now. -/
def conditionMet (s : State) (k : Nat) : Bool :=
  match (s.convoy k).hold with
  | .on i => if waitsForRoom i then goesOn s k i else ((heldStep s k).convoy k).hold == .none
  | _ => ((heldStep s k).convoy k).hold == .none

/-- A convoy is runnable (R83): it has members and no condition of R45 holds it; `checked` and not paid is a toll not yet collected. -/
def runnable (s : State) (k : Nat) : Bool :=
  let c := s.convoy k
  !c.members.isEmpty && c.acq.isNone && c.reclaim == 0 && (!c.checked || c.tolled) && !awaitsAccess s k
    && (c.hold == .none || conditionMet s k)

/-- Convoys of a crew on a quad. -/
def convoysOf (s : State) (crew core quad : Nat) : List Nat :=
  (s.convoys.filter fun p => p.2.crew == crew && p.2.core == core && p.2.quad == quad && !p.2.members.isEmpty).map (·.1)

/-! ### The former (R52-R54, R57) -/

/-- Living members of a cohort of a crew (R36, R66). -/
def living (s : State) (crew cohort : Nat) : List Nat :=
  (s.threads.filter fun p => p.2.crew == crew && p.2.cohort == cohort && p.2.state != .free).map (·.1)

/-- Threads of a layby that stand in one lane. -/
def Layby.lane (l : Layby) (n : Nat) : List Nat := l.queue.filter fun t => tkeyLane t == n
/-- Heads of the lane lists, ascending lane. -/
def Layby.heads (l : Layby) : List Nat := (List.range 32).filterMap fun n => (l.lane n).head?
def Layby.full (l : Layby) : Bool := (List.range 32).all fun n => !(l.lane n).isEmpty

/-- The members are exactly the living members of one cohort. -/
def isWhole (s : State) (crew : Nat) (ks : List Nat) : Bool :=
  match ks with
  | [] => false
  | t :: _ =>
    let l := living s crew (s.thread t).cohort
    (l.all fun x => ks.contains x) && (ks.all fun x => l.contains x)

/-- A new convoy of threads that leave a layby. -/
def newConvoy (s : State) (crew core quad pc : Nat) (ks : List Nat) (whole : Bool) (g : Tab DWord) : State :=
  let c : Convoy := { crew, core, quad, members := ks.map fun t => (tkeyLane t, tkeyRow t), pc, whole, g, age := (s.cycle core : Int) }
  (s.setThreads ks fun t => { s.thread t with state := .inConvoy }).setConvoy s.key c |>.bump

/-- Threads leave a layby: an empty one is free, else its age restarts and its creation stays (R52, R82). -/
def leaveLayby (s : State) (l : Layby) (ks : List Nat) : State :=
  let same (x : Layby) : Bool := x.crew == l.crew && x.core == l.core && x.quad == l.quad && x.addr == l.addr
  let rest := l.queue.filter fun t => !ks.contains t
  { s with laybys :=
      if rest.isEmpty then s.laybys.filter fun x => !same x
      else s.laybys.map fun x => if same x then { x with queue := rest, age := 0 } else x }

/-- Form (R52). -/
def formLayby (s : State) (l : Layby) : State :=
  let ks := l.heads
  leaveLayby (newConvoy s l.crew l.core l.quad l.addr ks (isWhole s l.crew ks) []) l ks

/-- Cohorts that a junction layby holds whole. -/
def wholeCohorts (s : State) (l : Layby) : List Nat :=
  ascending ((l.queue.map fun t => (s.thread t).cohort).filter fun c => (living s l.crew c).all fun t => l.queue.contains t)

/-- FormCohort (R57). -/
def formCohort (s : State) (l : Layby) (c : Nat) : State :=
  let ks := byLane (living s l.crew c)
  leaveLayby (newConvoy s l.crew l.core l.quad l.addr ks true []) l ks

/-- First by creation, then by address. -/
def earliest (l : List Layby) : Option Layby :=
  l.foldl (fun a x => match a with
    | none => some x
    | some y => some (if x.created < y.created ∨ (x.created = y.created ∧ x.addr < y.addr) then x else y)) none
def lowest (l : List Layby) : Option Layby :=
  l.foldl (fun a x => match a with | none => some x | some y => some (if x.addr < y.addr then x else y)) none

/-- A convoy's spills wait for room in the layby table: a SPAWN's where nothing else is missing. -/
def convoySpillHolding (s : State) (k : Nat) : Bool :=
  match (s.convoy k).hold with
  | .trapSpill _ _ => !conditionMet s k
  | .jumpSpill _ _ _ _ => !conditionMet s k
  | .on (.spawn e q a) => !goesOn s k (.spawn e q a) && goesOn { s with laybys := [] } k (.spawn e q a)
  | .on i => waitsForRoom i && !goesOn s k i
  | _ => false

/-- A spill of the crew on the quad is holding (R49): a convoy's, or that of a sync episode whose condition is met. -/
def spillHolding (s : State) (crew core quad : Nat) : Bool :=
  (convoysOf s crew core quad).any (convoySpillHolding s)
    || (s.crew crew).syncs.any fun p =>
      (match p.2.parked with | t :: _ => tkeyCore t == core && tkeyQuad t == quad | [] => false) && syncMet s crew p.1

/-- Laybys that are ready (R52), not junctions of a DET run. -/
def readyLaybys (s : State) (crew core quad : Nat) : List Layby :=
  let tab := s.laybys.filter fun l => l.crew == crew && l.core == core && l.quad == quad
  let idle := (convoysOf s crew core quad).all fun k => !runnable s k
  let plain := tab.filter fun l => !l.junction && !l.queue.isEmpty
  let full := tab.length == 64 && spillHolding s crew core quad
  let w := (s.crewRun crew).wait
  plain.filter fun l => l.full || decide (w ≤ l.age) || idle || (full && (earliest plain).map (·.addr) == some l.addr)

/-- Junction laybys that hold a whole cohort. -/
def cohortLaybys (s : State) (crew core quad : Nat) : List Layby :=
  s.laybys.filter fun l => l.crew == crew && l.core == core && l.quad == quad && l.junction && !(wholeCohorts s l).isEmpty

/-- The former of a crew's table on a quad (R52). -/
def formerStep (s : State) (crew core quad : Nat) : State :=
  let ready := readyLaybys s crew core quad
  let w := (s.crewRun crew).wait
  match earliest (ready.filter fun l => decide (w + 64 ≤ l.age)) with
  | some l => formLayby s l
  | none =>
    match lowest (ready ++ cohortLaybys s crew core quad) with
    | none => s
    | some l => if l.junction then (match wholeCohorts s l with | c :: _ => formCohort s l c | [] => s) else formLayby s l

/-- The crew that uses a layby table (R50): slot 1's table is unused by a crew that holds both slots. -/
def tableCrew (s : State) (core slot : Nat) : Nat :=
  let c := (s.core core).crewAt slot
  if slot = 1 ∧ c = (s.core core).slot0 then 0 else c

/-- The former of a table forms at most one convoy in a core cycle (R52). -/
def formTable (core quad slot : Nat) (s : State) : State :=
  let crew := tableCrew s core slot
  let now := s.cycle core + 1
  if crew != 0 && (s.crew crew).phase == .running && (s.ctx (s.crew crew).ctx).stop == none && !(s.core core).gated
      && Tab.get 0 (s.core core).formed (2 * quad + slot) != now then
    let s1 := formerStep s crew core quad
    if s1.fresh = s.fresh then s else s1.setCore core { s1.core core with formed := Tab.set 0 (2 * quad + slot) now (s1.core core).formed }
  else s

/-- FORMER. -/
def execFormer (core quad slot : Nat) (s : State) : Result := .next (formTable core quad slot s)

/-- FORMATION_WAIT_EXPIRY: a layby whose age has reached W is ready, from W + 64 on overdue (R51, R82); its former has work, if it has
not formed a convoy in this cycle. -/
def execFormationWaitExpiry (core quad slot addr : Nat) (s : State) : Result :=
  .next (let crew := tableCrew s core slot
    match s.layby? crew core quad addr with
    | some l => if (s.crewRun crew).wait ≤ l.age then s.post [.former core quad slot] else s
    | none => s)

/-- The context of a crew has issuable work on a core (09 R254). -/
def issuableWork (s : State) (core crew : Nat) : Bool :=
  (List.range 4).any fun q =>
    (convoysOf s crew core q).any (runnable s) || !(readyLaybys s crew core q).isEmpty || !(cohortLaybys s crew core q).isEmpty

/-! ### Rows that free (R65, R66, R71) -/

/-- Threads of a crew. -/
def crewThreads (s : State) (crew : Nat) : List Nat :=
  (s.threads.filter fun p => p.2.crew == crew && p.2.state != .free).map (·.1)

/-- The crew ends where its last row has freed, though a stream-out has begun (R66): its out-regions are written back. -/
def crewEnd (s : State) (crew : Nat) : State :=
  let p := (s.crew crew).phase
  if (crewThreads s crew).isEmpty && (p == .running || p == .leaving) then
    (s.setCrew crew { s.crew crew with phase := .writingBack }).post [.regionWriteback crew]
  else s

/-- ROW_FREE: the row of an exiting thread frees once its OCL and its TLDs are zero; its cohort's sync episode and junctions may
complete, and the crew ends with its last row. -/
def execRowFree (t : Nat) (s : State) : Result :=
  .next (let th := s.thread t
    if th.state = .exiting ∧ th.ocl = 0 ∧ th.tlds = 0 then
      crewEnd (syncCheck (s.setThread t { gen := th.gen }) th.crew th.cohort) th.crew
    else s)

end Sys2Proof.Machine
end

