-- ==== Sys2Proof/Machine/Ring.lean ====
section
/-! DEFINITION. The Turnpike: one island cycle of a ring (08 R214-R239), quad arbitration and engine ports, and what each core
cycle does besides: ages, formers, conditions of held convoys, completions that are due (02 R45, R52; 05 R141; 06 R183; 09 R254). -/

namespace Sys2Proof.Machine

/-! ### Tolls -/

/-- Toll at the quad's stop (R222). -/
def quadToll : Instr → Nat
  | .fadd _ _ _ _ _ => 1 | .fsub _ _ _ _ _ => 1 | .fmul _ _ _ _ _ => 1 | .fmin _ _ _ _ _ => 1 | .fmax _ _ _ _ _ => 1
  | .fcmp _ _ _ _ _ => 1 | .fsgn _ _ _ _ _ => 1 | .fclass _ _ _ _ => 1 | .cvt _ _ _ _ _ _ => 1 | .cvti _ _ _ _ _ _ => 1
  | .cvtf _ _ _ _ _ _ => 1 | .shfl _ _ _ _ _ => 1 | .vote _ _ _ _ => 1 | .scan _ _ _ _ _ => 1 | .scanFadd _ _ _ _ => 1
  | .red _ _ _ _ => 1 | .redFadd _ _ _ => 1 | .perm _ _ _ _ => 1 | .ld _ _ _ _ w => lmToll w | .st _ _ _ _ w => lmToll w
  | .aadd _ _ _ _ _ _ _ _ => 1 | .aand _ _ _ _ _ _ _ _ => 1 | .aor _ _ _ _ _ _ _ _ => 1 | .axor _ _ _ _ _ _ _ _ => 1
  | .amin _ _ _ _ _ _ _ _ => 1 | .amax _ _ _ _ _ _ _ _ => 1 | .aminu _ _ _ _ _ _ _ _ => 1 | .amaxu _ _ _ _ _ _ _ _ => 1
  | .axchg _ _ _ _ _ _ _ _ => 1 | .acas _ _ _ _ _ _ _ _ => 1 | .afadd _ _ _ _ _ _ _ _ _ => 1
  | .ffma _ _ _ _ _ => 2 | .ffms _ _ _ _ _ => 2 | .fdot _ _ _ _ _ => 2 | .fspc _ _ _ _ => 2
  | _ => 0

/-- Hold window of a toll paid at a quad's stop (R222). -/
def quadWindow (toll : Nat) : Nat := if toll = 1 then 4 else 6

/-- A lane instruction's word has bit 31 clear (14 R376). -/
def isLane (i : Instr) : Bool := decide (encode0 i < 0x80000000)

/-- R374 step 4 for the instructions that have a toll: such an instruction faults without reaching the toll check. -/
def step4Illegal (i : Instr) (s : State) (k : Nat) : Bool :=
  let cr := s.crewOf k
  match i with
  | .fclass _ _ e n => let f := cr.fmt n; f.v && decide (perReg f.width ≤ e)
  | .cvt _ a sf p _ f => (cr.fmt f).v && (cr.fmt sf).v && spanIllegal a p (cr.fmt f).width (cr.fmt sf).width
  | .cvti _ a sf p _ m => (cr.fmt sf).v && spanIllegal a p (widthOf m) (cr.fmt sf).width
  | .cvtf _ a w p _ f => (cr.fmt f).v && spanIllegal a p (cr.fmt f).width (widthOf w)
  | .afadd _ _ _ _ w _ _ f _ => atomIllegal 10 f w s k
  | _ => false

/-- Issue arbitration passes over the convoy (R137, R149, R195, R416). -/
def passedOver (s : State) (k : Nat) (i : Instr) : Bool :=
  let core := (s.convoy k).core
  let pair := !(mqRoom s (2 * (core / 2)) && mqRoom s (2 * (core / 2) + 1) && octRoom s k)
  let one := !(mqRoom s core && octRoom s k)
  let atom (n : Nat) : Bool := counterFull s k (if n = 0 then Thread.ocl else Thread.ocs) 1
  match i with
  | .mma _ _ _ _ _ _ _ _ _ => one | .tzero _ => one | .tld _ _ _ _ _ => one | .tst _ _ _ _ _ _ _ => one
  | .mmab _ _ _ _ _ _ _ _ _ => pair | .mmaj _ _ _ _ _ _ _ _ _ => pair
  | .cpy _ _ _ _ _ _ _ => !cqRoom s k | .cpyg _ _ _ _ _ _ _ => !cqRoom s k | .cpyt _ _ _ _ _ _ _ _ => !cqRoom s k
  | .ld _ _ _ _ _ => counterFull s k Thread.ocl 1
  | .st _ _ _ _ w => counterFull s k Thread.ocs (if 5 ≤ w then 2 else 1)
  | .aadd _ _ _ _ _ _ _ n => atom n | .aand _ _ _ _ _ _ _ n => atom n | .aor _ _ _ _ _ _ _ n => atom n
  | .axor _ _ _ _ _ _ _ n => atom n | .amin _ _ _ _ _ _ _ n => atom n | .amax _ _ _ _ _ _ _ n => atom n
  | .aminu _ _ _ _ _ _ _ n => atom n | .amaxu _ _ _ _ _ _ _ n => atom n | .axchg _ _ _ _ _ _ _ n => atom n
  | .acas _ _ _ _ _ _ _ n => atom n | .afadd _ _ _ _ _ _ _ _ n => atom n
  | _ => false

/-! ### Demands -/

/-- A demand on the ring (R226): of one stop, or of two engine ports that share it (R230). -/
structure Dem where
  stop : Nat
  target : Nat
  pair : Option Nat := none
  each : Nat := 0
deriving DecidableEq, Repr, Inhabited

/-- What a demand still lacks. -/
def Dem.need (d : Dem) (coll : List Nat) : Nat :=
  match d.pair with
  | none => d.target - listGet coll d.stop
  | some p => (d.each - listGet coll d.stop) + (d.each - listGet coll p)

def Dem.stops (d : Dem) : List Nat := match d.pair with | none => [d.stop] | some p => [d.stop, p]

/-- The demand that a claim stands for: the one it was opened for, or the shared demand that this has become part of. -/
def claimFor (ds : List Dem) (c : Claim) : Option Dem :=
  ds.find? fun d => d.stops.contains c.stop || (match c.pair with | some p => d.stops.contains p | none => false)

/-- A ready convoy (R228): whether its instruction is a lane instruction, its toll at the quad's stop, its TCLAIM shortfall. -/
structure Cand where
  key : Nat
  age : Int
  lane : Bool := false
  toll : Nat := 0
  need : Nat := 0
  /-- The held instruction that would go on in this cycle (02 R49, R62), and then is evaluated again. -/
  retry : Option Instr := none
deriving DecidableEq, Repr, Inhabited

/-- Size that a convoy's TCLAIM, or the implicit one after a restore, wants (R232, R234). -/
def claimSize (c : Convoy) : Option Nat :=
  if c.reclaim ≠ 0 then some c.reclaim else match c.hold with | .on (.tclaim n) => some n | _ => none

def shortfall (s : State) (k n : Nat) : Nat := grantOf s k n - heldBy s k

/-- Presentation (R239): a convoy that may issue has the words of its instruction in hand, and the first five checks of 14 R374 of a lane instruction
with a toll are made and settled; an entry that another convoy's FMTW changes after that is seen anew at the issue (03 R100, log 64). A demand is
suspended while the pool is below its toll. -/
def present (s : State) (k : Nat) : State :=
  let c := s.convoy k
  if c.members.isEmpty || c.tolled || (claimSize c).isSome || c.acq.isSome || !(c.hold == .none || c.hold == .suspended) || awaitsAccess s k
      || decide (s.cycle c.core < c.notBefore) then s
  else
    let s1 := takeHand s k
    match s1.inHand k with
    | none => s1
    | some h => match h.instr with
      | none => s1
      | some i =>
        let t := quadToll i
        let p := (s1.island (c.core / 2)).pool
        if t = 0 ∨ h.verdict.isSome then s1
        else if c.checked then holdAt s1 k (if p < t then .suspended else .none)
        else if passedOver s1 k i then s1
        else if step4Illegal i s1 k then s1.setHand k (some { h with verdict := some 0x001 })
        else if p < t then s1.setHand k (some { h with verdict := some 0x040 })
        else s1.setConvoy k { s1.convoy k with checked := true }

/-- A convoy's part in the arbitration, none where it is not ready. Where its fetch met a trap it issues with that. -/
def candOf (s : State) (k : Nat) : Option Cand :=
  let c := s.convoy k
  match claimSize c with
  | some n => let x := shortfall s k n; if x = 0 then none else some { key := k, age := c.age, need := x }
  | none =>
    if c.members.isEmpty || c.acq.isSome || awaitsAccess s k || decide (s.cycle c.core < c.notBefore) then none
    else match c.hold with
    | .on i => if waitsForRoom i && goesOn s k i then some { key := k, age := c.age, retry := some i } else none
    | .none => match s.inHand k with
      | some h => match h.instr with
        | some i =>
          if passedOver s k i then none
          else some { key := k, age := c.age, lane := isLane i, toll := if c.checked && !c.tolled then quadToll i else 0 }
        | none => some { key := k, age := c.age, lane := decide (h.w0 < 0x80000000) }
      | none => match (fetchOf s k).2 with
        | .trap _ _ _ => some { key := k, age := c.age, lane := true }
        | _ => none
    | _ => none

/-- Oldest first; of two equally old convoys the one made earlier, which has the lower key (log 63: the spec orders launch convoys only). -/
def insertCand (x : Cand) : List Cand → List Cand
  | [] => [x]
  | y :: ys => if x.age < y.age ∨ (x.age = y.age ∧ x.key < y.key) then x :: y :: ys else y :: insertCand x ys

/-- Convoys of the running context on a quad. -/
def quadConvoys (s : State) (core quad : Nat) : List Nat :=
  ((s.runningCrews core).filter (crewLive s core)).flatMap fun crew => convoysOf s crew core quad

/-- Ready convoys of a quad, oldest first. -/
def ready (s : State) (core quad : Nat) : List Cand :=
  ((quadConvoys s core quad).filterMap (candOf s)).foldl (fun a c => insertCand c a) []

/-- R229: a toll that the convoy's own holding covers. -/
def covered (s : State) (isOpen : Bool) (c : Cand) : Bool := c.toll != 0 && decide (c.toll ≤ (s.convoy c.key).free) && !isOpen

/-- Convoys that must collect (R228). -/
def wideOf (s : State) (isOpen : Bool) (cs : List Cand) : List Cand :=
  cs.filter fun c => (c.toll != 0 || c.need != 0) && !covered s isOpen c

/-- The payer, and whether every PAID flag of the quad is cleared first. -/
def payerOf (s : State) (isOpen : Bool) (cs : List Cand) : Bool × Option Cand :=
  let w := wideOf s isOpen cs
  match w.find? fun c => !(s.convoy c.key).paid with
  | some c => (false, some c)
  | none => (true, w.head?)

def Cand.target (c : Cand) : Nat := if c.need ≠ 0 then c.need else c.toll

/-! ### Engine ports (R226, R230) -/

/-- The entry that a port serves: of the matrix queue or the copy queue, whichever was issued earlier (08 R230). -/
inductive Served where
  | none | m (e : MEntry) | c (e : CEntry)
deriving DecidableEq, Repr, Inhabited

/-- What a port serves now. DESIGN CHOICE (log 84): an entry of a crew that is leaving may still start while the context engine waits for the
started ones; 05 R145 does not say. -/
def served (s : State) (core : Nat) : Served :=
  let p := (s.island (core / 2)).pool
  if (s.core core).gated then .none
  else
    let m := match mStartable s core (s.cycle core) with | some e => if e.toll ≤ p then some e else none | none => none
    let c := if 4 ≤ p then cStartable s core else none
    match m, c with
    | some e, some f => if e.seq < f.seq then .m e else .c f
    | some e, none => .m e
    | none, some f => .c f
    | none, none => .none

def isPair (k : MKind) : Bool := match k with | .mmab => true | .mmaj => true | _ => false

/-- Both ports of a ring serve one operation. -/
def samePair (s : State) (core : Nat) (e : MEntry) : Bool :=
  match served s (2 * (core / 2)), served s (2 * (core / 2) + 1) with
  | .m x, .m y => isPair x.kind && x.kind == y.kind && !x.paid && !y.paid
      && (if x.kind == .mmab then x.seq == y.seq && x.seq == e.seq else x.joint == y.joint && (s.crew x.crew).run == (s.crew y.crew).run)
  | _, _ => false

/-- Demand of a core's port (R226). The two ports of an MMAB, or of one ring's part of an MMAJ, share one, recorded at the even core's, as
soon as both serve it; until then the one that does has its own part of it (R230). -/
def portDemand (s : State) (core : Nat) : Option Dem :=
  match served s core with
  | .m e =>
    if e.paid || e.toll == 0 then none
    else if isPair e.kind && samePair s core e then
      if core % 2 = 0 then some { stop := 4, target := 2 * e.toll, pair := some 9, each := e.toll } else none
    else some { stop := portStop core, target := e.toll }
  | .c f => if f.paid then none else some { stop := portStop core, target := 4 }
  | .none => none

/-- Demand of a quad's stop. -/
def quadDemand (s : State) (isOpen : Bool) (core quad : Nat) : Option Dem :=
  (payerOf s isOpen (ready s core quad)).2.map fun c => { stop := quadStop core quad, target := c.target }

/-- Demands of a ring, ascending stop. -/
def demandsOf (s : State) (isl : Nat) : List Dem :=
  let isOpen := !(s.island isl).claims.isEmpty
  [2 * isl, 2 * isl + 1].flatMap fun core =>
    ((List.range 4).filterMap (quadDemand s isOpen core)) ++ (portDemand s core).toList

/-! ### Holdings of a ring -/

def holders (s : State) (isl : Nat) : List Nat :=
  (s.convoys.filter fun p => p.2.core / 2 == isl && p.2.free != 0).map (·.1)
def freeHeld (s : State) (isl : Nat) : Nat := s.convoys.foldl (fun a p => if p.2.core / 2 == isl then a + p.2.free else a) 0
def totalHeld (s : State) (isl : Nat) : Nat := s.convoys.foldl (fun a p => if p.2.core / 2 == isl then a + heldBy s p.1 else a) 0
/-- The youngest holding that has free tokens (R220); of equally young ones that of the higher convoy key (log 63). -/
def youngest (s : State) (isl : Nat) : Option Nat :=
  (holders s isl).foldl (fun a k => match a with
    | none => some k
    | some j => if (s.convoy k).youth < (s.convoy j).youth then some j else some k) none

/-- Tokens that stand on a ring outside the debt. -/
def onRing (s : State) (isl : Nat) : Nat :=
  let i := s.island isl
  i.bins.foldl (· + ·) 0 + i.coll.foldl (· + ·) 0 + i.windows.foldl (fun a w => a + w.tokens) 0 + freeHeld s isl

/-! ### The steps of a cycle -/

/-- Claims of a list brought to the collectors: those met are closed (R236). -/
def settleClaims (ds : List Dem) (i : Island) : Island :=
  { i with claims := (i.claims.map fun c =>
      match claimFor ds c with
      | some d => { c with stop := d.stop, remaining := d.need i.coll, pair := d.pair, each := d.each }
      | none => { c with remaining := 0 }).filter fun c => c.remaining != 0 }

/-- Collector of a stop given up by Return. -/
def dumpColl (i : Island) (stop : Nat) : Island :=
  (returnTokens { i with coll := listSet i.coll stop 0 } stop (listGet i.coll stop) 0).1

/-- Claims whose demand has disappeared close, and their collectors return at once (R236). -/
def dropClaims (ds : List Dem) (i : Island) : Island :=
  let gone := i.claims.filter fun c => (claimFor ds c).isNone
  let j := { i with claims := i.claims.filter fun c => !gone.contains c }
  gone.foldl (fun x c => let y := dumpColl x c.stop; match c.pair with | some p => dumpColl y p | none => y) j

/-- Collectors handed to the open claims, then to the bin (R235 item 1). -/
def handOver (d : Dem) (i : Island) : Island :=
  (List.range 10).foldl (fun x st =>
    if d.stops.contains st || x.claims.any fun c => c.stop == st || c.pair == some st then x
    else
      let r := giveClaims (listGet x.coll st) x.claims (listSet x.coll st 0)
      { x with claims := r.2.1, coll := r.2.2, bins := listSet x.bins st (listGet x.bins st + r.1) }) i

/-- Revocation for the oldest claim, token by token (R235 item 2). -/
def revoke (isl : Nat) : Nat → State → State
  | 0, s => s
  | f + 1, s =>
    let i := s.island isl
    match i.claims, youngest s isl with
    | c :: cs, some k =>
      if i.pool < c.remaining + freeHeld s isl ∧ c.remaining ≠ 0 then
        let cv := s.convoy k
        let r := giveClaims 1 [c] i.coll
        revoke isl f ((s.setConvoy k { cv with free := cv.free - 1, tolls := cv.tolls - 1 }).setIsland isl
          { i with claims := r.2.1 ++ cs, coll := r.2.2 })
      else s
    | _, _ => s

/-- A stop that meets the claim condition in the island's cycle opens a claim (R235). -/
def openClaim (s : State) (isl : Nat) (ds : List Dem) (d : Dem) : State :=
  let i := s.island isl
  let b := Tab.get 0 i.begins d.stop
  if b = 0 ∨ i.cycle + 1 < b + 20 ∨ d.need i.coll = 0 ∨ i.claims.any (fun c => d.stops.contains c.stop) then s
  else
    let i1 := { i with claims := i.claims ++ [{ stop := d.stop, opened := i.cycle, remaining := d.need i.coll, pair := d.pair, each := d.each }] }
    let i2 := settleClaims ds (handOver d i1)
    let s1 := revoke isl 256 (s.setIsland isl i2)
    s1.setIsland isl (settleClaims ds (s1.island isl))

/-- CLAIM_OPEN: step 2 of a cycle for one stop. -/
def execClaimOpen (isl stop : Nat) (s : State) : Result :=
  .next (let ds := demandsOf s isl
    match ds.find? fun d => d.stop == stop with
    | some d => openClaim s isl ds d
    | none => s)

/-- One hold window ends: Return at its stop (R224, R225). -/
def endWindow (isl : Nat) (s : State) (w : Window) : State :=
  let i := s.island isl
  let i := { i with windows := i.windows.erase w }
  let room := match w.holder with
    | none => 0
    | some k =>
      let c := s.convoy k
      c.tolls - (c.free + i.windows.foldl (fun a x => if x.holder == some k then a + x.tokens else a) 0)
  let r := returnTokens i w.stop w.tokens room
  let s1 := s.setIsland isl r.1
  match w.holder with
  | some k => let c := s1.convoy k; if r.2 = 0 then s1 else s1.setConvoy k { c with free := c.free + r.2 }
  | none => s1

/-- Step 3: every window that has ended, in the order in which they were opened (log 63). -/
def endWindows (isl : Nat) (s : State) : State :=
  ((s.island isl).windows.filter fun w => decide (w.ends ≤ (s.island isl).cycle)).foldl (endWindow isl) s

/-- HOLD_WINDOW_END. -/
def execHoldWindowEnd (isl : Nat) (s : State) : Result := .next (endWindows isl s)

/-- R220: free holding tokens above ⌊P ÷ 2⌋ are given up, youngest holding first, with `f` as bound of their number. -/
def trimHoldings (isl : Nat) : Nat → State → State
  | 0, s => s
  | f + 1, s =>
    let i := s.island isl
    let excess := totalHeld s isl - i.pool / 2
    match youngest s isl with
    | some k =>
      if excess = 0 then s
      else
        let c := s.convoy k
        let x := min c.free excess
        trimHoldings isl f ((s.setConvoy k { c with free := c.free - x, tolls := c.tolls - x }).setIsland isl
          (returnTokens i (quadStop c.core c.quad) x 0).1)
    | none => s

/-- Step 4 (R220): what the pool rose by joins the bin at stop 0; the debt is paid from it. -/
def mint (rise : Nat) (i : Island) : Island :=
  let b := listGet i.bins 0 + rise
  let x := min i.debt b
  { i with bins := listSet i.bins 0 (b - x), debt := i.debt - x }

/-- A stop takes from the bin at it what its part of the demand lacks. -/
def takeAt (i : Island) (stop want : Nat) : Island :=
  let x := min (want - listGet i.coll stop) (listGet i.bins stop)
  { i with bins := listSet i.bins stop (listGet i.bins stop - x), coll := listSet i.coll stop (listGet i.coll stop + x) }

def takeDem (i : Island) (d : Dem) : Island :=
  match d.pair with
  | none => takeAt i d.stop d.target
  | some p => takeAt (takeAt i d.stop d.each) p d.each

/-- What a stop may keep in its collector. -/
def keepAt (ds : List Dem) (stop : Nat) : Nat :=
  match ds.find? fun d => d.stops.contains stop with
  | some d => (match d.pair with | none => d.target | some _ => d.each)
  | none => 0

/-- Step 5 (R227). -/
def collect (ds : List Dem) (i : Island) : Island :=
  let i1 := (List.range 10).foldl (fun x st =>
    let excess := listGet x.coll st - keepAt ds st
    if excess = 0 then x else (returnTokens { x with coll := listSet x.coll st (listGet x.coll st - excess) } st excess 0).1) i
  let i2 := settleClaims ds i1
  let i3 := match i2.claims with
    | c :: _ => (match ds.find? fun d => d.stop == c.stop with | some d => takeDem i2 d | none => i2)
    | [] => ds.foldl takeDem i2
  settleClaims ds i3

/-- A convoy goes on the list of those that issue; its toll, if any, enters its hold window. -/
def issueCand (s : State) (isl stop : Nat) (c : Cand) (holding : Bool) : State :=
  let i := s.island isl
  let cv := s.convoy c.key
  let s1 := { s with issue := s.issue ++ [c.key] }
  if c.toll = 0 then s1
  else
    let w : Window := { stop, ends := i.cycle + quadWindow c.toll, tokens := c.toll, holder := if holding then some c.key else none }
    if holding then (s1.setConvoy c.key { cv with free := cv.free - c.toll, tolled := true }).setIsland isl { i with windows := i.windows ++ [w] }
    else (s1.setConvoy c.key { cv with paid := true, tolled := true }).setIsland isl
      { i with windows := i.windows ++ [w], coll := listSet i.coll stop (listGet i.coll stop - c.toll) }

/-- Arbitrate (R228). A TCLAIM whose shortfall is met sets PAID too (log 63). -/
def arbitrate (s : State) (isl core quad : Nat) : State :=
  let stop := quadStop core quad
  let isOpen := !(s.island isl).claims.isEmpty
  let cs := ready s core quad
  let p := payerOf s isOpen cs
  let s1 := if p.1 then { s with convoys := s.convoys.map fun x =>
      if x.2.core == core && x.2.quad == quad && x.2.paid then (x.1, { x.2 with paid := false }) else x } else s
  let mine (c : Cand) : Bool := match p.2 with | some q => q.key == c.key | none => false
  (cs.foldl (fun (a : State × Nat × Nat) c =>
    let (x, lanes, groups) := a
    let count (y : State) : State × Nat × Nat := if c.lane then (y, lanes + 1, groups) else (y, lanes, groups + 1)
    if c.need ≠ 0 then
      if mine c && decide (c.need ≤ listGet (x.island isl).coll stop) then
        let cv := x.convoy c.key
        ((x.setConvoy c.key { cv with paid := true }).post [.tclaimComplete c.key], lanes, groups)
      else a
    else if (c.lane && lanes == 2) || (!c.lane && groups == 1) then a
    else if c.toll = 0 then count (issueCand x isl stop c false)
    else if covered x isOpen c then count (issueCand x isl stop c true)
    else if mine c && decide (c.toll ≤ listGet (x.island isl).coll stop) then count (issueCand x isl stop c false)
    else a) (s1, 0, 0)).1

/-- TCLAIM_COMPLETE: the collected shortfall joins the holding (R232, R234). -/
def execTclaimComplete (k : Nat) (s : State) : Result :=
  .next (let c := s.convoy k
    let isl := c.core / 2
    match claimSize c with
    | none => s
    | some n =>
      let x := shortfall s k n
      let stop := quadStop c.core c.quad
      let i := s.island isl
      if listGet i.coll stop < x then s
      else
        let done (y : State) : State :=
          let d := y.convoy k
          if c.reclaim ≠ 0 then y.setConvoy k { d with reclaim := 0 } else advance y k (.tclaim n)
        if x = 0 then done (claimShrink s k (grantOf s k n))
        else done ((s.setConvoy k { c with tolls := heldBy s k + x, free := c.free + x, youth := i.cycle }).setIsland isl
          { i with coll := listSet i.coll stop (listGet i.coll stop - x) }))

/-- A port's toll enters its hold window. -/
def payPort (s : State) (core toll window : Nat) : State :=
  let isl := core / 2
  let i := s.island isl
  let stop := portStop core
  s.setIsland isl { i with coll := listSet i.coll stop (listGet i.coll stop - toll),
                           windows := i.windows ++ [{ stop, ends := i.cycle + window, tokens := toll }] }

def portHas (s : State) (core toll : Nat) : Bool := decide (toll ≤ listGet (s.island (core / 2)).coll (portStop core))

/-- Step 6 at a core's port (R230). DESIGN CHOICE (log 66): where the clusters of an MMAJ bring entries of different input widths, toll and window
at all 8 ports are those of the starting port's own entry (R223 has one input width). -/
def startPort (s : State) (core : Nat) : State :=
  match served s core with
  | .none => s
  | .c f =>
    if f.paid then s.post [.copyStart core]
    else if portHas s core 4 then (payPort (setHead s core { f with paid := true }) core 4 16).post [.copyStart core]
    else s
  | .m e =>
    if e.paid || e.toll == 0 then s.post [.matrixEntryStart core]
    else
      let cs := opCores core e
      let all := cs.all fun c => partOf s e c (s.cycle c) && portHas s c e.toll
        && (match served s c with | .m x => !x.paid | _ => false)
      if all then
        let paidAt (x : State) (c : Nat) : State :=
          let co := x.core c
          match mqHead co with
          | none => x
          | some h => payPort (x.setCore c { co with mq := co.mq.map fun y => if y.seq == h.seq then { y with paid := true } else y }) c e.toll e.window
        (cs.foldl paidAt s).post [.matrixEntryStart core]
      else s

/-- Begin times + 1 (R226): a demand that is not met keeps its own, the earlier of its two ports', or begins in this cycle. -/
def beginTimes (ds : List Dem) (i : Island) : Island :=
  { i with begins := ds.foldl (fun t d =>
      if d.need i.coll = 0 then t
      else
        let bs := (d.stops.map (Tab.get 0 i.begins)).filter (· != 0)
        Tab.set 0 d.stop (bs.foldl min (i.cycle + 1)) t) [] }

/-- A demand that the cycle has met ends its run: what the stop demands next begins anew (R226). -/
def endRuns (ds : List Dem) (i : Island) : Island :=
  { i with begins := i.begins.filter fun b => (ds.any fun d => d.stop == b.1 && d.need i.coll != 0) }

/-- What the pool has fallen by is the mint's debt (R220), from the first cycle at the new pool on. -/
def fallToDebt (isl : Nat) (s : State) : State :=
  let i := s.island isl
  s.setIsland isl { i with debt := i.debt + (onRing s isl - i.debt - i.pool) }

/-- Steps 2 to 6 of an island cycle (R216). What R220 has holdings give up, they give up before step 2 (log 63). -/
def ringSteps (isl : Nat) (s : State) : State :=
  let convs := ([2 * isl, 2 * isl + 1].filter fun c => !(s.core c).gated).flatMap fun core =>
    (List.range 4).flatMap fun q => quadConvoys s core q
  let s0 := convs.foldl present s
  let tokens := onRing s0 isl - (s0.island isl).debt
  let s1 := trimHoldings isl ((holders s0 isl).length + 1) (fallToDebt isl s0)
  let ds := demandsOf s1 isl
  let s2 := s1.setIsland isl (beginTimes ds (settleClaims ds (dropClaims ds (s1.island isl))))
  let s3 := ds.foldl (fun x d => openClaim x isl ds d) s2
  let s4 := endWindows isl s3
  let i4 := settleClaims ds (s4.island isl)
  let s5 := s4.setIsland isl (endRuns ds (collect ds (mint (i4.pool - tokens) i4)))
  let cores := [2 * isl, 2 * isl + 1].filter fun c => !(s.core c).gated
  let s6 := (List.range 4).foldl (fun x q => cores.foldl (fun y core => arbitrate y isl core q) x) s5
  cores.foldl startPort s6

/-! ### What else a core cycle does -/

/-- Atomics and MLPASS wait for their release inside the instruction: its scope. -/
def waitsForRelease (i : Instr) : Option Nat :=
  match i with
  | .mlpass _ _ => some 3
  | .aadd _ _ _ _ _ sc _ _ => some sc | .aand _ _ _ _ _ sc _ _ => some sc | .aor _ _ _ _ _ sc _ _ => some sc
  | .axor _ _ _ _ _ sc _ _ => some sc | .amin _ _ _ _ _ sc _ _ => some sc | .amax _ _ _ _ _ sc _ _ => some sc
  | .aminu _ _ _ _ _ sc _ _ => some sc | .amaxu _ _ _ _ _ sc _ _ => some sc
  | .axchg _ _ _ _ _ sc _ _ => some sc | .acas _ _ _ _ _ sc _ _ => some sc
  | .afadd _ _ _ _ _ sc _ _ _ => some sc
  | _ => none

/-- SPILL_RETRY: spills that wait for the layby table are tried again (02 R49); a held instruction issues again in this cycle, with its words. -/
def execSpillRetry (k : Nat) (s : State) : Result :=
  .next (match (s.convoy k).hold with
    | .trapSpill _ _ => trapSpillRetry s k
    | .jumpSpill _ _ _ _ => jumpSpillRetry s k
    | .on i => if waitsForRoom i && goesOn s k i then
        let s1 := s.keepHand k i
        { s1.setConvoy k { s.convoy k with hold := .none } with issue := k :: s.issue } else s
    | _ => s)

/-- The event that evaluates a held convoy's condition. -/
def releaseEvent (k : Nat) (i : Instr) : List Instr :=
  match i with
  | .bara _ => [.baraArrive k]
  | .barw _ _ => [.barwRelease k]
  | .mlwait _ _ => [.mlwaitRelease k]
  | .wait _ _ _ _ => [.waitRelease k]
  | .fence _ _ _ => [.fenceComplete k]
  | .tfence _ => [.tfenceComplete k]
  | .ifence _ => [.ifenceComplete k]
  | .hput _ _ => [.hputPerform k]
  | .hget _ _ => [.hgetPerform k]
  | .spawn _ _ _ => [.spawnComplete k]
  | i => if waitsForRoom i then [.spillRetry k] else []

/-- The event that evaluates what holds a convoy. -/
def heldEvent (s : State) (k : Nat) : List Instr :=
  match (s.convoy k).hold with
  | .on i => releaseEvent k i
  | .barwDone _ => [.barwRelease k]
  | .sent i => releaseEvent k i
  | .trapSpill _ _ => [.spillRetry k]
  | .jumpSpill _ _ _ _ => [.spillRetry k]
  | _ => []

/-- Convoys of a core that something holds, by key. DESIGN CHOICE (log 63): two of one quad whose waits end in one cycle go on in age order
(`orderIssue`), of equal age the lower key first; the spec orders quads and cores only (02 R75). -/
def heldConvoys (s : State) (core : Nat) : List Nat :=
  (s.convoys.filter fun p => p.2.core == core && !p.2.members.isEmpty
    && (p.2.hold != .none || p.2.acq.isSome || p.2.reclaim != 0)).map (·.1)

/-- At the start of a core cycle: a convoy whose condition has become true is runnable again (02 R45), where it is to issue anew, with the
words it has (14 R373). -/
def wakeConvoy (s : State) (k : Nat) : State :=
  let c := s.convoy k
  let s1 := match c.acq with
    | some sc => if countersZero s c.keys true true false false then (acquireL1 s c.core sc).setConvoy k { c with acq := none } else s
    | none => s
  let go : State := s1.setConvoy k { s1.convoy k with hold := .none }
  match c.hold with
  | .on i => (match waitsForRelease i with | some sc => if released s1 k c.keys sc true true false false then go.keepHand k i else s1 | none => s1)
  | .sideFull i => if (s1.core c.core).sideLog.length < 64 then go.keepHand k i else s1
  | .fetch va => if (s1.ctx (s1.crew c.crew).ctx).pages_.contains (va / 4096, 3) then s1 else go
  | _ => s1

/-- A TCLAIM, or the implicit one, whose holding now covers the grant completes (08 R232). -/
def tendClaim (s : State) (k : Nat) : State :=
  let c := s.convoy k
  let live := (s.runningCrews c.core).contains c.crew && crewLive s c.core c.crew
  match claimSize c with
  | some n => if live && shortfall s k n == 0 then s.post [.tclaimComplete k] else s
  | none => s

/-- Place of an instruction among those of its cycle: deposits come first, RELS wN and SRW to Wn last (05 R130, 16 R468). -/
def issueClass (s : State) (k : Nat) : Nat :=
  match (s.convoy k).hold, (s.inHand k).bind InHand.instr with
  | .none, some (.msign ..) => 0
  | .none, some (.relsWaypoint _) => 2
  | .none, some (.srw _ n) => if 0x120 ≤ n && !srFirmware n then 2 else 1
  | _, _ => 1

/-- Keys of convoys, oldest first; of two equally old ones the lower key goes first (log 63). -/
def byAge (s : State) (l : List Nat) : List Nat :=
  (l.foldl (fun a k => insertCand { key := k, age := (s.convoy k).age } a) []).map (·.key)

/-- The instructions of a cluster's cycle, those that issue and those that convoys are held at, in the order in which they act: deposits, the older
convoy first (05 R130); then the lower quad first, then the even core, then the older convoy (02 R75, 03 R99, 15 R404, 17 R486; log 63). -/
def orderIssue (cores : List Nat) (s : State) : State :=
  let held := cores.flatMap fun c => if (s.core c).gated then [] else
    (heldConvoys s c).filter fun k => !(heldEvent s k).isEmpty && !s.issue.contains k
      && (match (s.convoy k).hold with | .on i => !waitsForRoom i | _ => true)
  let all := s.issue ++ held
  { s with issue := byAge s (all.filter fun k => issueClass s k == 0) ++
      [1, 2].flatMap fun cl => (List.range 4).flatMap fun q => cores.flatMap fun core =>
        byAge s (all.filter fun k => issueClass s k == cl && (s.convoy k).quad == q && (s.convoy k).core == core) }

/-- The former of a table at the start of a core cycle: what it forms issues in the next cycle at the earliest (02 R52). -/
def formNow (core : Nat) (s : State) (p : Nat × Nat) : State :=
  let s1 := formTable core p.1 p.2 s
  if s1.fresh = s.fresh then s else s1.setConvoy s1.fresh { s1.convoy s1.fresh with notBefore := s.cycle core + 1 }

/-- Ages and formers of the layby tables of a core. The formers act on what they find at the start of the cycle; the events of the laybys that have come
of age follow. -/
def tendLaybys (s : State) (core : Nat) : State :=
  let run := (s.runningCrews core).filter fun c => (s.crew c).phase == .running
  let s1 := { s with laybys := s.laybys.map fun l => if l.core == core && run.contains l.crew then { l with age := l.age + 1 } else l }
  let mine (slot : Nat) : List Layby :=
    let crew := tableCrew s1 core slot
    s1.laybys.filter fun l => l.core == core && l.crew == crew && crew != 0
  let expired (slot : Nat) : List Instr := (mine slot).filterMap fun l =>
    let w := (s1.crewRun l.crew).wait
    if !l.junction && (l.age == w || l.age == w + 64) then some (.formationWaitExpiry core l.quad slot l.addr) else none
  let tables : List (Nat × Nat) := ([0, 1].flatMap fun slot => (List.range 4).map fun q => (q, slot)).filter fun p =>
    (mine p.2).any fun l => l.quad == p.1
  (tables.foldl (formNow core) s1).post (expired 0 ++ expired 1)

/-- Entries of a core's engines that are complete in cycle `now`, and a started TLD, whose registers may return before it is. -/
def engineDue (s : State) (now core : Nat) : List Instr :=
  let c := s.core core
  if c.gated then []
  else
    let m := match c.mq.find? fun e => e.started.isSome with
      | some e => (match e.started with | some t => if t + e.latency ≤ now ∨ e.kind = .tld then [.matrixEntryComplete core] else [] | none => [])
      | none => []
    let q := match c.cq.find? fun e => e.started.isSome with
      | some e => (match e.started with
        | some t => if e.page.isNone && decide (t + (e.bytes + 127) / 128 ≤ now) then [.copyComplete core] else []
        | none => [])
      | none => []
    m ++ q

/-- A reselection is due (09 R254). -/
def tendSlots (s : State) (core : Nat) : State :=
  let c := s.core core
  let crew := s.runningCrew core
  let other := c.crewAt (1 - c.running)
  if other = 0 ∨ other = crew ∨ (crew ≠ 0 ∧ (s.crew other).ctx = (s.crew crew).ctx) then s
  else if (s.cycle core - c.lag) % 4096 = 0 ∨ crew = 0 ∨ !(s.runningCrews core).any (fun k => crewLive s core k && issuableWork s core k)
  then s.post [.reselect core]
  else s

/-- An error of a core's arrays is counted at its word (11 R318). One that the code corrects changes nothing else; an uncorrectable one confines
to the crew that owns the word, and outside every crew it is cleared, which counts as a correction (11 R308, R310). -/
def tendArrays (s : State) (core : Nat) : State :=
  let c := s.core core
  if c.bad.isEmpty then s
  else
    c.bad.foldl (fun x b =>
      let crew := if b.slot = 0 then 0 else c.crewAt (b.slot - 1)
      let y := countCore x core b.word
      if b.hard && crew != 0 then
        let cr := y.crew crew
        contextFault y cr.ctx { code := 0x060, core, run := (y.run cr.run).id, crew := cr.num, lane := b.lane }
      else
        let i := y.island (core / 2)
        y.setIsland (core / 2) { i with corr := i.corr + 1 }) (s.setCore core { c with bad := [] })

/-- Sync episodes whose condition is met and whose spills had to wait (02 R71). -/
def tendSyncs (s : State) (core : Nat) : State :=
  (dedup [(s.core core).slot0, (s.core core).slot1]).foldl (fun x crew =>
    if crew = 0 then x else ((x.crew crew).syncs.map (·.1)).foldl (fun y n => syncCheck y crew n) x) s

/-- Side-log entries and held lines with no page request outstanding wait only for accesses before them: they are tried again. -/
def tendReplays (s : State) (core : Nat) : State :=
  let mine := (s.core core).sideLog.map (fun e => (e.ctx, e.va / 4096))
  let idle (p : Nat × Nat) : Bool := !(s.ctx p.1).pages_.any fun q => q.1 == p.2
  let s1 := s.post (((mine.foldl (fun a x => if a.contains x then a else a ++ [x]) []).filter idle).map fun p => .sideLogReplay core p.1 p.2)
  let lds := (s.flight.loads.filter fun l => l.core == core && l.unresolved).map (·.ctx) ++ (s.flight.atoms.filter fun a => a.core == core && !a.deferred.isEmpty).map (·.ctx)
  (dedup lds).foldl (fun x ctx => retryHeld x ctx fun l => idle (ctx, l / 32)) s1

/-- Crews that stage, leave or write back go on, unless they wait for a page's resume. -/
def tendCrews (s : State) (core : Nat) : State :=
  (dedup [(s.core core).slot0, (s.core core).slot1]).foldl (fun x crew =>
    let cr := x.crew crew
    let waits := match cr.waitPage with | some p => (x.ctx cr.ctx).pages_.any fun q => q.1 == p | none => false
    if crew = 0 ∨ cr.core ≠ core then x
    else if cr.phase = .leaving then x.post [.streamOut crew]
    else if waits then x
    else
      let y := if cr.waitPage.isSome then x.setCrew crew { cr with waitPage := none } else x
      match cr.phase with
      | .staging => y.post [.crewStart crew]
      | .writingBack => y.post [.regionWriteback crew]
      | _ => y) s

/-- A cycle of the island in which a core is gated is none of the core's (00 R9): the times that its engines, its loads and its slots keep
move on with it. -/
def skipCycle (s : State) (core : Nat) : State :=
  let c := s.core core
  let c1 : Core := { c with mq := c.mq.map fun e => { e with started := e.started.map Nat.succ } }
  let s1 := s.setCore core { c1 with lag := c.lag + 1, selected := c.selected + 1, cq := c.cq.map fun e => { e with started := e.started.map Nat.succ } }
  { s1 with flight := { s1.flight with loads := s1.flight.loads.map fun l =>
      if l.core == core && l.back.isNone then { l with issued := l.issued + 1 } else l } }

/-- Start of a core cycle: sync episodes, convoys that become runnable, a reselection that is due, the formers; all with what they find at the start
of the cycle (02 R52, 09 R254). -/
def startCore (s : State) (core : Nat) : State :=
  if (s.core core).gated then skipCycle s core
  else
    let s1 := tendSyncs s core
    tendLaybys (tendSlots ((heldConvoys s1 core).foldl wakeConvoy s1) core) core

/-- Claims of a cluster's convoys that complete without tokens. -/
def tendClaims (s : State) (cores : List Nat) : State :=
  (cores.flatMap fun c => if (s.core c).gated then [] else heldConvoys s c).foldl tendClaim s

/-- The rest of a core cycle. -/
def tendCore (s : State) (core : Nat) : State :=
  if (s.core core).gated then s
  else tendCrews (tendReplays (tendArrays s core) core) core

/-- Engine entries of a cluster that complete in its next cycle, before what waits for them starts in it (05 R141, R143). -/
def clusterDue (s : State) (isl : Nat) : List Instr :=
  let now := (s.island isl).nextCycle
  engineDue s now (2 * isl) ++ engineDue s now (2 * isl + 1)

/-- RING_CYCLE: the next island cycle of a ring, and of the cluster's cores (R216): in cycle 0 the bins have not moved. A claim whose demand
disappeared after step 6 of the cycle before has closed at once (R236). The cycle counts for the island's correction interval (09 R244). A powered-down or retired island has no cycles (R217). -/
def execRingCycle (isl : Nat) (s : State) : Result :=
  .next (let i := dropClaims (demandsOf s isl) ((fallToDebt isl s).island isl)
    match i.state with
    | .retired => s
    | .poweredDown => s
    | _ =>
      let d := s.dom isl
      let s1 := (s.setIsland isl { i with cycle := i.nextCycle, begun := true, bins := if i.begun then listGet i.bins 9 :: i.bins.take 9 else i.bins }).setDom
        isl { d with count := (d.count + 1) % 65536 }
      let cores := [2 * isl, 2 * isl + 1]
      cores.foldl tendCore (orderIssue cores (tendClaims (ringSteps isl (cores.foldl startCore s1)) cores)))

/-! ### Power and clocks -/

/-- ISLAND_POWER_UP (R217): the whole pool stands at stop 0 in cycle 0. -/
def execIslandPowerUp (isl : Nat) (s : State) : Result :=
  .next (let i := s.island isl
    match i.state with
    | .poweredDown =>
      let j := { i with state := .enabled, cycle := 0, begun := false, debt := 0, coll := List.replicate 10 0, claims := [], windows := [], begins := [] }
      let s1 := s.setIsland isl { j with bins := j.pool :: List.replicate 9 0 }
      [2 * isl, 2 * isl + 1].foldl (fun x c => x.setCore c { x.core c with formed := [], lag := 0 }) s1
    | _ => s)

/-- A cluster with no crew in its slots. -/
def emptyCluster (s : State) (isl : Nat) : Bool :=
  [2 * isl, 2 * isl + 1].all fun c => (s.core c).slot0 == 0 && (s.core c).slot1 == 0

/-- ISLAND_POWER_DOWN (R217): its ring holds no tokens. -/
def execIslandPowerDown (isl : Nat) (s : State) : Result :=
  .next (let i := s.island isl
    match i.state with
    | .enabled =>
      if emptyCluster s isl then
        s.setIsland isl { i with state := .poweredDown, bins := List.replicate 10 0, coll := List.replicate 10 0, claims := [], windows := [],
                                 begins := [], debt := 0 }
      else s
    | _ => s)

/-- CORE_CLOCK_GATE and CORE_CLOCK_UNGATE (00 R9). -/
def execCoreClockGate (core : Nat) (s : State) : Result :=
  .next (let c := s.core core
    s.setCore core { c with gated := true })
def execCoreClockUngate (core : Nat) (s : State) : Result :=
  .next (let c := s.core core
    s.setCore core { c with gated := false })

end Sys2Proof.Machine
end

