-- ==== Sys2Proof/Machine/Launch.lean ====
section
/-! DEFINITION. Queues and runs: fetching packets, event waits, dispatch, staging and launch, completion (10 R266-R277, 12 R333-R338). -/

namespace Sys2Proof.Machine

/-! ### CRC32C (12 R335) -/

def crcBits : Nat → Nat → Nat
  | 0, c => c
  | n + 1, c => crcBits n (if c % 2 = 1 then (c / 2) ^^^ 0x82F63B78 else c / 2)
def crc32c (bs : List Byte) : Nat := (bs.foldl (fun c b => crcBits 8 (c ^^^ b.toNat)) 0xFFFFFFFF) ^^^ 0xFFFFFFFF

/-! ### Accesses that firmware and the fetcher make for a context, under class 3 (12 R333) -/

/-- How such an access ends; `wait`: the port to a peer takes no flits now, and it is made again later. -/
inductive VRes where
  | ok (bytes : List Byte) | page (va : Nat) (isHold : Bool) | trap (code : Nat) | wait
deriving DecidableEq, Repr, Inhabited

/-- A translation of class 3, its walk charged to the context. -/
def vTranslate (s : State) (ctx va : Nat) (write : Bool) : State × Outcome :=
  let r := walk s { ctx, cls := 3, acct := ctx } va
  (r.1, walkOutcome r.2 va write false)

/-- One piece inside a line. -/
def vPiece (s : State) (ctx va n : Nat) (data : Option (List Byte)) : State × VRes :=
  if 2^57 ≤ va then (s, .trap (gradeD 0x021))
  else
    let r := vTranslate s ctx va data.isSome
    match r.2 with
    | .trap c => (r.1, .trap (gradeOf c))
    | .notPresent => (r.1, .page va false)
    | .hold => (r.1, .page va true)
    | .wait => (r.1, .wait)
    | .ok pa =>
      let q : State × SliceOut :=
        if usable pa then sliceAccess r.1 { pa, kind := if data.isSome then 1 else 0, cls := 3, vd := (s.ctx ctx).vd, acct := ctx, ctx := [ctx] }
        else if isPeer pa then peerRequest r.1 ctx 0 none pa (if data.isSome then 2 else 1) data.isSome { code := 0 }
        else (r.1, .ok)
      match q.2 with
      | .ok => (match data with
        -- a 64-bit store, which the event word's is, may be a kick (12 R334)
        | some bs => let x := q.1.writeBytes pa bs; (if usable pa && bs.length == 8 then storeKick x pa (leNat bs) else x, .ok [])
        | none => (q.1, .ok (q.1.readBytes pa n)))
      | .refused => (q.1, .trap (gradeD 0x022))
      | .wait | .fetching => (q.1, .wait)
      | .failed => (q.1, .trap ((q.1.ctx ctx).stop.getD 0))

/-- A read of `n` bytes, line by line: how it went, and the bytes read until then; `f` bounds the lines. -/
def vReadPart (ctx : Nat) : Nat → Nat → Nat → List Byte → State → State × VRes × List Byte
  | 0, _, _, acc, s => (s, .ok acc, acc)
  | f + 1, va, n, acc, s =>
    if n = 0 then (s, .ok acc, acc)
    else
      let k := min n (128 - va % 128)
      let r := vPiece s ctx va k none
      match r.2 with
      | .ok bs => vReadPart ctx f (va + k) (n - k) (acc ++ bs) r.1
      | x => (r.1, x, acc)

/-- Such a read for one that keeps nothing of a part. -/
def vReadFrom (ctx f va n : Nat) (acc : List Byte) (s : State) : State × VRes :=
  let r := vReadPart ctx f va n acc s
  (r.1, r.2.1)

def vRead (s : State) (ctx va n : Nat) : State × VRes := vReadFrom ctx (n / 128 + 2) va n [] s

/-! ### Completion records (12 R338) -/

/-- Writes the queue's records in order, until one meets NOT_PRESENT. -/
def flushRecords (key : Nat) : Nat → State → State
  | 0, s => s
  | f + 1, s =>
    let q := s.queue key
    match q.records with
    | [] => s
    | (seq, status, runid) :: rest =>
      let r := vPiece s q.ctx (q.cbase + 16 * (seq % q.slots)) 16 (some (leBytes seq 4 ++ leBytes status 2 ++ leBytes 0 2 ++ leBytes runid 4 ++ leBytes 0 4))
      let q1 := { r.1.queue key with records := rest }
      match r.2 with
      | .ok _ =>
        let s1 := r.1.setQueue key q1
        flushRecords key f (if q.ien then { s1 with host := { s1.host with msix := (key / 64 + 1, q.vector) :: s1.host.msix } } else s1)
      | .page va h => (pageRequest r.1 q.ctx va 1 h 0xFFFF).setQueue key { r.1.queue key with recPage := some (va / 4096) }
      | .wait => r.1
      | .trap c => flushRecords key f (r.1.setQueue key { q1 with fault := c, kickFault := false })

/-- Complete (R336, R338). -/
def complete (s : State) (key seq status runid : Nat) : State :=
  let q := s.queue key
  let s1 := s.setQueue key (settleQueue { q with records := q.records ++ [(seq, status, runid)] })
  if q.recPage.isSome then s1 else flushRecords key (q.records.length + 1) s1

/-! ### The fetcher (12 R336, R337; 10 R269) -/

/-- The queue may fetch: EN (or a packet whose check failed is still being fetched, R333), no fault, HEAD behind TAIL, no page to wait for; not locked and not in error; the link up. -/
def mayFetch (s : State) (key : Nat) : Bool :=
  let q := s.queue key
  let t := (s.vd (key / 64)).tstate
  -- a packet read after its command processor's safe point is the new image's (13 R364)
  !(s.proc (procOfVd (key / 64))).safe && (q.en || q.tries != 0) && q.fault == 0 && q.head != q.tail && q.waitPage.isNone && q.records.isEmpty && t != .locked && t != .error && !s.host.linkDown

/-- Completes at once, with the context's code. -/
def stoppedCode (s : State) (key : Nat) : Option Nat := (s.ctx (s.queue key).ctx).stop

/-- A field of a packet or descriptor. -/
def fieldAt (p : List Byte) (lo n : Nat) : Nat := leNat ((p.drop lo).take n)

/-- R337: reserved type, nonzero zero bytes, misaligned addresses. -/
def packetBad (p : List Byte) : Bool :=
  let t := fieldAt p 8 1
  !(t == 1 || t == 2) || fieldAt p 9 7 != 0 || fieldAt p 108 20 != 0 || (t == 2 && fieldAt p 16 8 != 0)
    || fieldAt p 16 8 % 64 != 0 || fieldAt p 24 8 % 8 != 0 || (List.range 4).any fun i => fieldAt p (40 + 16 * i) 8 % 8 != 0

/-- PACKET_ADMIT (R337), after HEAD has moved: every packet of a stopped context completes with its code (10 R288). -/
def takePacket (s : State) (key seq : Nat) (p : List Byte) : State :=
  let rid := fieldAt p 104 4
  let part := (s.ctx (s.queue key).ctx).part
  match stoppedCode s key with
  | some code => complete s key seq code rid
  | none =>
    if packetBad p then complete s key seq 0xC02 rid
    else if fieldAt p 8 1 = 2 then complete s key seq 0 rid
    else
      let waits := ((List.range 4).map fun i => (fieldAt p (40 + 16 * i) 8, fieldAt p (48 + 16 * i) 8)).filter fun w => w.1 != 0
      let e : Pending := { seq, desc := fieldAt p 16 8, cevAddr := fieldAt p 24 8, cevVal := BitVec.ofNat 64 (fieldAt p 32 8), waits, runid := rid,
                           ready := waits.isEmpty, readyAt := s.key }
      let q := s.queue key
      (s.setQueue key { q with pend := q.pend ++ [e] }).bump.post (if waits.isEmpty then [.dispatch part] else [.eventWaitEval part])

/-- HEAD moves past the slot; the next slot may be fetched. -/
def nextSlot (s : State) (key : Nat) : State :=
  let q := s.queue key
  (s.setQueue key { q with head := q.head + 1, tries := 0 }).post [.fetchSlot (key / 64) (key % 64)]

/-- One read of the slot at HEAD; `rereads` counts reads of it that failed the check. -/
def slotRead (s : State) (key rereads : Nat) : State :=
  let q := s.queue key
  let head := q.head.toNat
  let r := vRead s q.ctx (q.base + 128 * (head % q.slots)) 128
  match r.2 with
  | .trap c => r.1.setQueue key { r.1.queue key with fault := c, kickFault := false, tries := 0 }
  | .page va h => (pageRequest r.1 q.ctx va 0 h 0xFFFF).setQueue key { r.1.queue key with waitPage := some (va / 4096) }
  | .wait => r.1
  | .ok p =>
    let mark := fieldAt p 0 4 == head
    if rereads = 0 ∧ mark = false then r.1
    else if rereads = 0 ∧ q.state ≠ .running then complete (nextSlot r.1 key) key head 0x0E0 0
    else if mark && crc32c (p.drop 8) == fieldAt p 4 4 then takePacket (nextSlot r.1 key) key head p
    else if rereads = 4 then
      let s1 := complete (nextSlot r.1 key) key head 0xC02 0
      s1.setQueue key { s1.queue key with fault := 0xC02, kickFault := false }
    else r.1.setQueue key { r.1.queue key with tries := rereads + 1 }

/-- FETCH_SLOT: the first read of the slot at HEAD. -/
def execFetchSlot (vd q : Nat) (s : State) : Result :=
  .next (let key := 64 * vd + q
    if mayFetch s key && (s.queue key).tries == 0 then slotRead s key 0 else s)

/-- Records are still to be written, and none of them waits for a page. -/
def mayFlush (s : State) (key : Nat) : Bool := let q := s.queue key; !q.records.isEmpty && q.recPage.isNone

/-- FETCH_RETRY: 1 µs later the slot is read again; records that a busy port kept back are written first. -/
def execFetchRetry (vd q : Nat) (s : State) : Result :=
  .next (let key := 64 * vd + q
    let s1 := if mayFlush s key then flushRecords key (s.queue key).records.length s else s
    if mayFetch s1 key then slotRead s1 key (s1.queue key).tries else s1)

/-! ### Event waits (10 R271) -/

/-- How the waits of a pending run stand. -/
inductive WaitRes where
  | met | unmet | page (va : Nat) (isHold : Bool) | refused (code : Nat)
deriving DecidableEq, Repr, Inhabited

/-- Evaluates the waits of a pending run. -/
def evalWaits (ctx : Nat) : List (Nat × Nat) → State → State × WaitRes
  | [], s => (s, .met)
  | (a, v) :: ws, s =>
    let r := vRead s ctx a 8
    match r.2 with
    | .ok bs => if v ≤ leNat bs then evalWaits ctx ws r.1 else (r.1, .unmet)
    | .page va h => (r.1, .page va h)
    | .wait => (r.1, .unmet)
    | .trap c => (r.1, .refused c)

/-- A pending run leaves its queue with a code, never dispatched: the runs behind it are held no longer. -/
def refusePending (s : State) (key : Nat) (e : Pending) (code : Nat) : State :=
  let q := s.queue key
  (complete (s.setQueue key { q with pend := q.pend.filter fun x => x.seq != e.seq }) key e.seq code e.runid).post [.dispatch (s.ctx q.ctx).part]

/-- A pending run's entry changes. -/
def setPending (s : State) (key seq : Nat) (f : Pending → Pending) : State :=
  let q := s.queue key
  s.setQueue key { q with pend := q.pend.map fun x => if x.seq = seq then f x else x }

/-- A read for a pending run met NOT_PRESENT: the page is asked for, and the run waits for its resume. -/
def pendingPage (s : State) (key : Nat) (e : Pending) (va : Nat) (isHold : Bool) : State :=
  setPending (pageRequest s (s.queue key).ctx va 0 isHold 0xFFFF) key e.seq fun x => { x with page := some (va / 4096) }

/-- The run still waits for a page's resume. -/
def pageWaits (s : State) (ctx : Nat) (e : Pending) : Bool :=
  match e.page with | some p => (s.ctx ctx).pages_.any fun q => q.1 == p | none => false

def evalPending (key : Nat) (s : State) (e : Pending) : State :=
  let ctx := (s.queue key).ctx
  match (s.ctx ctx).stop with
  | some code => refusePending s key e code
  | none =>
    if e.ready || pageWaits s ctx e then s
    else
      let r := evalWaits ctx e.waits s
      match r.2 with
      | .refused c => refusePending r.1 key e c
      | .met => ((setPending r.1 key e.seq fun x => { x with ready := true, readyAt := r.1.key, page := none }).bump).post [.dispatch (s.ctx ctx).part]
      | .page va h => pendingPage r.1 key e va h
      | .unmet => r.1

/-- Queues whose context belongs to a partition. -/
def queuesOfPart (s : State) (part : Nat) : List Nat :=
  (s.queues.filter fun p => (s.ctx p.2.ctx).used && (s.ctx p.2.ctx).part == part).map (·.1)

/-- EVENT_WAIT_EVAL: the waits of the partition's pending runs; the pending runs of a stopped context complete (R288). -/
def execEventWaitEval (part : Nat) (s : State) : Result :=
  .next ((queuesOfPart s part).foldl (fun x key => (x.queue key).pend.foldl (evalPending key) x) s)

/-! ### The descriptor (10 R274-R276) -/

/-- Regions of a descriptor (R275). -/
def descRegions (d : List Byte) : List Region :=
  (List.range 8).map fun i =>
    { base := fieldAt d (384 + 16 * i) 8, len := 128 * fieldAt d (392 + 16 * i) 2, soff := 128 * fieldAt d (394 + 16 * i) 2,
      dir := fieldAt d (396 + 16 * i) 1 }

/-- A region breaks R187, or names an unknown direction. -/
def regionBad (win : Nat) (r : Region) : Bool :=
  decide (3 < r.dir) || (r.dir != 0 && (r.base % 128 != 0 || r.len == 0 || decide (win < r.soff + r.len + 4096)))

/-- Two regions overlap in stage memory. -/
def regionsMeet (a b : Region) : Bool := decide (a.soff < b.soff + b.len) && decide (b.soff < a.soff + a.len)

def anyPair (f : Region → Region → Bool) : List Region → Bool
  | [] => false
  | x :: xs => xs.any (f x) || anyPair f xs

def footOf (n : Nat) : Footprint := if n = 0 then .half else if n = 1 then .full else .cluster

/-- R276, but for the partition's cores. -/
def descBad (d : List Byte) : Bool :=
  let f := fieldAt d
  let fl := f 1 1
  let counts := (List.range 4).map fun i => f (16 + 2 * i) 2
  let foot := footOf (fl / 2 % 4)
  let used := (descRegions d).filter fun r => r.dir != 0
  f 0 1 != 1 || decide (8 ≤ fl) || decide (fl / 2 % 4 = 3) || decide (4095 < f 2 2) || decide (1 < f 4 1) || f 5 1 != 0
    || (f 4 1 == 1) != (f 6 2 != 0) || f 10 6 != 0
    || (counts.any fun c => c % 32 != 0) || (counts.all fun c => c == 0) || decide (footLimit foot < counts.foldl (· + ·) 0)
    || ((List.range 4).any fun i => f (16 + 2 * i) 2 != 0 && (f (32 + 8 * i) 8 == 0 || f (32 + 8 * i) 8 % 4 != 0))
    || f 24 4 == 0 || decide (2^31 < f 24 4) || f 28 4 == 0 || decide (2^31 < f 28 4)
    || f 64 8 % 4 != 0 || ((List.range 16).any fun i => f (128 + 8 * i) 8 % 4 != 0)
    || ((List.range 8).any fun i => f (80 + 4 * i) 4 % 16 != 0 || !legalEntry (BitVec.ofNat 32 (f (80 + 4 * i) 4)))
    || decide (2^36 ≤ f 112 8) || (f 8 2 != 0 && f 120 8 % 16 != 0)
    || ((List.range 8).any fun i => f (397 + 16 * i) 3 != 0)
    || ((descRegions d).any (regionBad (footWindow foot))) || anyPair regionsMeet used

/-- A table of the nonzero values of a list. -/
def tabOf {α : Type} [DecidableEq α] (d : α) (l : List α) : Tab α := Tab.putRun d 0 l []

/-- The run and the crew that a descriptor gives (R274, 03 R101); `recs` are the record block's bytes. -/
def descRun (d recs : List Byte) : Run × Crew :=
  let f := fieldAt d
  let foot := footOf (f 1 1 / 2 % 4)
  let kmask := f 8 2
  let run : Run :=
    { det := f 1 1 % 2 == 1, foot, wait := f 2 2, serp := f 4 1 == 1, band := f 6 2, spx := f 24 4, spy := f 28 4,
      counts := (List.range 4).map (fun i => f (16 + 2 * i) 2), entries := (List.range 4).map (fun i => f (32 + 8 * i) 8),
      trap := f 64 8, seed := BitVec.ofNat 64 (f 72 8), spawn := tabOf 0 ((List.range 16).map fun i => f (128 + 8 * i) 8),
      regions := (descRegions d).filter fun r => r.dir != 0 }
  let crew : Crew :=
    { foot, seed := run.seed, rsm := BitVec.ofNat 64 (f 112 8),
      g := tabOf 0 ((List.range 16).map fun i => BitVec.ofNat 64 (f (256 + 8 * i) 8)),
      f := tabOf 0 ((List.range 8).map fun i => storedEntry (BitVec.ofNat 32 (f (80 + 4 * i) 4))),
      k := tabOf 0 ((List.range 16).map fun i => if kmask.testBit i then BitVec.ofNat 128 (fieldAt recs (16 * i) 16) else 0) }
  (run, crew)

/-- Goes on with the read of a descriptor or record block: `have_` bytes of the `n` at `va` have been read. -/
def readMore (s : State) (ctx va n have_ : Nat) (raw : List Byte) : State × VRes × List Byte :=
  if n ≤ have_ then (s, .ok raw, raw) else vReadPart ctx (n / 128 + 2) (va + have_) (n - have_) raw s

/-- DESCRIPTOR_CHECK: the descriptor and the record block of a pending run, each byte read once (R274): where a part cannot be read, how that went
and what has been read. -/
def readDesc (s : State) (ctx : Nat) (e : Pending) : State × Sum (VRes × List Byte) (Run × Crew) :=
  let r := readMore s ctx e.desc 512 e.raw.length e.raw
  match r.2.1 with
  | .ok _ =>
    let d := r.2.2.take 512
    if descBad d then (r.1, .inl (.trap 0xC02, r.2.2))
    else if fieldAt d 8 2 = 0 then (r.1, .inr (descRun d []))
    else
      let q := readMore r.1 ctx (fieldAt d 120 8) 256 (r.2.2.length - 512) r.2.2
      match q.2.1 with
      | .ok _ => (q.1, .inr (descRun d (q.2.2.drop 512)))
      | x => (q.1, .inl (x, q.2.2))
  | x => (r.1, .inl (x, r.2.2))

/-! ### Save area (10 R282, R283) -/

def pad4k (n : Nat) : Nat := (n + 4095) / 4096 * 4096
/-- Offset of the stage-memory section in a crew image, and the image's size. -/
def imageStage (f : Footprint) : Nat :=
  4096 + pad4k (footLimit f * 576) + 8192 + 16 * 8192 + pad4k (footLimit f * 448) + (match f with | .cluster => 8 | _ => 4) * 64 * 320
def imageSize (f : Footprint) : Nat :=
  imageStage f + footWindow f + (match f with | .cluster => 16 | _ => 8) * 65536
    + 4096 + 4096 * (match f with | .half => 32 | .full => 64 | .cluster => 128) + 32 * 12288 + 4096

/-- Ranges of the save area in use by a context's runs. -/
def usedRanges (s : State) (ctx : Nat) : List (Nat × Nat) :=
  (s.runsOf ctx).map fun k => let r := s.run k; (r.base, r.base + r.ncrew * imageSize r.foot)

/-- Lowest free range of a size after the header (R282). -/
def freeRange (s : State) (ctx size : Nat) : Option Nat :=
  let used := usedRanges s ctx
  let fits (b : Nat) : Bool := decide (b + size ≤ (s.ctx ctx).pages * 4096) && used.all fun u => decide (b + size ≤ u.1) || decide (u.2 ≤ b)
  ((0x9000 :: used.map (·.2)).filter fits).foldl (fun a b => match a with | none => some b | some x => some (min x b)) none

def freeIndex (s : State) (ctx : Nat) : Option Nat :=
  (List.range 16).find? fun i => !(s.runsOf ctx).any fun k => (s.run k).index == i

/-- Accesses to the save area by firmware or a context engine: charged to an account, line by line, on a core's lease or none. -/
def saveTraffic (s : State) (acct vd : Nat) (core : Option Nat) (pa n : Nat) (write : Bool) : State :=
  if n = 0 then s
  else (List.range ((pa + n - 1) / 128 - pa / 128 + 1)).foldl (fun x i =>
    (sliceAccess x { pa := 128 * (pa / 128 + i), kind := if write then 1 else 0, cls := 3, vd, acct, core, ctx := [] }).1) s

/-- Bytes written to the save area by firmware. -/
def saveBytes (s : State) (vd pa : Nat) (bs : List Byte) : State := (saveTraffic s firmwareAccount vd none pa bs.length true).writeBytes pa bs

def footCode : Footprint → Nat | .half => 0 | .full => 1 | .cluster => 2
/-- Address of a run's entry in the run table. -/
def runEntry (s : State) (r : Run) : Nat := (s.ctx r.ctx).save + 4096 + 2048 * r.index

/-- SAVE_AREA_ALLOC: the directory and the run's entry in the run table, charged to the firmware account. -/
def writeRunEntry (s : State) (k : Nat) : State :=
  let r := s.run k
  let entry := sized 1024 (leBytes r.id 4 ++ leBytes ((if r.live then 1 else 0) + 2 * footCode r.foot) 1 ++ leBytes r.queue 1 ++ leBytes r.vd 2
      ++ leBytes r.ncrew 4 ++ leBytes 0 4 ++ leBytes r.base 8 ++ leBytes r.next 8)
    ++ (List.range 128).flatMap fun m => leBytes (Tab.get 0 r.miles m).toNat 8
  saveBytes (saveBytes s r.vd (s.ctx r.ctx).save (sized 4096 (leBytes (s.runsOf r.ctx).length 8))) r.vd (runEntry s r) entry

/-- The signpost unit writes NEXT and the milestones of a run into its entry (R282). -/
def keepRun (s : State) (k : Nat) : State :=
  let s1 := writeRunEntry s k
  s1.setRun k { s1.run k with kept := true }

/-- It reads them back before the first crew of the run resumes; what it has kept itself since is not older. -/
def restoreRun (s : State) (k : Nat) : State :=
  let r := s.run k
  if !r.kept then s
  else
    let pa := runEntry s r
    let s1 := saveTraffic s firmwareAccount r.vd none pa 2048 false
    let mile (t : Tab DWord) (m : Nat) : Tab DWord := Tab.set 0 m (BitVec.ofNat 64 (max (Tab.get 0 r.miles m).toNat (s1.readNat (pa + 1024 + 8 * m) 8))) t
    s1.setRun k { r with kept := false, next := max r.next (s1.readNat (pa + 24) 8), miles := (List.range 128).foldl mile r.miles }

/-! ### Slots -/

/-- Enabled clusters of a partition, ascending. -/
def enabledClusters (s : State) (part : Nat) : List Nat := (s.part part).clusters.filter fun c => (s.island c).state == .enabled

/-- First cores of the places of a footprint. -/
def placesOf (s : State) (part : Nat) (f : Footprint) : List Nat :=
  match f with
  | .cluster => (enabledClusters s part).map (2 * ·)
  | _ => (enabledClusters s part).flatMap fun c => [2 * c, 2 * c + 1]

def bothFree (c : Core) : Bool := c.slot0 == 0 && c.slot1 == 0
/-- A free slot for a footprint at a core; a saved half-core crew wants its own (R280). -/
def freeSlot (s : State) (core : Nat) (f : Footprint) (want : Option Nat) : Option Nat :=
  let c := s.core core
  match f with
  | .half =>
    (match want with
    | some n => if c.crewAt n = 0 then some n else none
    | none => if c.slot0 = 0 then some 0 else if c.slot1 = 0 then some 1 else none)
  | .full => if bothFree c then some 0 else none
  | .cluster => if bothFree c && bothFree (s.core (core + 1)) then some 0 else none

/-- The crew takes its slots; a context that becomes resident starts with the other slot's fair count and asks for a grant (09 R250, R254). -/
def occupy (s : State) (crew core slot : Nat) (rem : Int) : State :=
  let cr := s.crew crew
  let cores := match cr.foot with | .cluster => [core, core + 1] | _ => [core]
  cores.foldl (fun x c =>
    let co := x.core c
    let was := x.resident c cr.ctx
    let half := cr.foot == .half
    let other := co.crewAt (1 - slot)
    let fc := if other = 0 ∨ x.dry c (x.crew other).ctx then 0 else if slot = 0 then co.fc1 else co.fc0
    let co1 := { co with
      slot0 := if !half || slot == 0 then crew else co.slot0,
      slot1 := if !half || slot == 1 then crew else co.slot1,
      fc0 := if was then co.fc0 else if slot = 0 then fc else co.fc0,
      fc1 := if was then co.fc1 else if slot = 1 then fc else co.fc1 }
    let co2 := { co1 with running := if co.crewAt co.running = 0 then slot else co.running }
    let x1 := x.setCore c co2
    -- what a request that was still outstanding when the context left the core brings joins its remainder (R250)
    let l := x1.lease c cr.ctx
    askLease (x1.setLease c cr.ctx { l with rem := l.rem + (if c = core then rem else 0) }) c cr.ctx) s

/-- A context with no crew left on a core: its remainder returns to LEVEL once no request is outstanding (09 R250). -/
def returnLease (s : State) (core ctx : Nat) : State :=
  let l := s.lease core ctx
  if s.resident core ctx || l.asked then s
  else
    let x := s.ctx ctx
    (s.setLease core ctx {}).setCtx ctx { x with level := min (x.level + l.rem) x.cap }

/-- The crew gives up its slots; the other slot runs on where the running one is empty. -/
def vacate (s : State) (crew : Nat) : State :=
  (s.crew crew).cores.foldl (fun x c =>
    let co := x.core c
    let s0 := if co.slot0 = crew then 0 else co.slot0
    let s1 := if co.slot1 = crew then 0 else co.slot1
    let now := if co.running = 0 then s0 else s1
    let x1 := x.setCore c { co with slot0 := s0, slot1 := s1, fc0 := if s0 = 0 then 0 else co.fc0, fc1 := if s1 = 0 then 0 else co.fc1,
                                    running := if now = 0 ∧ (s0 ≠ 0 ∨ s1 ≠ 0) then 1 - co.running else co.running }
    if (x1.island (c / 2)).state == .marked then x1.post [.clusterRetire (c / 2)] else x1) s

/-- The crew's parts of stage memory, tile store and operand buffer read as zero (03 R101). -/
def clearUnits (s : State) (cr : Crew) : State :=
  { s with
    stage := Tab.clearRun cr.stage0 (footWindow cr.foot) s.stage,
    acc := cr.cores.foldl (fun t c => Tab.clearRun ((c * 8 + cr.acc0) * 16384) (cr.accs * 16384) t) s.acc,
    ob := cr.cores.foldl (fun t c => Tab.clearRun (c * 0x40000 + cr.unit0 * 4096) (cr.units * 4096) t) s.ob }

/-! ### Launch (10 R277, 02 R39, R40) -/

/-- One launch cohort: its threads and its convoy. -/
def startCohort (crew stage entry : Nat) (a : State × Nat) : State × Nat :=
  let s := a.1
  let c := a.2
  let cr := s.crew crew
  let core := if cr.cluster then cr.core + c / 4 % 2 else cr.core
  let quad := c % 4
  let ks := (List.range 32).filterMap fun lane => (freeRow s cr core quad lane).map fun r => tkey core quad lane r
  let s1 := s.setThreads ks fun t => { newThread s t crew c stage 0 .inConvoy with pc := BitVec.ofNat 64 entry }
  (newConvoy s1 crew core quad entry ks true [], c + 1)

def startStage (crew : Nat) (run : Run) (a : State × Nat) (stage : Nat) : State × Nat :=
  (List.range ((run.counts[stage]?).getD 0 / 32)).foldl (fun x _ => startCohort crew stage ((run.entries[stage]?).getD 0) x) a

def startCohorts (s : State) (crew : Nat) : State :=
  let cr := s.crew crew
  let s1 := s.setCrew crew { cr with phase := .running, started := true, region := 0, offset := 0 }
  ((List.range 4).foldl (startStage crew (s.run cr.run)) (s1, 0)).1

/-- A region transfer that met a cause stops the context (R188, R287). -/
def regionFault (s : State) (crew code addr : Nat) : State :=
  let cr := s.crew crew
  contextFault s cr.ctx { engineRec s cr.core crew addr with code }

/-- CREW_START: the in-regions are staged, then the cohorts start. -/
def execCrewStart (crew : Nat) (s : State) : Result :=
  .next (let cr := s.crew crew
    if cr.phase ≠ .staging ∨ (s.ctx cr.ctx).stop ≠ none then s
    else
      let ins := (s.run cr.run).regions.filter fun r => r.dir != 2
      let r := moveRegions crew true (ins.drop cr.region) s
      match r.2 with
      | .done => startCohorts r.1 crew
      | .stop va h => (pageRequest r.1 cr.ctx va 0 h cr.core).setCrew crew { r.1.crew crew with waitPage := some (va / 4096) }
      | .fault code addr => regionFault r.1 crew code addr
      | _ => r.1)

/-! ### Dispatch (10 R273, R278) -/

/-- Priority of a context that is resident on a core. -/
def residentPrio (s : State) (core ctx : Nat) : Nat :=
  (s.crews.filter fun p => p.2.ctx == ctx && p.2.cores.contains core && p.2.phase != .saved && p.2.phase != .ended && p.2.phase != .none).foldl
    (fun a p => let r := s.run p.2.run; max a (s.queue (64 * r.vd + r.queue)).prio) 0

def savedCrews (s : State) (ctx : Nat) : List Nat := (s.crews.filter fun p => p.2.ctx == ctx && p.2.phase == .saved).map (·.1)

/-- Priority of a waiting context. -/
def waitingPrio (s : State) (ctx : Nat) : Nat :=
  let q1 := (s.queues.filter fun p => p.2.ctx == ctx && p.2.pend.any (·.ready)).foldl (fun a p => max a p.2.prio) 0
  (savedCrews s ctx).foldl (fun a k => let r := s.crewRun k; max a (s.queue (64 * r.vd + r.queue)).prio) q1

/-- Remainder that a context's saved crews carry. -/
def savedRem (s : State) (ctx : Nat) : Int := (savedCrews s ctx).foldl (fun a k => a + (s.lease (s.crew k).core ctx).rem) 0

/-- A saved context waits to be streamed in (R278). -/
def savedWaits (s : State) (ctx : Nat) : Bool :=
  let x := s.ctx ctx
  !(savedCrews s ctx).isEmpty && x.stop == none && !(decide (x.level ≤ 0) && decide (savedRem s ctx ≤ 0))

/-- A candidate of the dispatcher. -/
structure DCand where
  prio : Nat
  isNew : Bool
  order : Nat
  tie : Nat
  /-- Context, or queue key. -/
  what : Nat
deriving DecidableEq, Repr, Inhabited

def DCand.before (a b : DCand) : Bool :=
  if a.prio ≠ b.prio then decide (b.prio < a.prio)
  else if a.isNew != b.isNew then b.isNew
  else if a.order ≠ b.order then decide (a.order < b.order)
  else decide (a.tie < b.tie)

/-- A run whose descriptor is read and for which the save area has no room is passed over (R282). -/
def noRoom (s : State) (part ctx : Nat) (e : Pending) : Bool :=
  match e.got with
  | none => false
  | some (r, _) =>
    let n := (placesOf s part r.foot).length
    (freeIndex s ctx).isNone || (freeRange s ctx (n * imageSize r.foot)).isNone

def dispatchCands (s : State) (part : Nat) : List DCand :=
  let saved := (s.contextsWith fun n c => c.part == part && savedWaits s n).map fun n =>
    { prio := waitingPrio s n, isNew := false, order := (savedCrews s n).foldl (fun a k => if a = 0 then (s.crew k).order else min a (s.crew k).order) 0,
      tie := n, what := n : DCand }
  let new := (queuesOfPart s part).filterMap fun key =>
    let q := s.queue key
    match q.pend with
    | e :: _ =>
      if e.ready && !q.paused && (s.ctx q.ctx).stop == none && !noRoom s part q.ctx e then
        some { prio := q.prio, isNew := true, order := e.readyAt, tie := key, what := key : DCand } else none
    | [] => none
  saved ++ new

def bestCand (l : List DCand) : Option DCand :=
  l.foldl (fun a x => match a with | none => some x | some y => if x.before y then some x else some y) none

/-- Contexts in the slots of a core that a footprint needs. -/
def slotContexts (s : State) (core : Nat) (f : Footprint) (want : Option Nat) : List Nat :=
  let at1 (c : Nat) : List Nat := [(s.core c).slot0, (s.core c).slot1]
  let crews := match f, want with
    | .half, some n => [(s.core core).crewAt n]
    | .half, none => at1 core
    | .full, _ => at1 core
    | .cluster, _ => at1 core ++ at1 (core + 1)
  dedup ((crews.filter (· != 0)).map fun k => (s.crew k).ctx)

/-- Crews of a context that stand on a core. -/
def crewsOn (s : State) (ctx core : Nat) : List Nat :=
  (s.crewsOf ctx).filter fun k => (s.crew k).cores.contains core && (s.crew k).phase != .saved && (s.crew k).phase != .ended

/-- The context that goes out of a core's slots for a candidate: that of lowest priority, and among equals the one longest resident, that the
priority of the candidate's context exceeds; or one that is dry on the core, for a context that is not resident there (R251, R278). -/
def victim (s : State) (ctx prio core : Nat) (f : Footprint) (want : Option Nat) : Option Nat :=
  let key (ctx : Nat) : Nat × Nat :=
    (residentPrio s core ctx, (crewsOn s ctx core).foldl (fun a k => if a = 0 then (s.crew k).order else min a (s.crew k).order) 0)
  let vs := (slotContexts s core f want).filter fun c => decide (residentPrio s core c < prio) || (s.dry core c && !s.resident core ctx)
  vs.foldl (fun (a : Option Nat) c => match a with
    | none => some c
    | some b => if (key c).1 < (key b).1 ∨ ((key c).1 = (key b).1 ∧ (key c).2 < (key b).2) then some c else some b) none

/-- Crews that are ordered out for a candidate. -/
def ordersOut (s : State) (ctx prio core : Nat) (f : Footprint) (want : Option Nat) : List Nat :=
  match victim s ctx prio core f want with
  | some c => (crewsOn s c core).filter fun k => (s.crew k).phase == .running || (s.crew k).phase == .staging
  | none => []

def makeRoom (s : State) (ctx prio core : Nat) (f : Footprint) (want : Option Nat) : State :=
  s.post ((ordersOut s ctx prio core f want).map Instr.streamOut)

/-- The run takes its places, its entry and its range: LAUNCH (R277, R282). -/
def launch (s : State) (part key : Nat) (e : Pending) (run : Run) (proto : Crew) (places : List Nat) (base index : Nat) : State :=
  let q := s.queue key
  let rk := s.key
  let run' : Run := { run with live := true, id := e.runid, ctx := q.ctx, part, vd := key / 64, queue := key % 64, seq := e.seq, cevAddr := e.cevAddr,
                               cevVal := e.cevVal, ncrew := places.length, base, index }
  let s1 := (s.setRun rk run').bump
  let s2 := s1.setQueue key { q with pend := q.pend.tail, active := q.active + 1 }
  let s3 := writeRunEntry s2 rk
  ((places.zip (List.range places.length)).foldl (fun x p =>
    let ck := x.key
    let slot := (freeSlot x p.1 run.foot none).getD 0
    let cr : Crew := { proto with phase := .staging, ctx := q.ctx, run := rk, num := p.2, core := p.1, slot, order := ck }
    ((occupy (clearUnits (x.bump.setCrew ck cr) cr) ck p.1 slot 0).post [.crewStart ck])) s3).post [.dispatch part]

/-- Places a pending run, or makes room for it. -/
def dispatchRun (s : State) (part key prio : Nat) : State :=
  let q := s.queue key
  match q.pend with
  | [] => s
  | e :: _ =>
    match e.got with
    | none =>
      if pageWaits s q.ctx e then s
      else
        let r := readDesc s q.ctx e
        (match r.2 with
        | .inr g => (setPending r.1 key e.seq fun x => { x with got := some g, page := none }).post [.dispatch part]
        | .inl (.trap c, _) => refusePending r.1 key e c
        | .inl (x, raw) =>
          let s1 := setPending r.1 key e.seq fun y => { y with raw }
          (match x with
          | .page va h => pendingPage s1 key e va h
          | _ => s1))
    | some (run, proto) =>
      let places := placesOf s part run.foot
      if places.isEmpty then refusePending s key e 0xC02
      else if places.all fun c => (freeSlot s c run.foot none).isSome then
        (match freeRange s q.ctx (places.length * imageSize run.foot), freeIndex s q.ctx with
        | some b, some i => launch s part key e run proto places b i
        | _, _ => s)
      else (places.filter fun c => (freeSlot s c run.foot none).isNone).foldl (fun x c => makeRoom x q.ctx prio c run.foot none) s

/-! ### Completion of a run (10 R272, R288) -/

/-- The completion event word: a 64-bit store, a release at system scope. -/
def writeEventWord (s : State) (ctx addr : Nat) (val : DWord) : State × VRes := vPiece s ctx addr 8 (some (leBytes val.toNat 8))

/-- Every crew of the run has ended, or a fault has ended it. -/
def runOver (s : State) (rk : Nat) : Bool :=
  (s.run rk).code.isSome || s.crews.all fun p => p.2.run != rk || p.2.phase == .none || p.2.phase == .ended

/-- The run's completion event word waits for a page's resume. -/
def eventPageWaits (s : State) (r : Run) : Bool :=
  r.code.isNone && r.cevAddr != 0 && !r.ordered && (s.ctx r.ctx).pages_.any fun p => p.1 == r.cevAddr / 4096

/-- RUN_COMPLETE. -/
def execRunComplete (rk : Nat) (s : State) : Result :=
  .next (let r := s.run rk
    if !r.live || !runOver s rk || eventPageWaits s r then s
    else
      let key := 64 * r.vd + r.queue
      let w : State × VRes := if r.code = none ∧ r.cevAddr ≠ 0 ∧ r.ordered = false then writeEventWord s r.ctx r.cevAddr r.cevVal else (s, .ok [])
      match w.2 with
      | .page va h => pageRequest w.1 r.ctx va 1 h 0xFFFF
      | .wait => w.1
      | x =>
        let code := match x with | .trap c => c | _ => r.code.getD 0
        let s1 := w.1.setRun rk { w.1.run rk with live := false, code := some code }
        let s2 := { s1 with crews := s1.crews.filter fun p => !(p.2.run == rk && p.2.phase == CrewPhase.ended) }
        let q := s2.queue key
        if r.ordered then raiseSignal (writeRunEntry s2 rk) (procOfVd r.vd) 12 else
        let s3 := writeRunEntry (s2.setQueue key (settleQueue { q with active := q.active - 1 })) rk
        (raiseSignal (complete s3 key r.seq code r.id) (procOfVd r.vd) 12).post [.eventWaitEval r.part, .dispatch r.part])

end Sys2Proof.Machine
end

