-- ==== Sys2Proof/Machine/Image.lean ====
section
/-! DEFINITION. The save image of a crew in its context's save area (10 R282, R283; 06 R181). -/

namespace Sys2Proof.Machine

/-- What a record of a crew image holds (10 R282), section by section: the header's numbers, crew state, a waypoint latch, a convoy, a
layby, reservations, a matrix or copy queue entry, the address and byte mask of a side-log entry. -/
inductive ImageRec where
  | header (l : List Nat) | crew (c : Crew) | latch (n : Nat) (l : ALatch) | convoy (c : Convoy) | layby (l : Layby)
  | resvs (l : List Resv) | matrix (e : MEntry) | copy (e : CEntry) | side (va : Nat) (bytes : List Nat)

/-- Bytes of such a record, whose layout is not stated: a free function of the implementation. -/
opaque imageBytes : ImageRec → List Byte

/-! ### The save image in memory (R282, R283) -/

def stateCode (t : ThreadState) : Nat := match t with | .free => 0 | .inConvoy => 1 | .spilled => 2 | .parked => 3 | .exiting => 4

/-- PC that a thread's record holds: its convoy's, or its own. -/
def recordPc (s : State) (k : Nat) : Nat :=
  match s.convoys.find? fun p => p.2.keys.contains k with
  | some p => p.2.pc
  | none => (s.thread k).pc.toNat

/-- A thread record (R283). -/
def threadRecord (s : State) (k : Nat) : List Byte :=
  let t := s.thread k
  ((List.range 64).flatMap fun n => leBytes (t.reg n).toNat 8) ++ leBytes (recordPc s k) 8
    ++ leBytes (stateCode t.state + (if t.inTrap then 8 else 0) + (if t.len8 then 16 else 0)) 1 ++ leBytes (t.q.toNat / 2 * 2) 1
    ++ leBytes t.cohort 1 ++ leBytes t.stage 1 ++ leBytes t.srseed.toNat 4 ++ leBytes t.trpc.toNat 8 ++ leBytes t.trcause.toNat 4
    ++ leBytes t.trlane.toNat 4 ++ leBytes t.traddr.toNat 8 ++ leBytes t.trval.toNat 8 ++ leBytes t.llat 4
    ++ leBytes t.ocl 1 ++ leBytes t.ocs 1 ++ leBytes t.occ 1 ++ leBytes t.oct 1 ++ leBytes 0 8

/-- Address of a crew's image. -/
def imageBase (s : State) (crew : Nat) : Nat :=
  let cr := s.crew crew
  (s.ctx cr.ctx).save + (s.run cr.run).base + cr.num * imageSize cr.foot

/-- Engine entries of a crew that have not started, in order of issue on each core. -/
def unstarted (s : State) (crew : Nat) : List ImageRec :=
  (s.crew crew).cores.flatMap fun c =>
    ((s.core c).mq.filter fun e => e.crew == crew && e.started.isNone).map ImageRec.matrix
      ++ ((s.core c).cq.filter fun e => e.crew == crew && e.started.isNone).map ImageRec.copy

/-- Pending side-log entries of a crew's context, in whatever core's log they stand: address and the bytes of the line that they touch (06 R181). -/
def pendingList (s : State) (crew : Nat) : List ImageRec :=
  let cr := s.crew crew
  s.cores.flatMap fun c => (c.2.sideLog.filter fun e => e.ctx == cr.ctx).map fun e =>
    .side e.va (e.bytes.map (·.1) ++ e.parts.flatMap fun p => (List.range e.width).map fun i => p.va % 128 + i)

/-- Index of a row's thread record (R283). -/
def recordIndex (cr : Crew) (k : Nat) : Nat :=
  (((tkeyCore k - cr.core) * 4 + tkeyQuad k) * 32 + tkeyLane k) * cr.rows + (tkeyRow k - cr.row0)

/-- Records of one size, one after the other from `off` on. -/
def inRow (off size : Nat) (l : List (List Byte)) : List (Nat × List Byte) :=
  (l.zip (List.range l.length)).map fun p => (off + size * p.2, sized size p.1)

/-- Offset of the accumulators of an image, and those of its operand buffer and engine entries (R282). -/
def imageAccs (f : Footprint) : Nat := imageStage f + footWindow f
def imageOb (f : Footprint) : Nat := imageAccs f + (match f with | .cluster => 16 | _ => 8) * 65536
def imageEntries (f : Footprint) : Nat := imageOb f + 4096 + 4096 * (match f with | .half => 32 | .full => 64 | .cluster => 128)

/-- What of a crew's image is moved: every section at its full size, but the accumulators in use and the units reserved only (R513). -/
def imageExtents (cr : Crew) : List (Nat × Nat) :=
  [(0, imageAccs cr.foot + 65536 * cr.accUsed.length),
   (imageOb cr.foot, 4096 + 4096 * (cr.resvs.foldl (fun a r => a + r.count) 0)),
   (imageEntries cr.foot, 32 * 12288 + 4096)]

/-- The traffic of a crew's image, charged to its context where the crew is (R243, R279). -/
def imageTraffic (s : State) (crew : Nat) (write : Bool) : State :=
  let cr := s.crew crew
  (imageExtents cr).foldl (fun x p => saveTraffic x cr.ctx (s.ctx cr.ctx).vd (some cr.core) (imageBase s crew + p.1) p.2 write) s

/-- The records of a crew's image that are in use, section by section: offset and bytes (R282, R283). The bytes of a record other than a
thread's are the implementation's (log 74). -/
def imageParts (s : State) (crew : Nat) : List (Nat × List Byte) :=
  let cr := s.crew crew
  let n := footLimit cr.foot
  let bytes := imageBytes
  let state := 4096 + pad4k (n * 576)
  let latches := state + 8192
  let convoys := latches + 16 * 8192
  let laybys := convoys + pad4k (n * 448)
  let stage := imageStage cr.foot
  let accs := imageAccs cr.foot
  let ob := imageOb cr.foot
  let entries := imageEntries cr.foot
  let ks := crewThreads s crew
  let cvs := (s.convoys.filter fun p => p.2.crew == crew && !p.2.members.isEmpty).map (·.2)
  let lbs := s.laybys.filter fun l => l.crew == crew
  let lat := cr.latches.filter fun p => p.2.state != .empty
  let units := cr.resvs.flatMap fun r => (List.range r.count).map fun u => r.core * 64 + cr.unit0 + r.first + u
  let ents := unstarted s crew
  let side := pendingList s crew
  let counts := [ks.length, lat.length, cvs.length, lbs.length, cr.accUsed.length, cr.resvs.length, ents.length, side.length]
  inRow 0 4096 [bytes (.header ([(s.run cr.run).index, cr.num, cr.core, cr.slot, cr.mmajs] ++ counts))]
    ++ ks.map (fun k => (4096 + 576 * recordIndex cr k, threadRecord s k))
    ++ inRow state 8192 [bytes (.crew cr)]
    ++ lat.flatMap (fun p => inRow (latches + 8192 * p.1) 8192 [bytes (.latch p.1 p.2)])
    ++ inRow convoys 448 (cvs.map fun c => bytes (.convoy c))
    ++ inRow laybys 320 (lbs.map fun l => bytes (.layby l))
    ++ [(stage, Tab.getRun 0 s.stage cr.stage0 (footWindow cr.foot))]
    ++ inRow accs 65536 (cr.accUsed.map fun a => (Tab.getRun 0 s.acc (a * 16384) 16384).flatMap fun w => leBytes w.toNat 4)
    ++ inRow ob 4096 (bytes (.resvs cr.resvs) :: units.map fun u => Tab.getRun 0 s.ob (u * 4096) 4096)
    ++ inRow entries 12288 (ents.map bytes)
    ++ (entries + 32 * 12288, sized (min 4096 (24 * side.length)) (side.flatMap fun x => sized 24 (bytes x))) :: []

/-- The image is written in section order (R279). A record that is not in use is zero. -/
def writeImage (s : State) (crew : Nat) : State :=
  let base := imageBase s crew
  let s1 := imageTraffic s crew true
  let s2 := { s1 with mem := (imageExtents (s.crew crew)).foldl (fun m p => Tab.clearRun (base + p.1) p.2 m) s1.mem }
  (imageParts s crew).foldl (fun x p => x.writeBytes (base + p.1) p.2) s2

end Sys2Proof.Machine
end

