-- ==== Sys2Proof/Machine/Stream.lean ====
section
/-! DEFINITION. Crews that leave cores and come back: the context engine, the save image, slot switches, write-back at a crew's end,
lease answers (09 R249-R254, 10 R278-R283). A saved crew's image is kept under a core number of its own (`imageCore`), so that a save
and a restore are one relocation. -/

namespace Sys2Proof.Machine

/-- Core number under which a saved crew's image is kept; no core of the device has it. -/
def imageCore (crew : Nat) : Nat := 0x100000 + 2 * crew

/-! ### Relocation -/

/-- Moves the entries of keys a … a + n − 1 of a table to b …; the old place reads as the default. -/
def moveTab {α : Type} (t : Tab α) (a n b : Nat) : Tab α := Tab.copyRun t a n b (Tab.clearRun a n t)

/-- Moves a crew from the cores from its present one on to those from `d` on (R280, R31): threads with their rows, convoys, laybys,
window, accumulators, operand buffer, unstarted queue entries, and every reference to them. Entries join the new core's queues whether or
not the other slot's entries leave room for them (log 65: R145 has them re-enter before any issue and names no limit). -/
def relocate (s : State) (crew d : Nat) : State :=
  let cr := s.crew crew
  let a := cr.core
  let mc (c : Nat) : Nat := if cr.cores.contains c then c - a + d else c
  let mk (k : Nat) : Nat := if cr.cores.contains (tkeyCore k) then k - a * 2048 + d * 2048 else k
  let ks := crewThreads s crew
  let gen (k : Nat) : Nat := max (s.thread k).gen (s.thread (mk k)).gen + 1
  let mw (w : Who) : Who := if ks.contains w.key && (s.thread w.key).gen == w.gen then { key := mk w.key, gen := gen w.key } else w
  let newT := ks.map fun k => (mk k, { s.thread k with gen := gen k })
  let t1 := Tab.setMany {} ks (fun k => { gen := (s.thread k).gen }) s.threads
  let threads := newT.foldl (fun t p => Tab.set {} p.1 p.2 t) t1
  let part (e : SideEntry) : SideEntry :=
    { e with lanes := e.lanes.map mw, parts := e.parts.map fun p => { p with who := mw p.who } }
  let cores := s.cores.map fun p => (p.1, { p.2 with sideLog := p.2.sideLog.map part })
  let queued (t : Tab Core) (c : Nat) : List MEntry × List CEntry :=
    let co := Tab.get {} t c
    ((co.mq.filter fun e => e.crew == crew && e.started.isNone).map fun e =>
        { e with members := e.members.map mw, resv := { e.resv with core := mc e.resv.core }, restored := true, paid := false },
      (co.cq.filter fun e => e.crew == crew && e.started.isNone).map fun e => { e with members := e.members.map mw, restored := true, paid := false })
  let cores1 := cr.cores.foldl (fun t c =>
    let q := queued cores c
    let co := Tab.get {} t c
    let t1 := Tab.set {} c { co with mq := co.mq.filter (fun e => !(e.crew == crew && e.started.isNone)),
                                     cq := co.cq.filter fun e => !(e.crew == crew && e.started.isNone) } t
    let no := Tab.get {} t1 (mc c)
    Tab.set {} (mc c) { no with mq := no.mq ++ q.1, cq := no.cq ++ q.2 } t1) cores
  let mh (h : Hold) : Hold := match h with
    | .trapSpill ts x => .trapSpill (ts.map mk) x
    | .jumpSpill ts x others m => .jumpSpill (ts.map mk) x (others.map fun p => (mk p.1, p.2)) m
    | h => h
  let win := footWindow cr.foot
  let st1 := match cr.foot with | .half => d * 0x80000 + 0x40000 * cr.slot | _ => d * 0x80000
  { s with
    threads,
    cores := cores1,
    convoys := s.convoys.map fun p => if p.2.crew == crew then (p.1, { p.2 with core := mc p.2.core, hold := mh p.2.hold }) else p,
    laybys := s.laybys.map fun l => if l.crew == crew then { l with core := mc l.core, queue := l.queue.map mk } else l,
    crews := Tab.set {} crew { cr with
      core := d,
      syncs := cr.syncs.map fun p => (p.1, { p.2 with parked := p.2.parked.map mk }),
      resvs := cr.resvs.map fun r => { r with core := mc r.core },
      accUsed := cr.accUsed.map fun x => 8 * mc (x / 8) + x % 8 } s.crews,
    flight := { s.flight with acks := s.flight.acks.map fun p => (mw p.1, p.2) },
    stage := moveTab s.stage cr.stage0 win st1,
    acc := cr.cores.foldl (fun t c => moveTab t ((c * 8 + cr.acc0) * 16384) (cr.accs * 16384) ((mc c * 8 + cr.acc0) * 16384)) s.acc,
    ob := cr.cores.foldl (fun t c => moveTab t (c * 0x40000 + cr.unit0 * 4096) (cr.units * 4096) (mc c * 0x40000 + cr.unit0 * 4096)) s.ob }

/-- Ages of a crew's convoys and creations of its laybys, moved by `d` cycles: an image counts them from its save (02 R80, R84). -/
def shiftTimes (s : State) (crew : Nat) (d : Int) : State :=
  { s with
    convoys := s.convoys.map fun p => if p.2.crew == crew then (p.1, { p.2 with age := p.2.age + d, notBefore := 0 }) else p,
    laybys := s.laybys.map fun l => if l.crew == crew then { l with created := l.created + d } else l }

/-! ### Stream-out (R212, R279, R288) -/

/-- Lines of a thread that stand in side logs. -/
def sideLogged (s : State) (t : Nat) : Nat :=
  s.cores.foldl (fun a p => p.2.sideLog.foldl (fun b e => if e.lanes.any (fun w => w.key == t && w.gen == (s.thread t).gen) then b + 1 else b) a) 0

/-- The store drain of R212, no started queue entry of the crew (R145), and every pass that was sent is recorded (16 R455). -/
def drained (s : State) (crew : Nat) : Bool :=
  (s.crewRun crew).passes.isEmpty && (crewThreads s crew).all (fun t => (s.thread t).ocl == 0 && (s.thread t).ocs == sideLogged s t)
    && (s.flight.loads.all fun l => l.crew != crew) && (s.flight.stores.all fun x => x.crew != crew) && (s.flight.atoms.all fun a => a.crew != crew)
    && (s.crew crew).cores.all fun c =>
      ((s.core c).mq.all fun e => e.crew != crew || e.started.isNone) && (s.core c).cq.all fun e => e.crew != crew || e.started.isNone

/-- Other crews of the context stand on the core. -/
def othersOn (s : State) (core ctx crew : Nat) : Bool :=
  [(s.core core).slot0, (s.core core).slot1].any fun k => k != 0 && k != crew && (s.crew k).ctx == ctx

/-- Holdings are given up and their sizes recorded for the implicit TCLAIM (08 R234). DESIGN CHOICE (log 84): a convoy that is switched out again
before its implicit TCLAIM is complete holds 0 tokens and keeps the count recorded before. -/
def shelveHolding (s : State) (k : Nat) : State :=
  let n := heldBy s k
  let s1 := giveUpHolding s k
  if n = 0 then s1 else s1.setConvoy k { s1.convoy k with reclaim := n }
def shelveHoldings (s : State) (p : Convoy → Bool) : State :=
  ((s.convoys.filter fun x => p x.2 && !x.2.members.isEmpty).map (·.1)).foldl shelveHolding s

/-- In a stopped context held loads and atomics that wait for a page which may never come are given up (log 31). Started entries of the engines
complete (R288): a transfer that waits for a page goes on with its resume, or ends with the answer that there is none. -/
def dropWaiting (s : State) (crew : Nat) : State :=
  let s1 := dropLoads s fun l => l.crew == crew && l.unresolved
  let cut (a : Atom) : Atom := if a.crew == crew then { a with deferred := [] } else a
  let atoms := (s1.flight.atoms.map cut).filter fun a => !(a.crew == crew && a.parts.isEmpty)
  let served (l : Load) : Bool := atoms.any fun a => a.crew == crew && a.parts.any fun p => p.who == l.who
  let loads := s1.flight.loads.filter fun l => !(l.crew == crew && l.atom && l.value.isNone && !served l)
  { s1 with flight := { s1.flight with atoms, loads } }

/-- A crew's rows, convoys, laybys and queue entries are gone. -/
def eraseCrew (s : State) (crew : Nat) : State :=
  let ks := crewThreads s crew
  let s1 := ((s.convoys.filter fun p => p.2.crew == crew && !p.2.members.isEmpty).map (·.1)).foldl endConvoy s
  let s2 := s1.setThreads ks fun t => { gen := (s1.thread t).gen }
  let s3 := (s.crew crew).cores.foldl (fun x c =>
    let co := x.core c
    x.setCore c { co with mq := co.mq.filter (fun e => e.crew != crew), cq := co.cq.filter fun e => e.crew != crew }) s2
  { s3 with laybys := s3.laybys.filter fun l => l.crew != crew }

/-- The crew leaves its slots for good: its run's entry is freed with the run. -/
def leaveForGood (s : State) (crew : Nat) : State :=
  let cr := s.crew crew
  let s1 := clearUnits (eraseCrew s crew) cr
  let s2 := vacate (s1.setCrew crew { cr with phase := .ended }) crew
  let s3 := cr.cores.foldl (fun x c => returnLease x c cr.ctx) s2
  let s4 := if (s3.run cr.run).live then s3 else { s3 with crews := s3.crews.filter fun p => p.1 != crew }
  s4.post (.dispatch (s.ctx cr.ctx).part :: (if (s3.run cr.run).live then [.runComplete cr.run] else []))

/-- What the bucket grants: nothing where CAP is 0 (R248, R250). -/
def Context.grant (x : Context) : Int :=
  if x.cap = 0 then 0 else if 0x1000000 ≤ x.level then 0x1000000 else if 0 < x.level then x.level else 0

/-- The bucket answers an outstanding request. -/
def answerLease (s : State) (core ctx : Nat) : State :=
  let l := s.lease core ctx
  if !l.asked then s
  else
    let x := s.ctx ctx
    let g := x.grant
    let s1 := (s.setCtx ctx { x with level := x.level - g }).setLease core ctx { rem := l.rem + g, asked := false, refused := g == 0 }
    let s2 := returnLease s1 core ctx
    if s2.dry core ctx && s2.resident core ctx then s2.post [.reselect core, .dispatch x.part] else s2

/-- What the convoys of a crew have fetched and not issued is fetched again where they resume. -/
def dropHands (s : State) (crew : Nat) : State :=
  ((s.convoys.filter fun p => p.2.crew == crew && !p.2.tolled).map (·.1)).foldl (fun x k =>
    (x.setHand k none).setConvoy k { x.convoy k with checked := false }) s

/-- The crew's image is saved and its slots are free. The remainder that is saved has been charged for the image, and a request that these charges
bring is answered first (R250). -/
def save (s : State) (crew : Nat) : State :=
  let cr := s.crew crew
  let s1 := dropHands (shelveHoldings s fun c => c.crew == crew) crew
  let s2 := cr.cores.foldl (fun x c => answerLease x c cr.ctx) (writeImage s1 crew)
  let dest := imageCore crew
  let s3 := shiftTimes (relocate s2 crew dest) crew (-(s.cycle cr.core : Int))
  let last := cr.cores.all fun c => !othersOn s c cr.ctx crew
  let rem := cr.cores.foldl (fun a c => a + (s2.lease c cr.ctx).rem) 0
  let s4 := if last then
      let x := cr.cores.foldl (fun x c => x.setLease c cr.ctx {}) s3
      x.setLease dest cr.ctx { rem }
    else s3
  let old := { s4.crew crew with core := cr.core }
  let s5 := vacate (s4.setCrew crew old) crew
  (s5.setCrew crew { s5.crew crew with core := dest, phase := .saved, order := s5.key }).bump.post [.dispatch (s.ctx cr.ctx).part]

/-- A crew of a stopped context is streamed out like any other; its run has ended with the fault's code, so that it never comes back (R288). -/
def saveStopped (s : State) (crew : Nat) : State := leaveForGood (writeImage (shelveHoldings s fun c => c.crew == crew) crew) crew

/-- STREAM_OUT: the crew's convoys stop at an instruction boundary; once the drain is done, started engine entries are complete and no lease
request is outstanding, the crew is saved. -/
def execStreamOut (crew : Nat) (s : State) : Result :=
  .next (let cr := s.crew crew
    let stopped := (s.ctx cr.ctx).stop != none
    let leave : State :=
      { s.setCrew crew { cr with phase := .leaving } with issue := s.issue.filter fun k => (s.convoy k).crew != crew }.post [.streamOut crew]
    match cr.phase with
    | .staging => leave
    | .running => leave
    | .writingBack => if stopped then leave else s
    | .saved => if stopped then leaveForGood s crew else s
    | .leaving =>
      let s1 := if stopped then dropWaiting s crew else s
      if !drained s1 crew || cr.cores.any fun c => (s1.lease c cr.ctx).asked then s1
      else if stopped then saveStopped s1 crew
      else save s1 crew
    | _ => s)

/-! ### Stream-in (R279, R280) -/

/-- A saved crew resumes on a core that offers its footprint. -/
def streamIn (s : State) (crew core : Nat) : State :=
  let cr := s.crew crew
  let s1 := restoreRun s cr.run
  let rem := (s1.lease (imageCore crew) cr.ctx).rem
  let s2 := relocate (s1.setLease (imageCore crew) cr.ctx {}) crew core
  let s3 := cr.cores.foldl (fun x i => let c := i - cr.core + core; acquireL1 x c 3) s2
  let phase := if (s3.crew crew).started then .running else .staging
  let s4 := shiftTimes (s3.setCrew crew { s3.crew crew with phase, order := s3.key }) crew (s3.cycle core)
  -- the image is read back section by section; what it holds is what was saved: no access but firmware's reaches it
  let s5 := imageTraffic (occupy s4.bump crew core cr.slot rem) crew false
  -- rows of exiting threads may have lost their last load or TLD before the move (02 R65)
  s5.post (((crewThreads s5 crew).filter fun t => (s5.thread t).state == .exiting).map Instr.rowFree)

/-- The core lies in the crew's partition, enabled, and offers the footprint and slot. -/
def offers (s : State) (crew core slot : Nat) : Bool :=
  let cr := s.crew crew
  (placesOf s (s.ctx cr.ctx).part cr.foot).contains core && slot == cr.slot && freeSlot s core cr.foot (some cr.slot) == some slot

/-- STREAM_IN. -/
def execStreamIn (crew core slot : Nat) (s : State) : Result :=
  .next (let cr := s.crew crew
    if cr.phase = .saved ∧ (s.ctx cr.ctx).stop = none ∧ offers s crew core slot then streamIn s crew core else s)

/-! ### Dispatch (R273, R278) -/

/-- Places where a saved crew can come in, and those where slots can be freed for it. -/
def freePlaces (s : State) (crew : Nat) : List Nat :=
  let cr := s.crew crew
  (placesOf s (s.ctx cr.ctx).part cr.foot).filter fun c => offers s crew c cr.slot
def roomPlaces (s : State) (prio crew : Nat) : List Nat :=
  let cr := s.crew crew
  (placesOf s (s.ctx cr.ctx).part cr.foot).filter fun c => !(ordersOut s cr.ctx prio c cr.foot (some cr.slot)).isEmpty

/-- One of some places: which is the device's choice. -/
def choosePlace (s : State) (l : List Nat) : Nat := (l[Config.choice s.fresh l.length % l.length]?).getD 0

/-- Streams in one saved crew where a place is free, or makes room. -/
def placeSaved (prio : Nat) (s : State) (crew : Nat) : State :=
  let cr := s.crew crew
  let free := freePlaces s crew
  let room := roomPlaces s prio crew
  if !free.isEmpty then streamIn s.bump crew (choosePlace s free)
  else if !room.isEmpty then makeRoom s.bump cr.ctx prio (choosePlace s room) cr.foot (some cr.slot)
  else s

/-- A saved context of the partition could come in, or have slots freed for it (R278). -/
def savedCanMove (s : State) (part : Nat) : Bool :=
  (s.contextsWith fun n c => c.part == part && savedWaits s n).any fun n =>
    (savedCrews s n).any fun k => !(freePlaces s k).isEmpty || !(roomPlaces s (waitingPrio s n) k).isEmpty

/-! ### Launch orders (13 R354, R356) -/

/-- The crew that an order names. -/
def orderedCrew (s : State) (o : Order) : Option Nat :=
  (s.crews.find? fun p => p.2.ctx == o.ctx && p.2.num == o.crew && p.2.phase != .none && p.2.phase != .ended && (s.run p.2.run).id == o.run).map (·.1)

/-- Slots that an order needs are occupied; `cluster` for a cluster crew. -/
def slotsTaken (s : State) (o : Order) (cluster : Bool) : Bool :=
  let taken (c : Nat) : Bool := if o.slot = 2 then !bothFree (s.core c) else (s.core c).crewAt o.slot != 0
  taken o.core || (cluster && taken (o.core + 1))

/-- CORE and SLOT suit a footprint. -/
def Order.suits (o : Order) (f : Footprint) : Bool :=
  match f with | .half => o.slot != 2 | .full => o.slot == 2 | .cluster => o.slot == 2 && o.core % 2 == 0

/-- The live run of the context that an order names. -/
def orderedRun (s : State) (o : Order) : Option Nat :=
  (s.runs.find? fun p => p.2.live && p.2.ctx == o.ctx && p.2.id == o.run).map (·.1)

/-- Crews that a run of a footprint has in the context's partition. -/
def runCrews (s : State) (ctx : Nat) (f : Footprint) : Nat := (placesOf s (s.ctx ctx).part f).length

/-- The run of an order stands in the run table, or finds a free entry and range there (10 R282). -/
def orderFits (s : State) (o : Order) (f : Footprint) : Bool :=
  (orderedRun s o).isSome || ((freeIndex s o.ctx).isSome && (freeRange s o.ctx (runCrews s o.ctx f * imageSize f)).isSome)

/-- A new run that an order names. -/
def newRun (s : State) (o : Order) (run : Run) : Run :=
  let x := s.ctx o.ctx
  { run with live := true, id := o.run, ctx := o.ctx, part := x.part, vd := x.vd, ncrew := runCrews s o.ctx run.foot, ordered := true }

/-- The run that an order's crew belongs to: a new one takes its entry and its range as a dispatched one does. -/
def orderRun (s : State) (o : Order) (run : Run) : State × Nat :=
  match orderedRun s o with
  | some k => (s, k)
  | none =>
    let r := newRun s o run
    let base := (freeRange s o.ctx (r.ncrew * imageSize r.foot)).getD 0
    (writeRunEntry (s.setRun s.key { r with base, index := (freeIndex s o.ctx).getD 0 }).bump s.key, s.key)

/-- KIND 0: the crew takes its slots and starts staging (10 R277). -/
def orderLaunch (s : State) (o : Order) (run : Run) (proto : Crew) : State :=
  let r := orderRun s o run
  let ck := r.1.key
  let cr : Crew := { proto with phase := .staging, ctx := o.ctx, run := r.2, num := o.crew, core := o.core, slot := o.slot % 2, order := ck }
  (occupy (clearUnits (r.1.bump.setCrew ck cr) cr) ck o.core cr.slot 0).post [.crewStart ck]

/-- What has become of an order: its slots are occupied; it is to be carried out later; it has been, or it names nothing that it could act on. -/
inductive OrderRes where
  | taken | wait (page : Option Nat) (raw : List Byte) | done
deriving DecidableEq, Repr, Inhabited

/-- A context engine carries out an order. One whose descriptor R276 rejects ends its run with that code. DESIGN CHOICE (log 35): an order for a core
outside the context's partition is carried out; 13 R354 and R356 give no answer for it. -/
def serveOrder (s : State) (o : Order) : State × OrderRes :=
  let x := s.ctx o.ctx
  if o.kind = 2 then
    (match orderedCrew s o with
    | some k => (if (s.crew k).cores.contains o.core then s.post [.streamOut k] else s, .done)
    | none => (s, .done))
  else if slotsTaken s o false then (s, .taken)
  else if !x.used || x.stop.isSome then (s, .done)
  else if o.kind = 1 then
    (match orderedCrew s o with
    | some k =>
      let cr := s.crew k
      if cr.phase = .leaving then (s, .wait none [])
      else if cr.phase ≠ .saved ∨ o.suits cr.foot = false then (s, .done)
      else if slotsTaken s o cr.cluster then (s, .taken)
      else if freeSlot s o.core cr.foot (some cr.slot) = some (o.slot % 2) then (streamIn s k o.core, .done)
      else (s, .done)
    | none => (s, .done))
  else if pageWaits s o.ctx { seq := 0, desc := 0, page := o.page } then (s, .wait o.page o.raw)
  else
    let r := readDesc s o.ctx { seq := 0, desc := o.desc, raw := o.raw }
    match r.2 with
    | .inr g =>
      if !o.suits g.2.foot then (r.1, .done)
      else if slotsTaken r.1 o (g.2.foot == .cluster) then (r.1, .taken)
      else if !orderFits r.1 o g.2.foot then (r.1, .wait none [])
      else (orderLaunch r.1 o g.1 g.2, .done)
    | .inl (.page va h, raw) => (pageRequest r.1 o.ctx va 0 h 0xFFFF, .wait (some (va / 4096)) raw)
    | .inl (.trap c, _) =>
      let k := (orderedRun r.1 o).getD r.1.key
      let run := if (orderedRun r.1 o).isSome then r.1.run k else newRun r.1 o {}
      (raiseSignal (r.1.bump.setRun k { run with live := false, code := some c }) (procOfVd x.vd) 12, .done)
    | .inl (_, raw) => (r.1, .wait none raw)

/-- An accepted order stays with the context engine. -/
def holdOrder (s : State) (o : Order) : State := s.setCore o.core { s.core o.core with orders := (s.core o.core).orders ++ [o] }

/-- Orders that context engines hold for the contexts of a partition. -/
def ordersOf (s : State) (part : Nat) : List Order := s.cores.flatMap fun p => p.2.orders.filter fun o => (s.ctx o.ctx).part == part

/-- An order is tried again. -/
def retryOrder (s : State) (o : Order) : State :=
  let co := s.core o.core
  let r := serveOrder (s.setCore o.core { co with orders := co.orders.erase o }) o
  match r.2 with
  | .done => r.1
  | .wait p raw => holdOrder r.1 { o with page := p, raw }
  | .taken => holdOrder r.1 o

/-- Places the dispatcher's candidate. Once a saved context has come in it chooses again, since priorities have changed (R273). -/
def dispatchBest (s : State) (part : Nat) : State :=
  match bestCand (dispatchCands s part) with
  | none => s
  | some c =>
    if c.isNew then dispatchRun s part c.what c.prio
    else
      let s1 := (savedCrews s c.what).foldl (placeSaved c.prio) s
      if (savedCrews s1 c.what).length < (savedCrews s c.what).length then s1.post [.dispatch part] else s1

/-- DISPATCH: accepted launch orders are tried again; the chosen candidate is placed, or slots are freed for it. -/
def execDispatch (part : Nat) (s : State) : Result := .next (dispatchBest ((ordersOf s part).foldl retryOrder s) part)

/-! ### Slots of a core (09 R254, 10 R278, R281) -/

/-- The context of a slot may run: neither stopped nor dry, with issuable work of a crew that runs. -/
def eligible (s : State) (core slot : Nat) : Bool :=
  let crew := (s.core core).crewAt slot
  crew != 0 && ((dedup [(s.core core).slot0, (s.core core).slot1]).filter fun k => k != 0 && (s.crew k).ctx == (s.crew crew).ctx).any fun k =>
    crewLive s core k && issuableWork s core k

/-- SLOT_SWITCH: issue goes to the other slot's context; the leaving context's holdings on the core are given up. -/
def switchSlot (s : State) (core : Nat) : State :=
  let old := s.runningCrews core
  let s1 := shelveHoldings s fun c => c.core == core && old.contains c.crew
  let co := s1.core core
  { s1.setCore core { co with running := 1 - co.running } with
    issue := s1.issue.filter fun k => !((s1.convoy k).core == core && old.contains (s1.convoy k).crew) }

/-- RESELECT: at every 4,096th core cycle, or when the running context has dried or has no issuable work. -/
def execReselect (core : Nat) (s : State) : Result :=
  .next (let co := s.core core
    let r := co.running
    let other := 1 - r
    let same := co.crewAt r != 0 && co.crewAt other != 0 && (s.crew (co.crewAt r)).ctx == (s.crew (co.crewAt other)).ctx
    let fc (n : Nat) : Int := if n = 0 then co.fc0 else co.fc1
    let s1 := s.setCore core { co with selected := s.cycle core }
    if same || !eligible s core other then s1
    else if !eligible s core r then switchSlot s1 core
    else if (s.cycle core - co.lag) % 4096 = 0 ∧ fc other + 0x100000 < fc r then switchSlot s1 core
    else s1)

/-- A candidate waits for slots of a core: a ready run's footprint, or a saved crew, has a place there that is not free. -/
def waitsForCore (s : State) (part core : Nat) (c : DCand) : Bool :=
  let wants (f : Footprint) (want : Option Nat) : Bool :=
    ((placesOf s part f).any fun p => p == core || (f == .cluster && p + 1 == core)) && (freeSlot s (if f = .cluster then core / 2 * 2 else core) f want).isNone
  if c.isNew then
    match (s.queue c.what).pend with
    | { got := some (r, _), .. } :: _ => wants r.foot none
    | _ => false
  else (savedCrews s c.what).any fun k => wants (s.crew k).foot (some (s.crew k).slot)

/-- Another context waits for the core with at least this priority (R278). -/
def waiterFor (s : State) (part core ctx prio : Nat) : Bool :=
  (dispatchCands s part).any fun c =>
    decide (prio ≤ c.prio) && (if c.isNew then (s.queue c.what).ctx else c.what) != ctx && waitsForCore s part core c

/-- RESIDENCY_TIMEOUT: after 50 ms of residency. -/
def execResidencyTimeout (core ctx : Nat) (s : State) : Result :=
  .next (if s.resident core ctx && waiterFor s (s.ctx ctx).part core ctx (residentPrio s core ctx) then
      s.post (((s.crewsOf ctx).filter fun k => (s.crew k).cores.contains core).map Instr.streamOut)
    else s)

/-! ### End of a crew (02 R66, 06 R188, 15 R424) -/

/-- The crew's engine work and stores are complete. -/
def workDone (s : State) (crew : Nat) : Bool :=
  drained s crew
    && ((s.crew crew).cores.all fun c => ((s.core c).mq.all fun e => e.crew != crew) && (s.core c).cq.all fun e => e.crew != crew)
    && s.cores.all fun p => p.2.sideLog.all fun e => e.crew != crew

/-- REGION_WRITEBACK. -/
def execRegionWriteback (crew : Nat) (s : State) : Result :=
  .next (let cr := s.crew crew
    if cr.phase ≠ .writingBack ∨ !workDone s crew then s
    else if (s.ctx cr.ctx).stop ≠ none then leaveForGood s crew
    else
      let outs := (s.run cr.run).regions.filter fun r => r.dir != 1
      let r := moveRegions crew false (outs.drop cr.region) s
      match r.2 with
      | .done => leaveForGood r.1 crew
      | .stop va h => (pageRequest r.1 cr.ctx va 1 h cr.core).setCrew crew { r.1.crew crew with waitPage := some (va / 4096) }
      | .fault code addr => regionFault r.1 crew code addr
      | _ => r.1)

/-! ### Leases (09 R250, R251) -/

/-- LEASE_ANSWER: the bucket grants or refuses. -/
def execLeaseAnswer (core ctx : Nat) (s : State) : Result := .next (answerLease s core ctx)

/-- Every dry or refused core of a context asks again; it stays dry until the answer (R251). -/
def retryLeases (s : State) (ctx : Nat) : State :=
  ((s.cores.filter fun p => (Tab.get {} p.2.leases ctx).refused && decide (p.1 < 0x100000)).map (·.1)).foldl (fun x c =>
    let l := x.lease c ctx
    if l.asked then x else (x.setLease c ctx { l with asked := true }).post [.leaseAnswer c ctx]) s

end Sys2Proof.Machine
end

