-- ==== Sys2Proof/Machine/System.lean ====
section
/-! DEFINITION. The system registers: every register of 03 R95 read by SRR and written by SRW (17 R487, R488). -/

namespace Sys2Proof.Machine

/-- Island clock of a point in MHz (08 R219). -/
def pointMHz (p : Nat) : Nat :=
  ([600, 800, 1000, 1200, 1400, 1600, 1800, 2000, 2100, 2200, 2300, 2400, 2500, 2600, 2700, 2800])[p]?.getD 0
/-- Rail of a point: 0 = 0.55, 1 = 0.65, 2 = 0.75, 3 = 0.85 V. -/
def pointRail (p : Nat) : Nat := if p ≤ 2 then 0 else if p ≤ 6 then 1 else if p ≤ 12 then 2 else 3

/-- ISLAND (R95). -/
def islandReg (i : Island) : DWord := BitVec.ofNat 64 (i.cur + i.rail * 16 + i.trim * 256 + pointMHz i.cur * 65536)

/-- Thread-scope registers: 0 LANE, 4 COHORT, 7 STAGE, 0x22 SRSEED, 0x30–0x34 trap registers, 0x40–0x44 counters. -/
def srThreadRead (t : Thread) (lane n : Nat) : DWord :=
  match n with
  | 0x00 => BitVec.ofNat 64 lane
  | 0x04 => BitVec.ofNat 64 t.cohort
  | 0x07 => BitVec.ofNat 64 t.stage
  | 0x22 => t.srseed.setWidth 64
  | 0x30 => t.trpc
  | 0x31 => (t.trcause &&& 0xFFFF0FFF).setWidth 64
  | 0x32 => t.traddr
  | 0x33 => t.trval
  | 0x34 => t.trlane
  | 0x40 => BitVec.ofNat 64 t.ocl
  | 0x41 => BitVec.ofNat 64 t.ocs
  | 0x42 => BitVec.ofNat 64 t.occ
  | 0x43 => BitVec.ofNat 64 t.oct
  | _ => BitVec.ofNat 64 t.llat

/-- The other registers, of the convoy, its crew and its context. -/
def srGroupRead (s : State) (k n : Nat) : DWord :=
  let c := s.convoy k
  let cr := s.crew c.crew
  let r := s.run cr.run
  if 0x120 ≤ n then Tab.get 0 cr.w (n - 0x120)
  else if 0x100 ≤ n then
    let rc := Tab.get 0 cr.k ((n - 0x100) / 2)
    if n % 2 = 0 then rc.setWidth 64 else (rc >>> 64).setWidth 64
  else match n with
    | 0x01 => BitVec.ofNat 64 c.quad
    | 0x02 => BitVec.ofNat 64 c.core
    | 0x03 => BitVec.ofNat 64 (c.core / 2)
    | 0x05 => BitVec.ofNat 64 cr.num
    | 0x06 => BitVec.ofNat 64 (r.id % 2^32)
    | 0x08 => BitVec.ofNat 64 r.ncrew
    | 0x10 => BitVec.ofNat 64 c.pc
    | 0x20 => cr.rsm
    | 0x21 => cr.seed
    | 0x50 => BitVec.ofNat 64 (heldBy s k)
    | 0x51 => BitVec.ofInt 64 (s.acct cr.ctx).acct
    | _ => islandReg (s.island (c.core / 2))

/-- Firmware numbers fault with PRIVILEGE (R94). -/
def privCheck (n : Nat) : State → Nat → Option Nat := fun _ _ => if srFirmware n then some 0x003 else none

def execSrr (d n : Nat) (s : State) : Result :=
  .next (groupOp (.srr d n) legal (privCheck n) (fun s' k =>
    if srThreadScope n then s'.setThreads (s.convoy k).keys fun t => (s.thread t).setReg d (srThreadRead (s.thread t) (tkeyLane t) n)
    else s'.setG k d (srGroupRead s k n)) s)

/-- What SRW stores in a thread-scope register (R488). -/
def srThreadWrite (t : Thread) (n : Nat) (x : DWord) : Thread :=
  match n with
  | 0x22 => let y : Word := x.setWidth 32; { t with srseed := if y = 0 then 1 else y }
  | 0x30 => { t with trpc := x }
  | 0x31 => { t with trcause := x.setWidth 32 }
  | 0x32 => { t with traddr := x }
  | 0x33 => { t with trval := x }
  | _ => { t with trlane := x &&& 0x1F1F }

/-- What SRW stores in a crew register. -/
def srCrewWrite (c : Crew) (n : Nat) (x : DWord) : Crew :=
  if 0x120 ≤ n then { c with w := Tab.set 0 (n - 0x120) (x &&& 0x7FFFFFFFFF) c.w }
  else if 0x100 ≤ n then
    let j := (n - 0x100) / 2
    let old := Tab.get 0 c.k j
    let lo : BitVec 128 := if n % 2 = 0 then x.setWidth 128 else (old.setWidth 64 : DWord).setWidth 128
    let hi : BitVec 128 := if n % 2 = 1 then x.setWidth 128 else ((old >>> 64).setWidth 64 : DWord).setWidth 128
    { c with k := Tab.set 0 j (hi <<< 64 ||| lo) c.k }
  else { c with rsm := x &&& 0xFFFFFFFFF }

/-- WAYPOINT_STATE while the latch of Wn holds deposits (R98). -/
def srwCheck (n : Nat) (s : State) (k : Nat) : Option Nat :=
  if srFirmware n then some 0x003
  else if 0x120 ≤ n && ((s.crewOf k).latch (n - 0x120)).state != .empty then some 0x071
  else none

/-- SRW (R94, R488): every convoy of the crew that issues later finds the new value, also one that issues before its BARW, which R100 lets see
either (log 64). -/
def execSrw (a n : Nat) (s : State) : Result :=
  .next (groupOp (.srw a n) legal (srwCheck n) (fun s' k =>
    if srThreadScope n then s'.setThreads (s.convoy k).keys fun t => srThreadWrite (s.thread t) n ((s.thread t).reg a)
    else
      let crew := (s.convoy k).crew
      s'.setCrew crew (srCrewWrite (s'.crew crew) n (s.g k a))) s)

end Sys2Proof.Machine
end

