-- ==== Sys2Proof/Machine/Energy.lean ====
section
/-! DEFINITION. Correction, meter records, operating points, the sustained limit, byte budgets, pauses, rack caps
(09 R244-R246, R255-R265). -/

namespace Sys2Proof.Machine

/-! ### Meter records (R261, R262) -/

/-- SHA-384 over blocks 1–6 as they stand (13 R358). -/
def firmwareDigest (s : State) : BitVec 384 :=
  Config.sha384 ((List.range 6).flatMap fun i => (leBytes (Tab.get 0 s.sec.blocks (i + 1)).toNat 48).reverse)

def int64Bytes (x : Int) : List Byte := leBytes (BitVec.ofInt 64 x).toNat 8

/-- VD of an account, 0 for an account of no VD. -/
def acctVd (s : State) (acct : Nat) : Nat := if acct < 0x10000 then s.ctxVd acct else if acct < 0x10040 then acct - 0x10000 else 0

/-- The next record of an account: SEQ rises by 1. -/
def meterRecord (s : State) (acct nonce : Nat) (final : Bool) : State × List Byte :=
  let a := s.acct acct
  let seq := a.seq + 1
  let corr := if a.est = 0 ∨ a.meas < 0 then Config.recordCorr a.meas a.est % 65536 else min 0xFFFF (0x1000 * a.meas.toNat / a.est)
  let body := leBytes 1 1 ++ leBytes ((if final then 1 else 0) + (if acct < 0x10000 then 0 else 2)) 1 ++ leBytes (acctVd s acct) 2
    ++ leBytes (if acct < 0x10000 then acct else 0xFFFFFFFF) 4 ++ leBytes seq 8 ++ int64Bytes (a.acct / 4000) ++ leBytes (a.est / 4000) 8
    ++ int64Bytes (a.meas / 4000) ++ leBytes corr 2 ++ leBytes 0 2 ++ leBytes nonce 4 ++ (leBytes (firmwareDigest s).toNat 48).reverse
  (s.setAcct acct { a with seq }, body ++ sized 96 (Config.sign body))

/-! ### Accounts that close (R246) -/

/-- The account has been charged in the present interval or the one before in some domain. -/
def acctBusy (s : State) (acct : Nat) : Bool := s.doms.any fun p => Tab.get 0 p.2.part acct != 0 || p.2.before.contains acct

/-- Final meter records of destroyed contexts whose accounts are closed. -/
def closeAccounts (s : State) : State :=
  ((s.ctxs.filter fun p => p.2.destroyed && (s.acct p.1).closing && !acctBusy s p.1).map (·.1)).foldl (fun x n =>
    let r := meterRecord (x.setAcct n { x.acct n with closing := false }) n 0 true
    eventPost r.1 5 r.2) s

/-! ### Correction (R245) -/

/-- Partition whose clusters include one. -/
def partOfCluster (s : State) (c : Nat) : Option Nat := (s.parts.find? fun p => p.2.used && p.2.clusters.contains c).map (·.1)

def idleAccount (s : State) (dom : Nat) : Nat :=
  if dom < 256 then (match partOfCluster s dom with | some p => partAccount p | none => firmwareAccount) else firmwareAccount

/-- The account with the largest part, the lowest number among equals; the table is in ascending order. -/
def largestPart (l : Tab Nat) : Nat :=
  (l.foldl (fun (a : Nat × Nat) p => if a.2 < p.2 then p else a) (0, 0)).1

/-- Residuals: D × part ÷ E truncated toward zero, what is left over to the largest. -/
def residuals (d : Int) (e : Nat) (l : Tab Nat) : List (Nat × Nat × Int) :=
  let r0 := l.map fun p => (p.1, p.2, (d * p.2).tdiv e)
  let left := d - r0.foldl (fun a p => a + p.2.2) 0
  r0.map fun p => if p.1 = largestPart l then (p.1, p.2.1, p.2.2 + left) else p

def correctDom (s : State) (dom m : Nat) : State :=
  let x := s.dom dom
  let d : Int := m - x.e
  let s1 := if x.e = 0 then
      let a := idleAccount s dom
      s.setAcct a { s.acct a with acct := (s.acct a).acct + d }
    else (residuals d x.e x.part).foldl (fun y p =>
      let a := y.acct p.1
      let y1 := y.setAcct p.1 { a with acct := a.acct + p.2.2, meas := a.meas + p.2.1 + p.2.2 }
      if p.1 < 0x10000 then let c := y1.ctx p.1; y1.setCtx p.1 { c with level := c.level - p.2.2 } else y1) s
  let cf := if x.e = 0 then x.cf else min 0x2000 (max 0x0800 ((2 * x.cf * m + x.e) / (2 * x.e)))
  s1.setDom dom { x with cf, e := 0, part := [], integral := x.integral + (m - x.read), read := 0, before := x.part.map (·.1) }

/-! ### Operating points (R255-R257) -/

/-- Highest permitted point at or below p, else the lowest permitted. -/
def permittedAt (allow : BitVec 16) (p : Nat) : Nat :=
  match ((List.range 16).filter fun n => decide (n ≤ p) && allow.getLsbD n).getLast? with
  | some n => n
  | none => ((List.range 16).find? fun n => allow.getLsbD n).getD p

/-- Point toward which the controller moves the island. -/
def Island.target (i : Island) : Nat := if i.limit < i.req then permittedAt i.allow i.limit else permittedAt i.allow i.req

/-- Rail and trim of a point (R255). -/
def Island.supply (i : Island) (isl p : Nat) : Island := { i with rail := pointRail p, trim := Config.trim isl p % 11 }

/-- A change of point starts where none is under way; a raise sets rail and trim first (R257). -/
def movePoint (s : State) (isl : Nat) : State :=
  let i := s.island isl
  if i.changing || i.target == i.cur then s
  else
    let j := { i with changing := true, goal := i.target }
    (s.setIsland isl (if i.cur < i.target then j.supply isl i.target else j)).post [.pointChangeComplete isl]

/-- POINT_CHANGE_COMPLETE: the new clock takes effect, which completes a raise; after a lowering the new rail and trim follow it, and complete
the change (R257). -/
def execPointChangeComplete (isl : Nat) (s : State) : Result :=
  .next (let i := s.island isl
    if !i.changing then s
    else if i.cur < i.goal then movePoint (s.setIsland isl { i with cur := i.goal, changing := false }) isl
    else if i.goal < i.cur then (s.setIsland isl { i with cur := i.goal }).post [.pointChangeComplete isl]
    else movePoint (s.setIsland isl { i.supply isl i.goal with changing := false }) isl)

/-- A write of a point register (R256): REQ alone is written, and only to a permitted point; clusters outside the VD's partition
ignore it. -/
def pointWrite (s : State) (vd cluster val : Nat) : State :=
  let i := s.island cluster
  let mine := match (s.vd vd).part with | some p => (s.part p).clusters.contains cluster | none => false
  if mine && i.allow.getLsbD (val % 16) then movePoint (s.setIsland cluster { i with req := val % 16 }) cluster else s

/-- POINT_REQUEST. -/
def execPointRequest (vd cluster val : Nat) (s : State) : Result := .next (pointWrite s vd cluster val)

/-! ### The sustained limit (R258) -/

/-- Largest deficit of a partition's queues. -/
def partDeficit (s : State) (part : Nat) : Nat := (queuesOfPart s part).foldl (fun a k => max a (s.queue k).deficit) 0

/-- An island with a clock, which alone has correction intervals. -/
def State.clocked (s : State) (c : Nat) : Bool := (s.island c).state == .enabled || (s.island c).state == .marked

/-- The island whose limit point is lowered next: among those that correct, the lowest-numbered at the highest point. -/
def limitIsland (s : State) : Option Nat :=
  let best := s.parts.foldl (fun (a : Option (Nat × Nat)) p =>
    if !p.2.used then a else match a with
    | none => some (p.1, partDeficit s p.1)
    | some b => if b.2 < partDeficit s p.1 then some (p.1, partDeficit s p.1) else a) none
  match best with
  | none => none
  | some (p, _) =>
    ((s.part p).clusters.filter s.clocked).foldl (fun a c => match a with
      | none => some c
      | some b => if (s.island b).cur < (s.island c).cur then some c else a) none

/-- LIMIT_POINT_LOWER at the end of an island's correction interval: the third action, once dispatch has been paused and the limit still binds. -/
def lowerLimit (s : State) (isl : Nat) : State :=
  let i := s.island isl
  if s.power.binding && s.power.windows != 0 && limitIsland s == some isl then movePoint (s.setIsland isl { i with limit := i.limit - 1 }) isl
  else s

/-- An interval of the domain ends now: in the 65,536th cycle counted, before that cycle's charges (R240, R244). -/
def intervalEnds (s : State) (dom : Nat) : Bool :=
  if dom < 256 then (s.dom dom).count == 65535 else decide (dom < 288) && s.msc.cycle % 65536 == 65535

/-- The island applies the sustained limit as it stands (01 R26). -/
def applyLimit (s : State) (isl : Nat) : State := s.setIsland isl { s.island isl with inForce := s.power.suslim }

/-- CORRECT: a correction interval ends. -/
def execCorrect (dom measured : Nat) (s : State) : Result :=
  .next (if !intervalEnds s dom then s
    else
      let s1 := correctDom s dom measured
      let s2 := if dom < 256 then lowerLimit (applyLimit s1 dom) dom else s1
      let ctl := if dom < 256 then 8 + dom / 64 else if dom < 272 then 8 + (dom - 256) / 4 else 8
      closeAccounts (raiseSignal s2 ctl 15))

/-- BYTE_BUDGET_CUT: at every slice the cluster with the most tiles in the last window loses part of its budget; how much is the
controller's choice. -/
def cutBudgets (s : State) : State :=
  (List.range 16).foldl (fun x slice =>
    let mine := (x.msc.lastUsed.filter fun p => p.1 / 256 == slice && p.2 != 0)
    match mine with
    | [] => x
    | _ =>
      let key := (mine.foldl (fun (a : Nat × Nat) p => if a.2 < p.2 then p else a) (0, 0)).1
      let b := Tab.get 0xFFFF x.msc.budgets key
      let new := if b = 0 then 0 else Config.choice x.fresh b % b
      { x.bump with msc := { x.msc with budgets := Tab.set 0xFFFF key new x.msc.budgets } }) s

/-- The sustained limit that the package holds: the lowest that an island with a clock applies; they may differ until each has corrected
(01 R26; log 75). -/
def limitInForce (s : State) : Nat :=
  (List.range 256).foldl (fun a n => match (s.island n).state with
    | .retired => a
    | .poweredDown => a
    | _ => min a (s.island n).inForce) 3000

/-- LIMIT_BIND_CHANGE: the 1 ms average of package power, in watts. Where the limit stops binding, the controllers' limits end. -/
def execLimitBindChange (watts : Nat) (s : State) : Result :=
  .next (let binds := decide (97 * limitInForce s < 100 * watts)
    let s1 := { s with power := { s.power with binding := binds, bound := s.power.bound || binds, watts } }
    let s2 := if binds != s.power.binding then (List.range 4).foldl (fun x n => raiseSignal x (8 + n) 16) s1 else s1
    if binds then cutBudgets s2
    else
      let ids := (s2.islands.filter fun p => p.2.limit != 15).map (·.1)
      let s3 := { s2 with msc := { s2.msc with budgets := [] } }
      ids.foldl (fun x c => movePoint (x.setIsland c { x.island c with limit := 15 }) c) s3)

/-- POOL_HALVE: above 3,400 W over 2 µs every island's current entry is halved. -/
def execPoolHalve (watts : Nat) (s : State) : Result :=
  .next (if 3400 < watts ∧ s.power.halved = false then
      let halve (x : State) (c : Nat) : State :=
        let i := x.island c
        let v := i.poolEntry i.cur
        x.setIsland c { i with halved := some (i.cur, v), pools := Tab.set 0 i.cur (v / 2 + 1) i.pools }
      (List.range 256).foldl halve { s with power := { s.power with halved := true } }
    else s)

/-- POOL_RESTORE: below 3,200 W over 10 µs the entries are restored. -/
def execPoolRestore (watts : Nat) (s : State) : Result :=
  .next (if watts < 3200 ∧ s.power.halved = true then
      let restore (x : State) (c : Nat) : State :=
        let i := x.island c
        match i.halved with
        | some (p, v) => x.setIsland c { i with halved := none, pools := Tab.set 0 p (if v = defaultPool p then 0 else v + 1) i.pools }
        | none => x
      (List.range 256).foldl restore { s with power := { s.power with halved := false } }
    else s)

/-- POOL_TABLE_WRITE (08 R218): firmware writes the 8-bit entry of one of the 16 points. -/
def execPoolTableWrite (island point val : Nat) (s : State) : Result :=
  .next (let i := s.island island
    let point := point % 16
    let val := val % 256
    let halved := match i.halved with | some (p, v) => if p = point then none else some (p, v) | none => none
    s.setIsland island { i with halved, pools := Tab.set 0 point (if val = defaultPool point then 0 else val + 1) i.pools })

/-! ### Byte budgets (R259) -/

/-- BUDGET_WINDOW: USED clears, and the slice's waiting requests are served in arrival order. What has not been tried in the window that ends
waits no more: its instruction or transfer is gone. -/
def execBudgetWindow (slice : Nat) (s : State) : Result :=
  .next (let mine := s.msc.used.filter fun p => p.1 / 256 == slice
    let ids := Tab.get [] s.msc.waiting slice
    let last := Tab.clearRun (256 * slice) 256 s.msc.lastUsed
    let line := s.msc.line.map fun p => if p.1 / 256 == slice then (p.1, (p.2.filter (·.2)).map fun w => (w.1, false)) else p
    let s1 := { s with msc := { s.msc with used := Tab.clearRun (256 * slice) 256 s.msc.used,
                                           lastUsed := mine.foldl (fun t (p : Nat × Nat) => Tab.set 0 p.1 p.2 t) last,
                                           line := line.filter fun p => !p.2.isEmpty,
                                           waiting := Tab.erase slice s.msc.waiting } }
    s1.post (ids.flatMap (retryRequest s1)))

/-! ### Pauses (R260) -/

/-- Order in which queues are paused: larger deficit, then lower PW, then higher number. -/
def pausedBefore (a b : Nat × Queue) : Bool :=
  if a.2.deficit ≠ b.2.deficit then decide (b.2.deficit < a.2.deficit)
  else if a.2.pw ≠ b.2.pw then decide (a.2.pw < b.2.pw)
  else decide (b.1 < a.1)

def insertPause (x : Nat × Queue) : List (Nat × Queue) → List (Nat × Queue)
  | [] => [x]
  | y :: ys => if pausedBefore x y then x :: y :: ys else y :: insertPause x ys

/-- Launch queues: those that name a context in use. -/
def launchQueues (s : State) : List (Nat × Queue) := s.queues.filter fun p => (s.ctx p.2.ctx).used

/-- DISPATCH_WINDOW: the end of a 1 ms window, in which the limit has bound at some time or at none. -/
def execDispatchWindow (s : State) : Result :=
  .next (let parts : List Instr := (s.parts.filter fun p => p.2.used).map fun p => .dispatch p.1
    if s.power.bound then
      let k := s.power.windows + 1
      let rise (p : Nat × Queue) : Nat × Queue := (p.1, { p.2 with deficit := p.2.deficit + p.2.energy * 256 / p.2.pw, energy := 0 })
      let qs := s.queues.map rise
      let s1 := { s with queues := qs, power := { s.power with windows := k, bound := s.power.binding } }
      let order := (launchQueues s1).foldl (fun a x => insertPause x a) []
      let out := (order.take (min k (order.length - 1))).map (·.1)
      let pause (p : Nat × Queue) : Nat × Queue := (p.1, { p.2 with paused := out.contains p.1 })
      State.post { s1 with queues := s1.queues.map pause } parts
    else
      let clear (p : Nat × Queue) : Nat × Queue := (p.1, { p.2 with deficit := 0, energy := 0, paused := false })
      State.post { s with queues := s.queues.map clear, power := { s.power with windows := 0 } } parts)

/-! ### Rack caps (R263-R265) -/

/-- A member in the allocation: number, demand, weight, allocation as a fraction num ÷ den. -/
structure Share where
  pkg : Nat
  d : Nat
  w : Nat
  num : Nat := 1200
  den : Nat := 1
deriving DecidableEq, Repr, Inhabited

/-- The passes of Allocate (R264) with exact rationals: rest is rn ÷ rd. -/
def allocPasses : Nat → List Share → Nat → Nat → List Share
  | 0, ps, _, _ => ps
  | f + 1, ps, rn, rd =>
    let isAct (p : Share) : Bool := decide (p.num < p.d * p.den)
    let act := ps.filter isAct
    let w := act.foldl (fun a p => a + p.w) 0
    if act.isEmpty ∨ rn = 0 ∨ w = 0 then ps
    else
      -- u = rn ÷ (rd × w)
      let un := rn
      let ud := rd * w
      let sat (p : Share) : Bool := isAct p && decide (p.d * p.den * ud ≤ p.num * ud + p.w * un * p.den)
      if ps.any sat then
        let spent := (ps.filter sat).foldl (fun (a : Nat × Nat) p =>
          -- a − (d − num ÷ den)
          (a.1 * p.den - (p.d * p.den - p.num) * a.2, a.2 * p.den)) (rn, rd)
        allocPasses f (ps.map fun p => if sat p then { p with num := p.d, den := 1 } else p) spent.1 spent.2
      else ps.map fun p => if isAct p then { p with num := p.num * ud + p.w * un * p.den, den := p.den * ud } else p

/-- Allocate: the allocation of every package in steps of 25 W. -/
def allocate (cap : Nat) (ps : List Share) : List (Nat × Nat) :=
  let base := 1200 * ps.length
  if cap < base then ps.map fun p => (p.pkg, 1200)
  else (allocPasses (ps.length + 2) ps (cap - base) 1).map fun p => (p.pkg, p.num / p.den / 25 * 25)

def clampDemand (d : Nat) : Nat := max 1200 (min 3000 d)

/-- The latest message of a member that is not of a later epoch than e. -/
def Member.upTo (m : Member) (e : Nat) : Option Budget := m.msgs.find? fun b => decide (b.epoch ≤ e)
def Member.has (m : Member) (e : Nat) : Bool := m.msgs.any fun b => b.epoch == e

/-- Messages of epoch e from every member (R265). -/
def haveAll (p : Power) (e : Nat) : Bool := p.members.all fun m => m.2.has e

/-- The packages of the allocation for epoch e + 1, with their messages of epoch e (R264). -/
def sharesOf (p : Power) (e : Nat) : List Share :=
  { pkg := ownPkg, d := p.demand, w := p.rack.weight } :: p.members.filterMap fun m => (m.2.upTo e).map fun b => { pkg := m.1, d := b.demand, w := b.weight }

/-- The other packages that a budget message goes to: those at the ports and those that have sent one (log 75). -/
def budgetPeers (s : State) : List Nat :=
  (dedup ((s.fabric.ports.map fun p => p.2.peer) ++ s.power.members.map (·.1))).filter (· != ownPkg)

/-- An epoch's message to one package, through one port (R263). -/
def sendBudget (payload : Nat) (s : State) (pkg : Nat) : State :=
  match upPort s pkg with
  | some n => sendFlit s n 5 payload firmwareAccount
  | none => s

/-- A rack cap takes force with its epoch. -/
def Power.turn (p : Power) (e : Nat) : Power :=
  match p.nextRack with
  | some (n, r) => if n ≤ e then { p with rack := r, nextRack := none } else p
  | none => p

/-- PLOBRIT_EPOCH: an epoch begins. Its allocation is computed from the messages of the epoch before, and its own message goes out (R263, R264). -/
def execPlobritEpoch (demand : Nat) (s : State) : Result :=
  .next (let e := s.power.epoch + 1
    let p := s.power.turn e
    let d := clampDemand demand
    let payload := ownPkg + e % 2^32 * 2^8 + d * 2^40 + p.rack.weight * 2^56 + p.rack.group * 2^64
    let s1 := if p.rack.cap = 0 then s else (budgetPeers s).foldl (sendBudget payload) s
    let age (m : Nat × Member) : Nat × Member := (m.1, { m.2 with missed := if m.2.has (e - 1) then 0 else m.2.missed + 1 })
    let members := p.members.map age
    let late := (members.filter fun m => decide (3 ≤ m.2.missed)).map (·.1)
    -- its own message of the epoch before bore the weight of then
    let shares := sharesOf { p with rack := { p.rack with weight := if s.power.rack.cap = 0 then p.rack.weight else s.power.rack.weight } } (e - 1)
    let mine := ((allocate p.rack.cap shares).find? fun x => x.1 == ownPkg).map (·.2)
    let keeps := p.conservative && !haveAll p (e - 1)
    let p1 := { p with epoch := e, demand := d, members, undersized := decide (p.rack.cap ≠ 0 ∧ p.rack.cap < 1200 * shares.length) }
    let p2 := if p.rack.cap ≠ 0 ∧ keeps = false then
        { p1 with alloc := mine.getD p.alloc, suslim := mine.getD p.suslim, conservative := false, silent := if p.conservative then [] else p1.silent }
      else p1
    State.post { s1 with power := p2 } (late.map Instr.silentMember))

/-- SILENT_MEMBER: three epochs without a message of a member (R265). -/
def execSilentMember (pkg : Nat) (s : State) : Result :=
  .next (let p := s.power
    match p.members.find? fun m => m.1 == pkg with
    | none => s
    | some m =>
      if m.2.missed < 3 ∨ p.rack.cap = 0 then s
      else
        let w := (sharesOf p p.epoch).foldl (fun a x => a + x.w) 0
        let own := p.rack.cap * p.rack.weight / w / 25 * 25
        let last := if p.alloc = 0 then p.suslim else p.alloc
        { s with power := { p with silent := if p.silent.contains pkg then p.silent else p.silent ++ [pkg], conservative := true,
                                   suslim := max 1200 (min last own) } })

/-- Newest epoch first; a message replaces one of its own epoch. -/
def insertBudget (b : Budget) : List Budget → List Budget
  | [] => [b]
  | x :: xs => if x.epoch < b.epoch then b :: x :: xs else if x.epoch = b.epoch then b :: xs else x :: insertBudget b xs

/-- A message joins a member's; of those of epochs that have ended only the latest is still of use. -/
def Member.take (m : Member) (b : Budget) (now : Nat) : Member :=
  let l := insertBudget b m.msgs
  let newer (x : Budget) : Bool := decide (now ≤ x.epoch)
  { m with msgs := l.takeWhile newer ++ (l.dropWhile newer).take 1 }

/-- BUDGET_MESSAGE: a member's message of an epoch, of this package's rack group (R263). -/
def execBudgetMessage (pkg epoch demand weight group : Nat) (s : State) : Result :=
  .next (let p := s.power
    if group ≠ p.rack.group ∨ weight = 0 then s
    else
      let m := (Tab.get {} p.members pkg).take { epoch, demand := clampDemand demand, weight } p.epoch
      { s with power := { p with members := Tab.insert pkg m p.members, silent := p.silent.filter (· != pkg) } })

end Sys2Proof.Machine
end

