-- ==== Sys2Proof/Machine/Hbm.lean ====
section
/-! DEFINITION. Reseals, patrol scrubs, retirement of locations, refresh and transfers of the HBM4E controllers (11 R298, R301-R320, 06 R175). -/

namespace Sys2Proof.Machine

/-! ### Shoot-down (06 R175, R180; 12 R333) -/

/-- Kick words in a frame are translated again after a shoot-down of it (R333). -/
def retranslateKicks (s : State) (frame : Nat) : State :=
  ((s.queues.filter fun p => p.2.en && (match p.2.kickPa with | some a => a / 4096 == frame | none => false)).map (·.1)).foldl (fun x key =>
    let r := kickTranslate x (key / 64) (x.queue key).ctx (x.queue key).kickva
    let q := r.1.queue key
    match r.2 with
    | .inr pa => r.1.setQueue key { q with kickPa := some pa }
    | .inl c => r.1.setQueue key { q with kickPa := none, kickFault := true, fault := c }) s

/-- Every replay and held access starts again (R180). -/
def replayAll (s : State) : State := (waitingPages s).foldl (fun x p => startReplays x p.1 p.2) s

/-- A shoot-down with what follows it. -/
def shootDownFrame (s : State) (frame : Nat) : State := replayAll (retranslateKicks (shootDown s frame) frame)

/-- Accesses to the frame that were translated and are not yet performed. -/
def frameInFlight (s : State) (frame : Nat) : Bool :=
  (s.flight.reqs.any fun r => r.pa / 4096 == frame)
    || (s.flight.stores.any fun x => !x.stage && x.pa / 4096 == frame)
    || (s.flight.atoms.any fun a => !a.stage && a.parts.any fun p => p.addr / 4096 == frame)

/-! ### Reseal (R306, R307) -/

/-- The slot's next data tile of a slice from local tile `lo` on: frames in the ownership table for a tenant's slot, any other for firmware's. -/
def nextOwned (s : State) (slot slice lo : Nat) : Option Nat :=
  s.sealing.owners.foldl (fun a p =>
    if slotOf p.2 = slot then
      [2 * p.1, 2 * p.1 + 1].foldl (fun b t =>
        if homeSlice t = slice ∧ lo ≤ localTile t ∧ localTile t < dataTiles then
          (match b with | none => some (localTile t) | some x => some (min x (localTile t)))
        else b) a
    else a) none

def scanOwned (s : State) (slot slice : Nat) : Nat → Nat → Option Nat
  | 0, _ => none
  | f + 1, lo => if dataTiles ≤ lo then none else if s.slotOfTile (tileAt slice lo) = slot then some lo else scanOwned s slot slice f (lo + 1)

def nextLocal (s : State) (slot slice lo : Nat) : Option Nat :=
  if slot = 129 then scanOwned s slot slice dataTiles lo else nextOwned s slot slice lo

/-- A reseal step's work at one tile; its charges go to the firmware account (R303). A tile whose GEN is already current is passed over, a
stalled one among them; a lost copy or an uncorrectable tile is handled by R310, a failing tag stops no context, for none requests it. -/
def resealStep (s : State) (t : Nat) : State :=
  let pay (x : State) (w : Nat) : State := charge x firmwareAccount w (memDomain (homeSlice t)) none
  let back (x : State) : State := (writeBack (pay x x.weights.ofBack) t).1
  let held := (s.mscTile? t).getD {}
  if s.poisoned t || (s.tileMeta t).gen == (s.keySlot (s.slotOfTile t)).cur then s
  else if held.dirty && held.bad then loseCopy s t held
  else if held.dirty then
    let y := back s
    if held.way = 16 then y.dropMscTile t
    else
      let kept := { held with dirty := false, stalled := false, soft := false }
      if held.soft then countWay (y.setMscTile t kept) t kept else y.setMscTile t kept
  else
    let y := countBursts (queueTransfer (pay s s.weights.ofFill) t false) t
    match fillCheck y t with
    | .ok => back (openTile y t)
    | .tagFail => tagFailure y t [] { code := 0 }
    | .poison => poisonTile y t 1 (chanOf t)

/-- RESEAL_TILE. -/
def execResealTile (slot slice : Nat) (s : State) : Result :=
  .next (let k := s.keySlot slot
    if !k.reseal || k.doneSlices.contains slice then s
    else match nextLocal s slot slice (Tab.get 0 k.cursor slice) with
      | some l =>
        let s1 := resealStep s (tileAt slice l)
        let k1 := s1.keySlot slot
        (s1.setKeySlot slot { k1 with cursor := Tab.set 0 slice (l + 1) k1.cursor }).post [.resealTile slot slice]
      | none =>
        let done := k.doneSlices ++ [slice]
        (s.setKeySlot slot { k with doneSlices := done }).post (if done.length = 16 then [.resealEnd slot] else []))

/-- RESEAL_END: the previous generation is destroyed; a tile that stalled meanwhile starts the next reseal (R306). -/
def execResealEnd (slot : Nat) (s : State) : Result :=
  .next (let k := s.keySlot slot
    if !k.reseal || k.doneSlices.length != 16 then s
    else
      let s1 := s.setKeySlot slot { k with prev := none, reseal := false, doneSlices := [], cursor := [], again := false }
      match s1.msc.tiles.find? fun p => p.2.stalled && s1.slotOfTile p.1 == slot with
      | some p => if k.again then startReseal s1 p.1 else s1
      | none => s1)

/-! ### Scrubs and soft errors (R318, R319) -/

/-- Local tiles of a slice. -/
def localTiles : Nat := 0x2800000

def execScrubPassStart (slice : Nat) (s : State) : Result :=
  .next { s with scrub := Tab.set {} slice { on := true, next := 0 } s.scrub }

/-- Corrected bursts of a scrub: rewritten in place and counted (R308, R318). -/
def scrubCorrected (s : State) (t n : Nat) : State :=
  let sl := homeSlice t
  let one (x : State) : State :=
    countFrame { x with sealing := { x.sealing with corrBursts := Tab.set 0 sl (Tab.get 0 x.sealing.corrBursts sl + 1) x.sealing.corrBursts } } (t / 2)
  (List.range n).foldl (fun x _ => one x) (s.setMeta t { s.tileMeta t with errs := [] })

/-- An uncorrectable burst found by a scrub (R309): rewritten from a good copy, or by its next write-back; else the tile is poisoned. What the
table calls counted is a correction and no uncorrectable event (log 77). -/
def scrubLost (s : State) (t : Nat) : State :=
  match s.mscTile? t with
  | some x =>
    if x.dirty then countFrame s (t / 2)
    else if x.bad then poisonTile (countWay s t x |>.dropMscTile t) t 1 (chanOf t)
    else scrubCorrected s t 1
  | none => poisonTile s t 1 (chanOf t)

/-- SCRUB_TILE: the burst code's result: 0 clean, 1 corrected, 2 uncorrectable, beside what is known of the tile's bursts. -/
def execScrubTile (slice result : Nat) (s : State) : Result :=
  .next (let p := Tab.get {} s.scrub slice
    if !p.on then s
    else
      let t := tileAt slice p.next
      let s1 := { s with scrub := Tab.set {} slice { on := decide (p.next + 1 < localTiles), next := p.next + 1 } s.scrub }
      let s2 := queueTransfer s1 t false
      let m := s.tileMeta t
      let n := (m.errs.filter fun e => !e.2).length + (if result = 1 then 1 else 0)
      if s.poisoned t then s2
      else if m.lost || result == 2 then scrubLost s2 t
      else if n = 0 then s2
      else scrubCorrected s2 t n)

/-- SOFT_ERROR_WINDOW: a window ends, the counts start again. -/
def execSoftErrorWindow (s : State) : Result :=
  .next { s with
    sealing := { s.sealing with window := s.sealing.window + 1, corrected := [], corrBursts := [], uncorrEvents := [] },
    islands := s.islands.map fun p => (p.1, { p.2 with corr := 0 }) }

/-- CLUSTER_RETIRE: a marked cluster with no resident context is retired, powered down, and reported (01 R16, 12 R330).
DESIGN CHOICE (log 84): the spec does not say whether it then leaves its partition; here it stays in Partition.clusters. -/
def execClusterRetire (cluster : Nat) (s : State) : Result :=
  .next (let i := s.island cluster
    if i.state = .marked ∧ emptyCluster s cluster then
      eventPost (s.setIsland cluster { i with state := .retired, bins := List.replicate 10 0, coll := List.replicate 10 0, claims := [],
                                              windows := [], begins := [], debt := 0 }) 6
        (leBytes cluster 2 ++ leBytes i.reason 1)
    else s)

/-- WEAR_MONITOR_UPDATE (R320). -/
def execWearMonitorUpdate (cluster hours : Nat) (s : State) : Result :=
  .next (let i := s.island cluster
    let s1 := s.setIsland cluster { i with life := hours % 2^32 }
    if hours % 2^32 < 168 ∧ i.state = .enabled then
      (eventPost (s1.setIsland cluster { s1.island cluster with state := .marked, reason := 0 }) 4 (leBytes cluster 2 ++ leBytes hours 4)).post [.clusterRetire cluster]
    else s1)

/-- POISONED_FRAME_RETIRE: shoot-down, and owner 0 for good; also for a frame that reached three corrections (R311, R318). -/
def execPoisonedFrameRetire (frame : Nat) (s : State) : Result :=
  .next (if (s.poisoned (2 * frame) || s.poisoned (2 * frame + 1) || s.sealing.migrate.contains frame) && !frameInFlight s frame then
      let s1 := freeze (freeze (shootDownFrame s frame) (2 * frame)) (2 * frame + 1)
      let drop := (s1.dropMscTile (2 * frame)).dropMscTile (2 * frame + 1)
      { drop with sealing := { drop.sealing with
          owners := Tab.erase frame drop.sealing.owners, retired := drop.sealing.retired ++ [frame],
          migrate := drop.sealing.migrate.filter (· != frame),
          poison := Tab.erase (2 * frame) (Tab.erase (2 * frame + 1) drop.sealing.poison) } }
    else s)

/-- FW_SRAM_UNCORRECTABLE (13 R351): the processor halts; the event confines to the device, with an incident of core SRAM. -/
def execFwSramUncorrectable (proc : Nat) (s : State) : Result :=
  .next (let inc := s.sealing.incidents + 1
    let s1 := s.setProc proc { s.proc proc with halted := true }
    let s2 := { s1 with sealing := { s1.sealing with incidents := inc }, fwIssue := s1.fwIssue.filter (· != proc) }
    let s3 := eventPost s2 2 (incidentBytes inc 0 0 4 3 (gradeB 0x060) 0xFF 0xFFFF 0xFF)
    confineDevice s3 0x060 inc)

/-! ### HBM4E transfers and refresh (R314-R316); `cycle` is the controller's, in the step a round of the islands (log 41) -/

/-- A burst of a tile as it stands in its stack: byte 64 × n of the row's 2 KiB (R294). -/
def burstOf (s : State) (t n : Nat) : List Byte := ((storedBursts s t).drop (64 * n)).take 64

def State.reach (s : State) (pc cycle : Nat) : State := s.setPchan pc ((s.pchan pc).reach cycle)

/-- TRANSFER_ACTIVATE: the oldest queued transfer whose bank is free and whose data finds the bus free (R315). -/
def execTransferActivate (pc cycle : Nat) (s : State) : Result :=
  .next (let s1 := s.reach pc cycle
    let p := s1.pchan pc
    if p.post = 8 ∨ p.refab.isSome ∨ cycle + 40 < p.busFree then s1
    else match p.queue.find? fun x => !p.bankBusy (bankOf x.tile) cycle with
      | none => s1
      | some x =>
        let free := cycle + (if x.write then 124 else 104)
        setFetch (s1.setPchan pc ({ p with queue := p.queue.erase x, busFree := cycle + 104, active := p.active ++ [(x.tile, free)],
                                           lastBusy := some cycle }.setBank (bankOf x.tile) free)) x.rid (.back (cycle + 104 + s.msc.trail)))

/-- TILE_TRANSFER_COMPLETE: the bank's transfer has ended. -/
def execTileTransferComplete (pc bank cycle : Nat) (s : State) : Result :=
  .next (let p := s.pchan pc
    match p.active.find? fun a => bankOf a.1 == bank && decide (a.2 ≤ cycle) with
    | none => s
    | some a => s.setPchan pc { p with active := p.active.erase a, lastBusy := some (max (p.lastBusy.getD 0) a.2) })

/-- Requests whose cycle of arrival has come join the queues, before that cycle's due events (R316). -/
def arriveFills (s : State) : State :=
  (s.flight.reqs.filter fun r => match r.fetch with | .comes c => decide (c ≤ s.msc.cycle) | _ => false).foldl (fun x r =>
    let t := tileOf r.pa
    let p := (x.pchan (chanOf t)).reach (x.msc.cycle - 1)
    setFetch (x.setPchan (chanOf t) { p with queue := p.queue ++ [{ tile := t, arrived := x.msc.cycle, rid := r.id }] }) r.id .queued) s

/-- Loads whose transfer's data have reached the core by the end of the cycle before: they are served, and with them those that wait for the
same tile. -/
def returnFills (s : State) : State :=
  let back := s.flight.reqs.filter fun r => match r.fetch with | .back c => decide (c < s.msc.cycle) | _ => false
  let s1 := back.foldl (fun x r => setFetch x r.id .here) s
  s1.post ((back ++ s.flight.reqs.filter fun r => !back.contains r && back.any fun b => tileOf b.pa == tileOf r.pa).map fun r => .mscServe r.id)

/-- A pseudo-channel where refresh may have something to do before its next due event. -/
def PChan.stirs (p : PChan) : Bool := p.post != 0 || !p.pending.isEmpty || p.refab.isSome || !p.queue.isEmpty || !p.active.isEmpty

/-- The controllers' events of a cycle: transfers that end, due events and refresh commands, activates (R316). -/
def chanDue (s : State) : List Instr :=
  let c := s.msc.cycle
  (s.hbm.flatMap fun p => (p.2.active.filter fun a => decide (a.2 ≤ c)).map fun a => .tileTransferComplete p.1 (bankOf a.1) c)
    ++ (if c ≠ 0 ∧ c % 341 = 0 then (List.range 1024).map (.refreshDue · c) else (s.hbm.filter fun p => p.2.stirs).map fun p => .refreshDue p.1 c)
    ++ ((s.hbm.filter fun p => !p.2.queue.isEmpty).map fun p => .transferActivate p.1 c)

/-- REFRESH_DUE, PSEUDO_CHANNEL_IDLE, REFPB_ISSUE, REFAB_ISSUE, REFAB_END: what refresh does up to the cycle. A due event falls in every 341st
cycle and in no other. -/
def execRefreshDue (pc cycle : Nat) (s : State) : Result := .next (s.reach pc cycle)
def execPseudoChannelIdle (pc cycle : Nat) (s : State) : Result := .next (s.reach pc cycle)
def execRefpbIssue (pc cycle : Nat) (s : State) : Result := .next (s.reach pc cycle)
def execRefabIssue (pc cycle : Nat) (s : State) : Result := .next (s.reach pc cycle)
def execRefabEnd (pc cycle : Nat) (s : State) : Result := .next (s.reach pc cycle)

end Sys2Proof.Machine
end

