-- ==== Sys2Proof/Machine/Host.lean ====
section
/-! DEFINITION. The host attachment: mailbox commands, queue records and kicks, registers, the survey window, CXL.mem requests, TDISP
states, link loss, device reset (12 R321-R350, 00 R7, 06 R167, R175, R180, 09 R247-R249, R256). -/

namespace Sys2Proof.Machine

/-! ### The PF mailbox (R326, R327) -/

def reqField (s : State) (lo n : Nat) : Nat := fieldAt s.host.req lo n

/-- Event that serves the request in the mailbox. -/
def mailEvent (s : State) : Instr :=
  let op (n : Nat) : Nat := reqField s n 1
  match op 0 with
  | 0x01 => if reqField s 4 4 = 0xFFFFFFFF then .contextCreate else .contextRewrite
  | 0x02 => .bucketDeposit
  | 0x03 => if (op 8).testBit 0 then .bucketCapWrite else if (op 8).testBit 1 then .bucketShareWrite else .bucketRead
  | 0x04 => .setAllow
  | 0x05 => .wayMaskWrite
  | 0x06 => if op 5 = 1 then .hdmMove else if op 5 = 2 then .hdmClear else .hdmBind
  | 0x07 => if op 4 = 1 then .setRackCap else .setSustainedLimit
  | 0x08 => .meterRecordRequest
  | 0x09 => .streamOutOrder
  | 0x0A => if op 4 = 1 then (if op 5 = 0 then .deviceDrainClear else .deviceDrainSet)
            else if op 5 = 0 then .vdDrainClear else .vdDrainSet
  | 0x0B => if op 16 = 1 then .pageInvalid else .pageResume
  | 0x0C => .frameOwnerChange
  | 0x0D => if op 4 = 1 then .partitionDestroy else .partitionCreate
  | 0x0E => if op 5 = 0xFF then .vdDetach else .vdAttach
  | 0x0F => if op 4 = 1 then .importClear else .importWrite
  | 0x10 => .contextDestroy
  | 0x11 => if (op 18).testBit 0 then .eventRingEnable else .eventRingDisable
  | _ => .mailboxUnknownCommand

/-- The status word and the result are written, then the doorbell is cleared (R326). -/
def mailDone (s : State) (status reason : Nat) (result : List Byte) : State :=
  { s with host := { s.host with status := BitVec.ofNat 64 (status + 2^16 * reqField s 2 2 + 2^32 * reason), result := sized 56 result,
                                 doorbell := false } }

/-- Byte 1, or a parameter byte that R327 leaves out, is not zero. -/
def mailMalformed (s : State) (used : List (Nat × Nat)) : Bool :=
  (List.range 64).any fun i => (i == 1 || (decide (4 ≤ i) && !(used.any fun u => decide (u.1 ≤ i) && decide (i < u.1 + u.2))))
    && reqField s i 1 != 0

/-- How a command ends: refused, with the state after it and the reason, or done with a result. -/
abbrev Answer := Sum (State × Nat) (State × List Byte)

def bit (b : Bool) : Nat := if b then 1 else 0

/-- Serves the request in the mailbox with `f` where `mine` says that it is the event's command. -/
def mail (mine : Bool) (used : List (Nat × Nat)) (f : State → Answer) (s : State) : State :=
  if !s.host.doorbell || !mine then s
  else if mailMalformed s used then mailDone s 1 1 []
  else match f s with
    | .inl r => mailDone r.1 1 r.2 []
    | .inr r => mailDone r.1 0 0 r.2

/-- The first reason of a list that applies, in the order given. -/
def firstReason (l : List (Bool × Nat)) : Option Nat := (l.find? (·.1)).map (·.2)

/-- A command that is refused for the first reason that applies, else done by `f`. -/
def checked (l : List (Bool × Nat)) (f : State → State × List Byte) (s : State) : Answer :=
  match firstReason l with
  | some r => .inl (s, r)
  | none => .inr (f s)

/-- The request is for this event. -/
def mineIs (s : State) (i : Instr) : Bool := mailEvent s == i

/-! ### Contexts and buckets (R328, 10 R266, 09 R247-R249) -/

/-- The range lies wholly in usable frames owned by firmware. -/
def firmwareRange (s : State) (pa pages : Nat) : Bool :=
  decide (pa + 4096 * pages ≤ 0x013D80000000)
    && s.sealing.owners.all fun p => !(decide (pa / 4096 ≤ p.1) && decide (p.1 < pa / 4096 + pages)) || p.2.owner == 0

/-- The partition has an aligned block of four clusters. -/
def alignedBlock (p : Partition) : Bool := p.clusters.any fun c => c % 4 == 0 && [1, 2, 3].all fun j => p.clusters.contains (c + j)

def lifeForbids (s : State) : Bool := s.sec.life == .manufacturing || s.sec.life == .decommissioned

/-- Number of the context that a context command names, where it exists. -/
def known (s : State) (n : Nat) : Bool := (s.ctx n).used

/-- Lowest context number that is free. -/
def freeContext (s : State) : Option Nat :=
  ((List.range 65535).map (· + 1)).find? fun n => !((s.ctx n).used || (s.ctx n).destroyed)

/-- Reasons of R266 and R328 for a record, lowest first; `new` for a create. -/
def recordReasons (s : State) (new : Bool) : List (Bool × Nat) :=
  let n := reqField s 4 4
  let root := reqField s 8 8
  let save := reqField s 16 8
  let pages := reqField s 24 3
  let vd := reqField s 27 1
  let part := (s.vd vd).part
  let gone := !new && !(known s n && (s.ctx n).vd == vd)
  [(root % 4096 != 0 || decide (2^52 ≤ root) || save % 4096 != 0 || decide (pages < 9) || decide (63 < vd) || decide (1 < reqField s 28 1), 1),
   (!firmwareRange s save pages || part.isNone || (reqField s 28 1 == 1 && !alignedBlock (s.part (part.getD 0)))
      || (!new && known s n && s.cores.any fun c => s.resident c.1 n), 2),
   (gone, 3),
   (new && (freeContext s).isNone, 4)]

def recordParams : List (Nat × Nat) := [(4, 25)]

/-- The fields of the record that a request gives. -/
def recordOf (s : State) (x : Context) : Context :=
  { x with root := reqField s 8 8, save := reqField s 16 8, pages := reqField s 24 3, vd := reqField s 27 1, joint := reqField s 28 1 == 1 }

def execContextCreate (s : State) : Result :=
  .next (mail (mineIs s .contextCreate) recordParams (fun s => checked (recordReasons s true) (fun s =>
    let n := (freeContext s).getD 0
    ((s.setCtx n { recordOf s {} with used := true, part := ((s.vd (reqField s 27 1)).part).getD 0 }).setAcct n {}, leBytes n 4)) s) s)

def execContextRewrite (s : State) : Result :=
  .next (mail (mineIs s .contextRewrite) recordParams (fun s => checked (recordReasons s false) (fun s =>
    let n := reqField s 4 4
    (s.setCtx n (recordOf s (s.ctx n)), leBytes n 4)) s) s)

/-- A context leaves nothing behind that forbids its end (R328). -/
def contextBusy (s : State) (n : Nat) : Bool :=
  !(s.runsOf n).isEmpty || !(s.crewsOf n).isEmpty || (s.queues.any fun p => p.2.ctx == n && !p.2.pend.isEmpty)
    || s.cores.any fun p => p.2.sideLog.any fun e => e.ctx == n

def execContextDestroy (s : State) : Result :=
  .next (mail (mineIs s .contextDestroy) [(4, 4)] (fun s =>
    let n := reqField s 4 4
    checked [(known s n && contextBusy s n, 2), (!known s n, 3)] (fun s =>
      ((s.setCtx n { s.ctx n with used := false, destroyed := true }).setAcct n { s.acct n with closing := true }, [])) s) s)

/-- Deposit (09 R249): LEVEL, and the part that did not fit. -/
def deposit (s : State) (n amount : Nat) : State × Nat :=
  let x := s.ctx n
  let sum := x.level + amount
  let s1 := s.setCtx n { x with level := min sum x.cap }
  ((retryLeases s1 n).post [.dispatch x.part], (max 0 (sum - x.cap)).toNat)

def execBucketDeposit (s : State) : Result :=
  .next (mail (mineIs s .bucketDeposit) [(4, 12)] (fun s =>
    let n := reqField s 4 4
    let a := reqField s 8 8
    checked [(a == 0 || decide (2^62 < a), 1), (!known s n, 3)] (fun s =>
      let r := deposit s n a
      (r.1, leBytes r.2 8 ++ int64Bytes (r.1.ctx n).level)) s) s)

/-- DRY of a bucket (09 R248). -/
def bucketDry (s : State) (n : Nat) : Bool := decide ((s.ctx n).level ≤ 0) && s.cores.any fun c => s.resident c.1 n && s.dry c.1 n

/-- The 32 bytes of a bucket as R248 lays it out. -/
def bucketBytes (s : State) (n : Nat) : List Byte :=
  let x := s.ctx n
  sized 32 (int64Bytes x.level ++ leBytes x.cap 8 ++ leBytes x.share 1 ++ leBytes (bit (bucketDry s n)) 1)

/-- Command 0x03: writes CAP with bit 0 and SHARE with bit 1; answers the bucket up to SHARE, for R327 lists no byte with DRY. -/
def bucketCommand (s : State) : Answer :=
  let n := reqField s 4 4
  let which := reqField s 8 1
  let cap := reqField s 16 8
  let share := reqField s 24 1
  checked [(decide (3 < which) || (which.testBit 0 && decide (2^62 < cap)) || (which.testBit 1 && share == 0), 1), (!known s n, 3)] (fun s =>
    let x := s.ctx n
    let y := if which.testBit 0 then { x with cap, level := min x.level cap } else x
    let z := if which.testBit 1 then { y with share } else y
    let s1 := s.setCtx n z
    (s1, (bucketBytes s1 n).take 17)) s

def bucketParams : List (Nat × Nat) := [(4, 5), (16, 9)]

def execBucketCapWrite (s : State) : Result :=
  .next (mail (reqField s 0 1 == 3 && (reqField s 8 1).testBit 0) bucketParams bucketCommand s)
def execBucketShareWrite (s : State) : Result :=
  .next (mail (reqField s 0 1 == 3 && (reqField s 8 1).testBit 1) bucketParams bucketCommand s)
def execBucketRead (s : State) : Result := .next (mail (mineIs s .bucketRead) bucketParams bucketCommand s)

/-! ### Points, way masks, limits -/

/-- SET_ALLOW (09 R256): REQ moves to the highest permitted point below it, or the lowest above. -/
def execSetAllow (s : State) : Result :=
  .next (mail (mineIs s .setAllow) [(4, 4)] (fun s =>
    let c := reqField s 4 2
    let a : BitVec 16 := BitVec.ofNat 16 (reqField s 6 2)
    checked [(decide (255 < c) || a == 0, 1)] (fun s =>
      let i := s.island c
      (movePoint (s.setIsland c { i with allow := a, req := permittedAt a i.req }) c, [])) s) s)

def execWayMaskWrite (s : State) : Result :=
  .next (mail (mineIs s .wayMaskWrite) [(4, 2), (8, 8)] (fun s =>
    let vd := reqField s 4 1
    let cls := reqField s 5 1
    let m := reqField s 8 8
    checked [(decide (63 < vd) || decide (3 < cls) || decide (2^48 ≤ m), 1)] (fun s =>
      ({ s with msc := { s.msc with masks := Tab.set 0x0000FFFFFFFFFFFF (4 * vd + cls) (BitVec.ofNat 64 m) s.msc.masks } }, [])) s) s)

/-- Parameters of command 0x07. -/
def limitParams : List (Nat × Nat) := [(4, 1), (6, 9)]

def execSetSustainedLimit (s : State) : Result :=
  .next (mail (mineIs s .setSustainedLimit) limitParams (fun s =>
    let w := reqField s 6 2
    checked [(reqField s 4 1 != 0 || decide (w < 1200) || decide (3000 < w) || w % 25 != 0, 1)] (fun s =>
      ({ s with power := { s.power with suslim := w } }, [])) s) s)

def execSetRackCap (s : State) : Result :=
  .next (mail (mineIs s .setRackCap) limitParams (fun s =>
    checked [(reqField s 14 1 == 0, 1)] (fun s =>
      let rack : RackCap := { cap := reqField s 6 2, group := reqField s 8 2, weight := reqField s 14 1 }
      ({ s with power := { s.power with nextRack := some (reqField s 10 4, rack) } }, [])) s) s)

/-! ### Meter records (R328, 09 R261) -/

def execMeterRecordRequest (s : State) : Result :=
  .next (mail (mineIs s .meterRecordRequest) [(4, 6), (12, 12)] (fun s =>
    let n := reqField s 4 4
    let other := n == 0xFFFFFFFF
    let kind := reqField s 8 1
    let which := reqField s 9 1
    let a := reqField s 16 8
    let acct := if other then (if kind = 0 then vdAccount which else if kind = 1 then partAccount which else firmwareAccount) else n
    checked [(a % 64 != 0 || decide (2^48 ≤ a) || (other && (decide (2 < kind) || (kind != 2 && decide (63 < which)))), 1),
             ((!other && !known s n) || (other && kind == 1 && !(s.part which).used), 3)] (fun s =>
      let r := meterRecord s acct (reqField s 12 4) false
      (r.1.writeBytes (hostPa a) r.2, leBytes (r.1.acct acct).seq 8)) s) s)

/-! ### Stream-out orders and drains (10 R278, R282; R349) -/

def execStreamOutOrder (s : State) : Result :=
  .next (mail (mineIs s .streamOutOrder) [(4, 6)] (fun s =>
    let n := reqField s 4 4
    let core := reqField s 8 2
    let every := core == 0xFFFF
    checked [(!every && decide (511 < core), 1), (!known s n, 3)] (fun s =>
      let s1 := if every then (s.runsOf n).foldl keepRun s else s
      let out := (s1.crewsOf n).filter fun k =>
        (every || (s1.crew k).cores.contains core) && ((s1.crew k).phase == .running || (s1.crew k).phase == .staging)
      (s1.post (out.map Instr.streamOut), [])) s) s)

/-- A drain stands over a VD, or the device has failed (R349, 11 R310). -/
def drainStands (s : State) (vd : Nat) : Bool := (s.vd vd).drainSet || s.host.drainSet || s.host.failed

def queuesOfVd (vd : Nat) : List Nat := (List.range 64).map (64 * vd + ·)

/-- DRAIN written to queues; RESUME written to queues, dropped while a drain stands. -/
def drainQueues (s : State) (ks : List Nat) : State := { s with queues := Tab.setMany {} ks (fun k => drainQueue (s.queue k)) s.queues }
def resumeQueues (s : State) (ks : List Nat) : State :=
  let go := ks.filter fun k => !drainStands s (k / 64) && (s.queue k).state != .running
  let s1 := { s with queues := Tab.setMany {} go (fun k => { s.queue k with state := .running }) s.queues }
  s1.post ((go.filter fun k => (s.queue k).en).map fun k => .fetchSlot (k / 64) (k % 64))

/-- Parameters of command 0x0A. -/
def drainParams : List (Nat × Nat) := [(4, 3)]
def drainReasons (s : State) : List (Bool × Nat) :=
  [(decide (1 < reqField s 4 1) || decide (1 < reqField s 5 1) || decide (63 < reqField s 6 1), 1)]

def execVdDrainSet (s : State) : Result :=
  .next (mail (mineIs s .vdDrainSet) drainParams (fun s => checked (drainReasons s) (fun s =>
    let v := reqField s 6 1
    (drainQueues (s.setVd v { s.vd v with drainSet := true }) (queuesOfVd v), [])) s) s)
def execVdDrainClear (s : State) : Result :=
  .next (mail (mineIs s .vdDrainClear) drainParams (fun s => checked (drainReasons s) (fun s =>
    let v := reqField s 6 1
    (resumeQueues (s.setVd v { s.vd v with drainSet := false }) (queuesOfVd v), [])) s) s)
def execDeviceDrainSet (s : State) : Result :=
  .next (mail (mineIs s .deviceDrainSet) drainParams (fun s => checked (drainReasons s) (fun s =>
    (drainQueues { s with host := { s.host with drainSet := true } } (List.range 4096), [])) s) s)
def execDeviceDrainClear (s : State) : Result :=
  .next (mail (mineIs s .deviceDrainClear) drainParams (fun s => checked (drainReasons s) (fun s =>
    (resumeQueues { s with host := { s.host with drainSet := false } } (List.range 4096), [])) s) s)

/-! ### Pages (06 R156, R180, R186, R188; 12 R333; 14 R371) -/

/-- Copies of a context that wait for the page go on. -/
def resumeCopies (s : State) (ctx page : Nat) : State :=
  let waits (e : CEntry) : Bool := e.ctx == ctx && e.page == some page
  let hit := (s.cores.filter fun p => p.2.cq.any waits).map (·.1)
  let clear (p : Nat × Core) : Nat × Core := (p.1, { p.2 with cq := p.2.cq.map fun e => if waits e then { e with page := none } else e })
  State.post { s with cores := s.cores.map clear } (hit.map Instr.copyComplete)

/-- Convoys whose fetch waits for the page fetch again. -/
def resumeFetches (s : State) (ctx page : Nat) : State :=
  let clear (p : Nat × Convoy) : Nat × Convoy :=
    match p.2.hold with
    | .fetch va => if va / 4096 = page ∧ (s.crew p.2.crew).ctx = ctx then (p.1, { p.2 with hold := .none }) else p
    | _ => p
  { s with convoys := s.convoys.map clear }

/-- Queues of the context whose ring read or completion write waits for the page go on. -/
def resumeQueuePages (s : State) (ctx page : Nat) : State :=
  let clear (p : Option Nat) : Option Nat := if p = some page then none else p
  ((s.queues.filter fun p => p.2.ctx == ctx && (p.2.waitPage == some page || p.2.recPage == some page)).map (·.1)).foldl (fun x key =>
    let q := { x.queue key with waitPage := clear (x.queue key).waitPage, recPage := clear (x.queue key).recPage }
    (if q.recPage.isSome then x.setQueue key q else flushRecords key q.records.length (x.setQueue key q)).post
      [.fetchSlot (key / 64) (key % 64), .fetchRetry (key / 64) (key % 64)]) s

/-- Crews whose staging or write-back waits for the page go on. -/
def resumeCrews (s : State) (ctx page : Nat) : State :=
  ((s.crews.filter fun p => p.2.ctx == ctx && p.2.waitPage == some page).map (·.1)).foldl (fun x k =>
    (x.setCrew k { x.crew k with waitPage := none }).post [.crewStart k, .regionWriteback k]) s

/-- Everything of a context that waits for a page starts again. -/
def resumePage (s : State) (ctx page : Nat) : State :=
  let x := s.ctx ctx
  let s1 := s.setCtx ctx { x with pages_ := x.pages_.filter fun p => p.1 != page }
  let s2 := resumeCrews (resumeQueuePages (resumeFetches (resumeCopies (startReplays s1 ctx page) ctx page) ctx page) ctx page) ctx page
  s2.post ([.eventWaitEval x.part, .dispatch x.part] ++ (s2.runsOf ctx).map Instr.runComplete)

def pageParams : List (Nat × Nat) := [(4, 13)]
def pageReasons (s : State) : List (Bool × Nat) :=
  [(reqField s 8 8 % 4096 != 0 || decide (1 < reqField s 16 1), 1), (!known s (reqField s 4 4), 3)]

def execPageResume (s : State) : Result :=
  .next (mail (mineIs s .pageResume) pageParams (fun s => checked (pageReasons s) (fun s =>
    (resumePage s (reqField s 4 4) (reqField s 8 8 / 4096), [])) s) s)

/-- Transfers of a context that wait for a page end without it: OCC and TXBYTES fall, the elements left are not moved (06 R186). -/
def endCopies (s : State) (ctx page : Nat) : State :=
  (s.cores.flatMap fun p => (p.2.cq.filter fun e => e.ctx == ctx && e.started.isSome && e.page == some page).map fun e => (p.1, e)).foldl
    (fun x p => copyFinish x p.1 p.2) s

/-- PAGE_INVALID (10 R287): the context stops with PAGE_NOT_PRESENT. -/
def execPageInvalid (s : State) : Result :=
  .next (mail (mineIs s .pageInvalid) pageParams (fun s => checked (pageReasons s) (fun s =>
    let n := reqField s 4 4
    let x := s.ctx n
    let s1 := s.setCtx n { x with pages_ := x.pages_.filter fun p => p.1 != reqField s 8 8 / 4096 }
    (contextFault (endCopies s1 n (reqField s 8 8 / 4096)) n { code := gradeD 0x020, traddr := reqField s 8 8 }, [])) s) s)

/-! ### Frame owners (06 R175, R176; 11 R298) -/

def frameParams : List (Nat × Nat) := [(8, 15)]

/-- Frames of the request whose owner changes. -/
def framesOf (s : State) : List Nat :=
  ((List.range (reqField s 16 4)).map (reqField s 8 8 / 4096 + ·)).filter fun f => (s.ownerOf f).owner != reqField s 20 2

/-- One frame: shoot-down, the owner's change, zeros in both tiles under the new owner's generation, charged to nothing (11 R298, R303). -/
def changeOwner (owner part : Nat) (s : State) (f : Nat) : State :=
  let s1 := shootDownFrame s f
  let s2 := (s1.dropMscTile (2 * f)).dropMscTile (2 * f + 1)
  let s3 := { s2 with sealing := { s2.sealing with owners := Tab.set {} f { owner, part } s2.sealing.owners },
                      mem := Tab.clearRun (4096 * f) 4096 s2.mem }
  [2 * f, 2 * f + 1].foldl (fun x t => if x.poisoned t then x else (writeBackTile x t).1) s3

def frameReasons (s : State) : List (Bool × Nat) :=
  let pa := reqField s 8 8
  let n := reqField s 16 4
  let owner := reqField s 20 2
  let part := reqField s 22 1
  [(pa % 4096 != 0 || decide (0x013D80000000 < pa + 4096 * n) || decide (63 < part) || (owner != 0xFFFE && part != 0), 1),
   (s.sealing.retired.any fun f => decide (pa / 4096 ≤ f) && decide (f < pa / 4096 + n), 2),
   (owner == 0xFFFE && !(s.part part).used, 3)]

/-- FRAME_OWNER_CHANGE: done once every access translated before the shoot-down has been performed. -/
def execFrameOwnerChange (s : State) : Result :=
  .next (if s.host.doorbell && mineIs s .frameOwnerChange && !mailMalformed s frameParams && (firstReason (frameReasons s)).isNone
        && (framesOf s).any (frameInFlight s) then (framesOf s).foldl shootDown s
    else mail (mineIs s .frameOwnerChange) frameParams (fun s => checked (frameReasons s) (fun s =>
      ((framesOf s).foldl (changeOwner (reqField s 20 2) (reqField s 22 1)) s, [])) s) s)

/-! ### Partitions and VDs (R328) -/

def partParams : List (Nat × Nat) := [(4, 2), (8, 32)]

def maskClusters (s : State) : List Nat := (List.range 256).filter fun c => (reqField s 8 32).testBit c

def execPartitionCreate (s : State) : Result :=
  .next (mail (mineIs s .partitionCreate) partParams (fun s =>
    let p := reqField s 5 1
    let cs := maskClusters s
    checked [(decide (1 < reqField s 4 1) || decide (63 < p) || cs.isEmpty, 1),
             ((s.part p).used || cs.any fun c => (s.island c).state != .enabled || (partOfCluster s c).isSome, 2)] (fun s =>
      (cs.foldl (fun x c => movePoint (x.setIsland c { x.island c with req := 12, allow := 0xFFFF }) c) (s.setPart p { used := true, clusters := cs }), [])) s) s)

def execPartitionDestroy (s : State) : Result :=
  .next (mail (mineIs s .partitionDestroy) partParams (fun s =>
    let p := reqField s 5 1
    checked [(decide (63 < p), 1),
             ((s.part p).used && ((s.vds.any fun v => v.2.part == some p) || s.sealing.owners.any fun o => o.2.owner == 0xFFFE && o.2.part == p), 2),
             (!(s.part p).used, 3)] (fun s => (s.setPart p {}, [])) s) s)

/-- The VD is locked (R331). -/
def Vd.locked (v : Vd) : Bool := v.tstate == .locked || v.tstate == .run

def attachReasons (s : State) (attach : Bool) : List (Bool × Nat) :=
  let v := reqField s 4 1
  let p := reqField s 5 1
  [(decide (63 < v) || (attach && decide (63 < p)), 1),
   ((s.vd v).locked || (s.ctxs.any fun c => c.2.used && c.2.vd == v) || ((s.vd v).part.isSome == attach) || (attach && lifeForbids s), 2),
   (attach && !(s.part p).used, 3)]

def execVdAttach (s : State) : Result :=
  .next (mail (mineIs s .vdAttach) [(4, 2)] (fun s => checked (attachReasons s true) (fun s =>
    let v := reqField s 4 1
    (s.setVd v { s.vd v with part := some (reqField s 5 1) }, [])) s) s)
def execVdDetach (s : State) : Result :=
  .next (mail (mineIs s .vdDetach) [(4, 2)] (fun s => checked (attachReasons s false) (fun s =>
    let v := reqField s 4 1
    (s.setVd v { s.vd v with part := none }, [])) s) s)

/-! ### HDM windows (R322, R328, R331) -/

def hdmParams : List (Nat × Nat) := [(4, 3), (8, 16)]

def hdmOf (s : State) (w : Nat) : Hdm := Tab.get {} s.host.hdm w
def setHdm (s : State) (w : Nat) (h : Hdm) : State := { s with host := { s.host with hdm := Tab.set {} w h s.host.hdm } }

/-- REFUSED rises, saturating (R331). -/
def countRefused (s : State) (v : Nat) : State :=
  let x := s.vd v
  s.setVd v { x with refused := min 0xFFFF (x.refused + 1) }

/-- Window, VD, base or length outside its range, or a frame outside usable device memory. -/
def hdmBad (s : State) : Bool :=
  decide (63 < reqField s 4 1) || decide (63 < reqField s 6 1) || decide (2 < reqField s 5 1) || reqField s 8 8 % 0x10000000 != 0
    || reqField s 16 8 % 0x10000000 != 0 || decide (0x013D80000000 < reqField s 8 8 + reqField s 16 8)

/-- A change of a window of VD `v`, refused while the VD is locked. -/
def hdmChange (l : List (Bool × Nat)) (v : Nat) (h : Hdm) (s : State) : Answer :=
  match firstReason l with
  | some r => .inl (s, r)
  | none => if (s.vd v).locked then .inl (countRefused s v, 2) else .inr (setHdm s (reqField s 4 1) h, [])

/-- The window that a bind or a move gives. -/
def hdmNew (s : State) : Hdm := { used := true, vd := reqField s 6 1, base := reqField s 8 8, len := reqField s 16 8 }

def execHdmBind (s : State) : Result :=
  .next (mail (mineIs s .hdmBind) hdmParams (fun s =>
    hdmChange [(hdmBad s, 1), ((hdmOf s (reqField s 4 1)).used, 2)] (reqField s 6 1) (hdmNew s) s) s)
def execHdmMove (s : State) : Result :=
  .next (mail (mineIs s .hdmMove) hdmParams (fun s =>
    let h := hdmOf s (reqField s 4 1)
    hdmChange [(hdmBad s, 1), (!h.used || h.vd != reqField s 6 1, 3)] h.vd (hdmNew s) s) s)
def execHdmClear (s : State) : Result :=
  .next (mail (mineIs s .hdmClear) hdmParams (fun s =>
    let h := hdmOf s (reqField s 4 1)
    hdmChange [(hdmBad s, 1), (!h.used, 3)] h.vd {} s) s)

/-- HOST_MEM_REQUEST: a CXL.mem request at offset addr % 2^48 of window addr / 2^48: with `write` 0 a read of the 64-byte line, else a
write of that many bytes of the line (R322, 06 R177). -/
def execHostMemRequest (addr write val : Nat) (s : State) : Result :=
  .next (let h := hdmOf s (addr / 2^48)
    let off := if write = 0 then addr % 2^48 / 64 * 64 else addr % 2^48
    let answer (x : State) (e : Bool) (d : Nat) : State := { x with host := { x.host with answer := some (e, BitVec.ofNat 512 d) } }
    if !h.used || decide (h.len ≤ off) || decide (64 ≤ addr / 2^48) then answer s true 0
    else
      let pa := h.base + off
      let r := sliceAccess s { pa, kind := if write = 0 then 0 else 1, cls := 2, vd := h.vd, acct := vdAccount h.vd }
      match r.2 with
      | .ok => if write = 0 then answer r.1 false (r.1.readNat pa 64) else answer (r.1.writeBytes pa (leBytes val (min write (64 - pa % 64)))) false 0
      | _ => answer r.1 true 0)

/-! ### The import table and the event ring (R328, R329, 13 R369) -/

def importParams : List (Nat × Nat) := [(4, 3), (8, 2)]
def setImport (s : State) (v : Nat) : State :=
  { s with fabric := { s.fabric with imports := Tab.set 0 (64 * reqField s 5 1 + reqField s 6 1) v s.fabric.imports } }

def execImportWrite (s : State) : Result :=
  .next (mail (mineIs s .importWrite) importParams (fun s =>
    let o := reqField s 8 2
    checked [(decide (1 < reqField s 4 1) || decide (63 < reqField s 6 1) || o == 0 || (decide (64 < o) && decide (o < 0xFFFE)), 1)] (fun s =>
      (setImport s o, [])) s) s)
def execImportClear (s : State) : Result :=
  .next (mail (mineIs s .importClear) importParams (fun s =>
    checked [(decide (63 < reqField s 6 1), 1)] (fun s => (setImport s 0, [])) s) s)

def ringParams : List (Nat × Nat) := [(8, 11)]
def ringReasons (s : State) : List (Bool × Nat) :=
  [(reqField s 8 8 % 4096 != 0 || decide (2^48 ≤ reqField s 8 8) || decide (12 < reqField s 16 1) || decide (7 < reqField s 17 1)
     || decide (1 < reqField s 18 1), 1)]

def execEventRingEnable (s : State) : Result :=
  .next (mail (mineIs s .eventRingEnable) ringParams (fun s => checked (ringReasons s) (fun s =>
    let s1 := { s with host := { s.host with ringBase := reqField s 8 8, ringSize := reqField s 16 1, ringVector := reqField s 17 1,
                                             ringOn := true, slots := [] } }
    (flushEvents s1.host.kept.length s1, [])) s) s)
def execEventRingDisable (s : State) : Result :=
  .next (mail (mineIs s .eventRingDisable) ringParams (fun s => checked (ringReasons s) (fun s =>
    ({ s with host := { s.host with ringOn := false } }, [])) s) s)

/-- EVACK_WRITE (R329). -/
def evackWrite (s : State) (val : Nat) : State :=
  let s1 := { s with host := { s.host with evack := val % 2^64 } }
  flushEvents s1.host.kept.length s1
def execEvackWrite (val : Nat) (s : State) : Result := .next (evackWrite s val)

/-- MAILBOX_UNKNOWN_COMMAND (R326): STATUS 2; the reason that goes with it is not stated. -/
def execMailboxUnknownCommand (s : State) : Result :=
  .next (if s.host.doorbell && mineIs s .mailboxUnknownCommand then mailDone s.bump 2 (Config.choice s.fresh (2^32) % 2^32) [] else s)

/-! ### Queue records, control registers, kicks (R333, R334; 10 R268, R270) -/

/-- A replacement of `size` bytes at `off` of a register of which `old` is the value. -/
def patch (old off size val : Nat) : Nat :=
  old - 2^(8 * off) * field old (8 * off) (8 * size) + 2^(8 * off) * (val % 2^(8 * size))

/-- The record as its 64 bytes read. -/
def recordNat (q : Queue) : Nat :=
  q.base % 2^64 + 2^64 * (q.size % 16) + 2^72 * (q.vector % 64) + 2^78 * bit q.ien + 2^79 * bit q.en + 2^96 * (q.ctx % 2^32)
    + 2^128 * (q.cbase % 2^64) + 2^192 * (q.kickva % 2^64) + 2^256 * q.head.toNat + 2^288 * q.tail.toNat + 2^320 * (q.fault % 4096)

def QState.code (t : QState) : Nat := match t with | .running => 0 | .draining => 1 | .drained => 2

/-- The control register as it reads. -/
def controlNat (q : Queue) : Nat :=
  q.prio % 8 + 2^8 * (q.pw % 256) + 2^16 * q.state.code + 2^20 * bit q.paused + 2^32 * (q.active % 65536)

/-- A write that sets EN: checked, KICKVA translated, HEAD, TAIL and FAULT set; else dropped whole. -/
def enableQueue (s : State) (key : Nat) (q : Queue) : State :=
  let x := s.ctx q.ctx
  let vd := key / 64
  let on (s : State) (pa : Option Nat) : State :=
    let q1 := { q with en := true, head := 1, tail := 1, fault := 0, kickFault := false, kickPa := pa, tries := 0,
                       waitPage := none }
    let q2 := if drainStands s vd && q1.state == .running then settleQueue { q1 with state := .draining } else q1
    (s.setQueue key q2).post [.fetchSlot vd (key % 64)]
  if 12 < q.size ∨ q.base % 4096 ≠ 0 ∨ q.cbase % 4096 ≠ 0 ∨ q.kickva % 8 ≠ 0 ∨ x.used = false ∨ x.vd ≠ vd then s
  else if q.kickva = 0 then on s none
  else
    let r := kickTranslate s vd q.ctx q.kickva
    match r.2 with
    | .inr pa => on r.1 (some pa)
    | .inl _ => r.1

/-- A write of a queue record whose 64 bytes become `new` (R333); dropped and counted while the VD is locked (R331). -/
def recordWrite (s : State) (key new : Nat) : State :=
  let q := s.queue key
  if (s.vd (key / 64)).locked then countRefused s (key / 64)
  else if q.en then (if new.testBit 79 then s else s.setQueue key { q with en := false })
  else
    let q1 := { q with base := field new 0 64, size := field new 64 4, vector := field new 72 6, ien := new.testBit 78, ctx := field new 96 32,
                       cbase := field new 128 64, kickva := field new 192 64 }
    if new.testBit 79 then enableQueue s key q1 else s.setQueue key q1

/-- A write of a control register (10 R268); with PRIO the dispatcher chooses again (10 R273). -/
def controlWrite (s : State) (key val : Nat) : State :=
  if val.testBit 18 && val.testBit 19 then s
  else
    let q := s.queue key
    let s0 := s.setQueue key { q with prio := val % 8, pw := if field val 8 8 = 0 then q.pw else field val 8 8 }
    let s1 := if val % 8 = q.prio then s0 else s0.post [.dispatch (s.ctx q.ctx).part]
    if val.testBit 18 then drainQueues s1 [key] else if val.testBit 19 then resumeQueues s1 [key] else s1

def execKick (vd q val : Nat) (s : State) : Result := .next (if val.testBit 63 then s else kickWrite s (64 * vd + q) val)
def execRearm (vd q val : Nat) (s : State) : Result := .next (if val.testBit 63 then kickWrite s (64 * vd + q) val else s)
def execQueueDrain (vd q val : Nat) (s : State) : Result :=
  .next (if val.testBit 18 then controlWrite s (64 * vd + q) val else s)
def execQueueResume (vd q val : Nat) (s : State) : Result :=
  .next (if val.testBit 19 then controlWrite s (64 * vd + q) val else s)
def execQueueEnable (vd q val : Nat) (s : State) : Result :=
  .next (if val.testBit 79 && !(s.queue (64 * vd + q)).en then recordWrite s (64 * vd + q) val else s)
def execQueueDisable (vd q val : Nat) (s : State) : Result :=
  .next (if !val.testBit 79 && (s.queue (64 * vd + q)).en then recordWrite s (64 * vd + q) val else s)

/-! ### Registers (R324, R325; 00 R7) -/

/-- The doorbell (R326): dropped while it reads 1. -/
def ringDoorbell (s : State) : State :=
  if s.host.doorbell then s
  else
    let s1 := raiseSignal { s with host := { s.host with doorbell := true } } 0 8
    s1.post [mailEvent s1]

/-- A write in the PF's BAR0. -/
def pfWrite (s : State) (off size val : Nat) : State :=
  if off + size ≤ 0x40 then
    { s with host := { s.host with req := sized 64 (s.host.req.take off ++ List.replicate (off - s.host.req.length) 0 ++ leBytes val size
                                                    ++ s.host.req.drop (off + size)) } }
  else if off = 0x40 then (if val % 2 = 1 then ringDoorbell s else s)
  else if 0x100 ≤ off ∧ off + size ≤ 0x108 then evackWrite s (patch s.host.evack (off - 0x100) size val)
  else s

/-- A write in a VF's BAR0. -/
def vfWrite (s : State) (vd off size val : Nat) : State :=
  if off < 0x200 then
    (if off % 8 + size ≤ 8 then kickWrite s (64 * vd + off / 8) (patch 0 (off % 8) size val) else s)
  else if 0x1000 ≤ off ∧ off < 0x2000 then
    (let key := 64 * vd + (off - 0x1000) / 64
     if off % 64 + size ≤ 64 then recordWrite s key (patch (recordNat (s.queue key)) (off % 64) size val) else s)
  else if 0x2000 ≤ off ∧ off < 0x2200 then
    (let key := 64 * vd + (off - 0x2000) / 8
     if off % 8 + size ≤ 8 then controlWrite s key (patch (controlNat (s.queue key)) (off % 8) size val) else s)
  else if 0x3000 ≤ off ∧ off < 0x3400 then
    (let c := (off - 0x3000) / 4
     if off % 4 = 0 then pointWrite s vd c val else s)
  else s

/-- Bytes of a function's MSI-X table (R324): vectors of 16 bytes from offset 0 on (log 79); none above VF 64. -/
def msixBytes (fn : Nat) : Nat := if fn = 0 then 8 * 16 else if fn ≤ 64 then 64 * 16 else 0

/-- A write of the MSI-X table: the VD's is configuration (R331). -/
def msixWrite (s : State) (fn off size val : Nat) : State :=
  if msixBytes fn < off + size then s
  else if 0 < fn ∧ (s.vd (fn - 1)).locked then countRefused s (fn - 1)
  else
    { s with host := { s.host with msixTable := Tab.putRun 0 (4096 * fn + off) (leBytes val size) s.host.msixTable } }

/-- REGISTER_WRITE: function, BAR × 2^16 + offset, size in bytes, value. Unassigned offsets and the survey window drop it. -/
def execRegisterWrite (fn off size val : Nat) (s : State) : Result :=
  .next (if 64 < fn then s else
    let o := off % 65536
    match off / 65536 with
    | 0 => if fn = 0 then pfWrite s o size val else vfWrite s (fn - 1) o size val
    | 4 => msixWrite s fn o size val
    | _ => s)

/-- The point register as it reads (09 R256). -/
def pointNat (i : Island) : Nat :=
  i.req % 16 + 2^4 * (i.cur % 16) + 2^8 * (i.trim % 16) + 2^12 * (i.rail % 4) + 2^16 * i.allow.toNat

def TState.code (t : TState) : Nat := match t with | .unlocked => 0 | .locked => 1 | .run => 2 | .error => 3

/-- The interface register as it reads (R331). -/
def interfaceNat (v : Vd) : Nat := v.tstate.code + 4 * bit v.ide + 2^16 * (v.refused % 65536)

/-- Byte `n` of a number. -/
def byteOf (x n : Nat) : Byte := BitVec.ofNat 8 (x / 2^(8 * n))

/-- A byte of the survey window: a VD sees only its own entries of the VD table and the queue table (R341). -/
def surveyByte (s : State) (view : Option Nat) (off : Nat) : Byte :=
  let mine := match view with
    | none => true
    | some v => !(decide (0x1000 ≤ off) && decide (off < 0x3000)) || (off - 0x1000) / 64 % 64 == v
  if mine then Tab.get 0 s.host.survey off else 0

/-- What a read of one byte of a function's BAR returns (R324, R325). -/
def barByte (s : State) (fn bar off : Nat) : Byte :=
  if 64 < fn then 0 else
  match bar with
  | 2 => surveyByte s (if fn = 0 then none else some (fn - 1)) off
  | 4 => if off < msixBytes fn then Tab.get 0 s.host.msixTable (4096 * fn + off) else 0
  | 0 =>
    if fn = 0 then
      if off < 0x40 then s.host.req[off]?.getD 0
      else if off = 0x40 then (if s.host.doorbell then 1 else 0)
      else if 0x80 ≤ off ∧ off < 0x88 then byteOf s.host.status.toNat (off - 0x80)
      else if 0x88 ≤ off ∧ off < 0xC0 then s.host.result[off - 0x88]?.getD 0
      else if 0x100 ≤ off ∧ off < 0x108 then byteOf s.host.evack (off - 0x100)
      else 0
    else
      let vd := fn - 1
      if off < 0x1000 then 0
      else if off < 0x2000 then byteOf (recordNat (s.queue (64 * vd + (off - 0x1000) / 64))) (off % 64)
      else if off < 0x2200 then byteOf (controlNat (s.queue (64 * vd + (off - 0x2000) / 8))) (off % 8)
      else if 0x3000 ≤ off ∧ off < 0x3400 then
        (let c := (off - 0x3000) / 4
         match (s.vd vd).part with
         | some p => if (s.part p).clusters.contains c then byteOf (pointNat (s.island c)) (off % 4) else 0
         | none => 0)
      else if 0x4000 ≤ off ∧ off < 0x4008 then byteOf (interfaceNat (s.vd vd)) (off - 0x4000)
      else 0
  | _ => 0

/-! ### The survey window (R341-R348) -/

/-- The rows of R241 and R144 in table order, each with its weights in force. -/
def Weights.rows (w : Weights) : List (List Nat) :=
  [[w.lane, w.lanePer], [w.toll1, w.toll1Per], [w.toll2, w.toll2Per], [w.group], [w.mem, w.memPer], [w.l1], [w.stage], [w.sector], [w.tile],
   [w.readBurst], [w.writeBurst], [w.copy], [], [w.flit],
   [w.msign, w.msignPer], [w.unit], [w.mmaIssue, w.mma, w.mma16, w.mma32], [w.tileIssue, w.tileData], [w.cpytIssue, w.cpyt, w.cpytPer]]

/-- Weight words of R343; the word of a row that has not just one weight is the implementation's. -/
def surveyWeights (w : Weights) : List Nat :=
  (w.rows.zip (List.range w.rows.length)).map fun p =>
    match p.1 with
    | [n] => n % 2^32
    | parts => Config.weightWord p.2 parts % 2^32

def ClusterState.code (c : ClusterState) : Nat := match c with | .enabled => 0 | .marked => 1 | .retired => 2 | .poweredDown => 3

def surveyHeader (s : State) (gen : Nat) : List Byte :=
  let p := s.power
  let silent := p.silent.foldl (fun a n => a ||| 2^(n % 256)) 0
  leBytes gen 8 ++ leBytes 1 1 ++ leBytes 0xB0 1 ++ leBytes 1 1 ++ leBytes (Config.bundle 1) 1 ++ leBytes (Config.bundle 2) 1
    ++ leBytes (if s.host.failed then 1 else if s.host.drainSet then 2 else 0) 1 ++ leBytes p.suslim 2 ++ leBytes (Config.choice s.fresh 65536) 2
    ++ leBytes (bit p.binding) 1 ++ leBytes (bit p.undersized + 2 * bit (!p.silent.isEmpty)) 1 ++ leBytes p.rack.cap 4
    ++ leBytes (s.host.uptime / 1000000) 8 ++ leBytes silent 32 ++ (surveyWeights p.weights).flatMap (leBytes · 4)

def surveyVd (s : State) (v : Nat) : List Byte :=
  let x := s.vd v
  let qs := (queuesOfVd v).map s.queue
  let drain := if x.drainSet || s.host.drainSet then (if qs.all fun q => q.state == .drained then 2 else 1) else 0
  sized 64 (leBytes drain 1 ++ leBytes x.tstate.code 1 ++ leBytes (qs.filter fun q => q.state == .running).length 1
    ++ leBytes (qs.filter fun q => q.state == .draining).length 1 ++ leBytes (qs.foldl (fun a q => a + q.pend.length) 0) 4
    ++ leBytes x.fault.toNat 8 ++ leBytes x.fincident 8 ++ leBytes x.ftime 8)

def surveyQueue (q : Queue) : Nat :=
  q.state.code + 4 * bit q.paused + 8 * bit q.en + 16 * bit (q.fault != 0) + 32 * bit (q.pend.any fun e => !e.ready)

def surveyCluster (s : State) (c : Nat) : List Byte :=
  let i := s.island c
  sized 16 (leBytes i.state.code 1 ++ leBytes (i.cur % 16 + 16 * i.trim) 1 ++ leBytes i.pool 1 ++ leBytes ((partOfCluster s c).getD 0xFF) 1
    ++ leBytes i.life 4 ++ leBytes (min 0xFFFF i.corr) 2)

def surveyStack (s : State) (n : Nat) : List Byte :=
  let x := s.sealing
  let uncorr := (x.uncorrEvents.filter fun p => p.1 == mscKey n || (decide (p.1 < 1024) && p.1 / 64 == n)).foldl (fun a p => a + p.2) 0
  let frames := (x.retired.filter fun f => homeSlice (2 * f) == n || homeSlice (2 * f + 1) == n).length
  sized 256 (leBytes (Tab.get 0 x.corrBursts n) 4 ++ leBytes uncorr 4 ++ leBytes (x.poison.filter fun p => homeSlice p.1 == n).length 4
    ++ leBytes frames 4 ++ leBytes (s.msc.wayOff.filter fun p => p.1 / 8192 == n).length 4
    ++ leBytes (bit (x.slots.any fun k => k.2.reseal && !k.2.doneSlices.contains n)) 1)

def surveyChan (s : State) (n : Nat) : List Byte :=
  let p := s.pchan n
  leBytes (p.post + 16 * p.next) 4 ++ leBytes p.forced.toNat 4

def surveyPort (s : State) (n : Nat) : List Byte :=
  let p := Tab.get {} s.fabric.ports n
  let st := match p.state with | .down => 0 | .spared => 2 | _ => 1
  let recent := (p.replays.filter fun t => decide (s.host.uptime < t + 1000000)).length
  sized 64 (leBytes st 1 ++ leBytes p.peer 1 ++ leBytes recent 2)

/-- SURVEY_UPDATE: one whole update, `elapsed` microseconds after the one before; GEN is even again after it. The 1 µs tick is a
signal of every firmware processor (13 R357). -/
def execSurveyUpdate (elapsed : Nat) (s : State) : Result :=
  .next (let s0 := { s with host := { s.host with uptime := s.host.uptime + elapsed } }
    let s1 := (List.range 12).foldl (fun x n => raiseSignal x n 9) s0
    let gen := leNat (Tab.getRun 0 s1.host.survey 0 8) + 2
    let put (t : Tab Byte) (off : Nat) (bs : List Byte) : Tab Byte := Tab.putRun 0 off bs t
    let t1 := put s1.host.survey 0 (surveyHeader s1 gen)
    let t2 := put t1 0x1000 ((List.range 64).flatMap (surveyVd s1))
    let t3 := put t2 0x2000 ((List.range 4096).flatMap fun k => leBytes (surveyQueue (s1.queue k)) 1)
    let t4 := put t3 0x3000 ((List.range 256).flatMap (surveyCluster s1))
    let t5 := put t4 0x4000 ((List.range 16).flatMap (surveyStack s1))
    let t6 := put t5 0x5000 ((List.range 1024).flatMap (surveyChan s1))
    let t7 := put t6 0x7000 ((List.range 16).flatMap (surveyPort s1))
    State.bump { s1 with host := { s1.host with survey := t7 } })

/-! ### TDISP (R331, R332) -/

/-- The interface report of a lock: windows as (number, base, length), records by queue, the MSI-X table (R332). -/
def interfaceReport (s : State) (vd : Nat) : Report :=
  { windows := (s.host.hdm.filter fun p => p.2.used && p.2.vd == vd).map fun p => (p.1, p.2.base, p.2.len),
    records := (queuesOfVd vd).map fun k => (k % 64, recordNat (s.queue k)),
    msix := Tab.getRun 0 s.host.msixTable (4096 * (vd + 1)) (msixBytes (vd + 1)) }

/-- A TDISP message reaches the device through a session of KEY_EXCHANGE (13 R359). -/
def inSession (s : State) : Bool := s.sec.sessions != 0

/-- Moves the VD's interface; a TDISP message is a signal of command processor 0. -/
def tdisp (s : State) (vd : Nat) (v : Vd) : State := raiseSignal (s.setVd vd v) 0 13

/-- LOCK_INTERFACE: the changes received before it have been performed, since events are served in order (R332). -/
def execLockInterface (vd ide : Nat) (s : State) : Result :=
  .next (let v := s.vd vd
    if v.tstate = .unlocked ∧ inSession s then
      tdisp s vd { v with tstate := .locked, ide := ide != 0, report := some (interfaceReport s vd) }
    else s)
def execStartInterface (vd : Nat) (s : State) : Result :=
  .next (let v := s.vd vd
    if v.tstate = .locked ∧ inSession s then
      (tdisp s vd { v with tstate := .run }).post (((queuesOfVd vd).filter fun k => (s.queue k).en).map fun k => .fetchSlot vd (k % 64))
    else s)
def execStopInterface (vd : Nat) (s : State) : Result :=
  .next (let v := s.vd vd
    if v.tstate = .unlocked ∨ inSession s = false then s
    else (tdisp s vd { v with tstate := .unlocked, ide := false, refused := 0, report := none }).post
      (((queuesOfVd vd).filter fun k => (s.queue k).en).map fun k => .fetchSlot vd (k % 64)))

/-- INTERFACE_ERROR: every context of the VD stops with LINK_LOST. -/
def execInterfaceError (vd : Nat) (s : State) : Result :=
  .next (let v := s.vd vd
    if v.tstate = .error then s
    else
      let s1 := tdisp s vd { v with tstate := .error }
      faultContexts s1 (s1.contextsWith fun _ c => c.vd == vd) (gradeC 0x0F0) 0)

/-! ### The link (R323) -/

/-- Requests of some contexts to some addresses end without an answer: their loads write no register, OCS falls for their stores. -/
def endRequests (s : State) (who : Nat → Bool) (pa : Nat → Bool) : State :=
  let ids := (s.flight.reqs.filter fun r => who r.ctx && pa r.pa).map (·.id)
  let s1 := { s with flight := { s.flight with reqs := s.flight.reqs.filter fun r => !ids.contains r.id } }
  let s2 := dropLoads s1 fun l => l.lines.any fun x => ids.contains x.rid
  let sts := s2.flight.stores.filter fun x => !x.stage && who x.ctx && pa x.pa
  let s3 := sts.foldl (fun x st => retireStore { x with flight := { x.flight with stores := x.flight.stores.filter fun y => y.id != st.id } } st.whos st.id) s2
  let cut (a : Atom) : List AtomPart := if !a.stage && who a.ctx then a.parts.filter fun p => pa p.addr else []
  (s3.flight.atoms.filter fun a => !(cut a).isEmpty).foldl (fun x a => atomFail x a (cut a)) s3

/-- HOST_TIMEOUT. -/
def execHostTimeout (ctx : Nat) (s : State) : Result :=
  .next (if (s.ctx ctx).used then endRequests (contextFault s ctx { code := gradeC 0x0F1 }) (· == ctx) isHost else s)

/-- LINK_LOST: every context stops, every queue stops fetching. -/
def execLinkLost (s : State) : Result :=
  .next (if s.host.linkDown then s
    else
      let s1 := faultContexts s (s.contextsWith fun _ _ => true) (gradeC 0x0F0) 0
      let s2 := endRequests s1 (fun _ => true) isHost
      { s2 with host := { s2.host with linkDown := true },
                queues := Tab.setMany {} (List.range 4096) (fun k => { s2.queue k with fault := gradeC 0x0F0, kickFault := false }) s2.queues })

/-! ### Device reset (00 R7, 13 R360) -/

/-- Clusters after a reset: a retired one stays so, and LIFE is what the monitor reported. -/
def resetIsland (p : Nat × Island) : Option (Nat × Island) :=
  if p.2.state = .retired then some (p.1, { state := .retired, life := p.2.life, bins := List.replicate 10 0 })
  else if p.2.life ≠ 0 then some (p.1, { life := p.2.life })
  else none

/-- Key slots after a reset: generation 0 of each with new keys, but in manufacturing and once decommissioned for firmware only (13 R360). -/
def resetSlots (s : State) (life : Lifecycle) : Tab KeySlot :=
  Tab.setMany {} (List.range 130) (fun n =>
    { draw := s.key, destroyed := decide (n < 129) && (life == .manufacturing || life == .decommissioned) }) []

/-- DEVICE_RESET. What lies outside the device keeps its contents; fuses keep the lifecycle state; frames retired for good and retired
clusters stay so. Firmware may write new weights, the boot is measured (13 R358), and the link trains, to stay down where it is narrower than
16 lanes (R321). -/
def execDeviceReset (s : State) : Result :=
  .next (let life := if s.sec.life = .debugUnlocked then Lifecycle.deployed else s.sec.life
    let debug := life == .manufacturing
    let weights := s.power.nextWeights
    { State.reset with
      mem := s.mem.filter fun p => decide (0x1000000000000 ≤ p.1),
      islands := s.islands.filterMap resetIsland,
      sealing := { retired := s.sealing.retired, slots := resetSlots s life },
      power := { weights, nextWeights := weights },
      host := { lanes := s.host.lanes, linkDown := s.host.lanes != 16 },
      msc := { lead := s.msc.lead, trail := s.msc.trail },
      fabric := { ports := (s.fabric.ports.filter fun p => p.2.peer != 0).map fun p => (p.1, { peer := p.2.peer }) },
      sec := { life, debugOpen := debug, blocks := bootBlocks life debug weights },
      fresh := s.key })

/-! ### What an idle device does by itself -/

/-- Events that the passing of time brings without an input: a mailbox command still to be served, slots to read again or records to write,
event waits to evaluate again, runs whose last write could not be made, ready runs whose descriptor could not be read, accepted launch orders,
saved contexts that could come in (R326, R336, 10 R271, R272, R278, 13 R354). -/
def idleEvents (s : State) : List Instr :=
  let dispatchable (p : Nat × Partition) : Bool := (queuesOfPart s p.1).any fun k => (s.queue k).pend.any fun e => e.ready && e.got.isNone
  (if s.host.doorbell then [mailEvent s] else [])
    ++ ((s.queues.filter fun p => mayFetch s p.1 || mayFlush s p.1).map fun p => .fetchRetry (p.1 / 64) (p.1 % 64))
    ++ ((s.parts.filter fun p => p.2.used && (queuesOfPart s p.1).any fun k => (s.queue k).pend.any fun e => !e.ready).map fun p => .eventWaitEval p.1)
    ++ ((s.runs.filter fun p => p.2.live && runOver s p.1).map fun p => .runComplete p.1)
    ++ ((s.parts.filter fun p => p.2.used && (dispatchable p || ordersOf s p.1 != [] || savedCanMove s p.1)).map fun p => .dispatch p.1)

end Sys2Proof.Machine
end

