-- ==== Sys2Proof/Machine/Fabric.lean ====
section
/-! DEFINITION. Fabric events: flits received, NAKs, replays, lane repair, a port that goes down, requests of peers (13 R365-R369). -/

namespace Sys2Proof.Machine

/-- Requests that waited for a port to take their flits are served again (log 52). -/
def wakePeers (s : State) : State :=
  State.post { s with msc := { s.msc with waiting := Tab.erase 17 s.msc.waiting } } ((Tab.get [] s.msc.waiting 17).flatMap (retryRequest s))

/-- A request in flight goes out through the port. -/
def usesPort (s : State) (n pa : Nat) : Bool := isPeer pa && upPort s (peerOf pa) == some n

/-- PORT_DOWN (R368): every context with a request outstanding through the port stops with LINK_LOST, and its requests end. -/
def portDown (s : State) (n : Nat) : State :=
  let hit (pa : Nat) : Bool := usesPort s n pa
  let who := (s.flight.reqs.filter fun r => hit r.pa).map (·.ctx) ++ (s.flight.stores.filter fun x => !x.stage && hit x.pa).map (·.ctx)
    ++ (s.flight.atoms.filter fun a => !a.stage && a.parts.any fun p => hit p.addr).map (·.ctx)
  let s1 := faultContexts (s.setPort n (s.port n).goDown) (dedup who) (gradeC 0x0F0) 0
  wakePeers (endRequests s1 (fun _ => true) hit)

/-- A lane failure, and what a port that goes down by it brings. -/
def chargeLane (s : State) (n laneBad : Nat) : State :=
  if laneBad = 0 then s
  else
    let was := s
    let r := laneFailure s n (laneBad - 1)
    if r.2 then portDown (r.1.setPort n (was.port n)) n else r.1

/-- Reserved TYPE or a nonzero zero field (R366). -/
def flitBad (f : Flit) : Bool := decide (7 ≤ f.type) || field f.header 30 34 != 0

/-- The intact, in-order flit is delivered. -/
def deliverFlit (s : State) (n : Nat) (f : Flit) : State :=
  let p := s.port n
  let s1 := s.setPort n { p with expect := (p.expect + 1) % 4096, naked := false, delivered := f :: p.delivered }
  if f.type = 5 then
    s1.post [.budgetMessage (field f.payload 0 8) (field f.payload 8 32) (field f.payload 40 16) (field f.payload 56 8) (field f.payload 64 16)]
  else s1

/-- What an acknowledgement brings: a repair that waited for the replay, new flits, requests that waited for room. -/
def afterAck (s : State) (n : Nat) : State :=
  let s1 := settlePending s n
  wakePeers (pump n ((s1.port n).out.length + 1) s1)

/-- FLIT_RECEIVE: bytes 0 to 7, 8 to 251 and 252 to 255 as received; `laneBad` 0, or the number of the lane whose check fails as well, plus 1. -/
def execFlitReceive (port header payload crc laneBad : Nat) (s : State) : Result :=
  .next (let p := s.port port
    let f : Flit := { header, payload }
    if p.state = .down ∨ p.freezing then s
    else if crc ≠ f.crc then
      let s1 := chargeLane s port laneBad
      if p.naked ∨ (s1.port port).state = .down then s1 else sendNak s1 port
    else if flitBad f then (if p.naked then s else sendNak s port)
    else
      let s1 := afterAck (s.setPort port (p.acked f.ack)) port
      if f.type = 0 then s1
      else if f.type = 4 then s1.post [.nak port f.seq 0]
      else if f.seq = p.expect then deliverFlit s1 port f
      else if p.naked ∨ (p.expect + 4096 - f.seq) % 4096 ≤ 1024 then s1
      else sendNak s1 port)

/-- NAK: what stands before the expected SEQ is acknowledged, the rest is sent again; in PENDING a failure on the triggering lane freezes
transmit first (R366, R367). -/
def execNak (port seq laneBad : Nat) (s : State) : Result :=
  .next (let p := s.port port
    if p.state = .down then s
    else
      let s1 := s.setPort port (p.acked ((seq + 4095) % 4096))
      if p.freezing then s1
      else if p.state = .pending ∧ laneBad ≠ 0 ∧ p.bad = some (laneBad - 1) then
        s1.setPort port { s1.port port with freezing := true, replaying := (s1.port port).replay.length }
      else
        let s2 := chargeLane s1 port laneBad
        if (s2.port port).freezing then s2.setPort port { s2.port port with replaying := (s2.port port).replay.length }
        else if (s2.port port).state = .down then s2
        else replayFlits s2 port)

/-- ACK_TIMEOUT: no ACK for 1 µs. -/
def execAckTimeout (port : Nat) (s : State) : Result :=
  .next (let p := s.port port
    if p.state = .down ∨ p.freezing then s else replayFlits s port)

/-- FREEZE_END: the spare lane is in place; a replay starts again from the oldest unacknowledged flit, else new flits follow. -/
def execFreezeEnd (port : Nat) (s : State) : Result :=
  .next (let p := s.port port
    if !p.freezing then s
    else
      let s1 := s.setPort port { p with state := .spared, freezing := false }
      wakePeers (if p.replaying = 0 then pump port (p.out.length + 1) s1 else replayFlits s1 port))

/-- FREEZE_TIMEOUT: longer than 2 µs. -/
def execFreezeTimeout (port : Nat) (s : State) : Result :=
  .next (if (s.port port).freezing then portDown s port else s)

/-- Account of a peer request's work and response: the VD account of the frame's owner (09 R243). DESIGN CHOICE (log 84):
where the owner is no VD, the partition account for 0xFFFE and the firmware account for 0 and 0xFFFF. -/
def frameAccount (s : State) (pa : Nat) : Nat :=
  let o := s.ownerOf (pa / 4096)
  if o.owner = 0xFFFE then partAccount o.part else if o.owner = 0 ∨ 64 < o.owner then firmwareAccount else vdAccount (o.owner - 1)

/-- What `write` says of a peer's request: bit 8 set, an atomic, with AOP in bits 3:0, the width in bit 4, RMODE in bits 7:5, SAT in bit 9 and
AFADD's entry from bit 10 on. -/
def peerAtom (write : Nat) : AtomOp :=
  { aop := field write 0 4, w64 := write.testBit 4, rmode := field write 5 3, sat := write.testBit 9, fmt := BitVec.ofNat 32 (field write 10 32) }

/-- A peer's request at its home slice: the state after it and what it returns. `write` 0 is a read of the 128-byte line; with bit 8 it is an atomic,
whose operand is bits 63:0 of `val` and whose comparison bits 127:64 (06 R163); else a write of that many bytes. A 64-bit store at a kick word
is a kick, whichever package makes it (12 R334). -/
def servePeer (s : State) (pa write val : Nat) : State × Nat :=
  if write = 0 then (s, s.readNat pa 128)
  else if write.testBit 8 then
    let op := peerAtom write
    let p : AtomPart := { who := default, va := pa, addr := pa, s := BitVec.ofNat 64 val, cmp := BitVec.ofNat 64 (val / 2^64) }
    let r := atomFold op [p] AtomPart.addr s.mem
    let x := { s with mem := r.1 }
    (if op.w64 then r.2.2.foldl (fun y m => storeKick y m.1 m.2) x else x, (r.2.1.map (·.2)).headD 0)
  else
    let n := min write (128 - pa % 128)
    let x := s.writeBytes pa (leBytes val n)
    (if n = 8 then storeKick x pa (val % 2^64) else x, 0)

/-- FABRIC_REQUEST: a peer's request, mapped by the import table and checked against that owner (R369); `servePeer` says what it does. The
response leaves as one flit, charged as the owner's (09 R243). -/
def execFabricRequest (port pkg vd addr write val : Nat) (s : State) : Result :=
  .next (let o := Tab.get 0 s.fabric.imports (64 * pkg + vd)
    let pa := if write = 0 then addr / 128 * 128 else addr
    let acct := if usable pa then frameAccount s pa else firmwareAccount
    let answer (x : State) (e : Bool) (d : Nat) : State :=
      sendFlit { x with fabric := { x.fabric with answer := some (e, BitVec.ofNat 1024 d) } } port 3 d acct
    if (s.port port).state = .down then s
    else if o = 0 ∨ usable pa = false then answer s true 0
    else
      let r := sliceAccess s { pa, kind := if write = 0 then 0 else if write.testBit 8 then 2 else 1, vd := if o ≤ 64 then o - 1 else 0, acct, asOwner := o }
      match r.2 with
      | .ok => let q := servePeer r.1 pa write val; answer q.1 false q.2
      | _ => answer r.1 true 0)

end Sys2Proof.Machine
end

