-- ==== Sys2Proof/Machine/Rv64.lean ====
section
/-! DEFINITION. The base instructions of a firmware processor: an RV64IMAC hart in machine mode, whose memory is its local SRAM (13 R351). The
manual names the instruction set and does not describe it: its meaning, its CSRs and its exceptions are the public RISC-V ones (log 7). -/

namespace Sys2Proof.Machine

def sramBytes : Nat := 0x40000

/-- x0 reads as 0. -/
def FwProc.reg (p : FwProc) (n : Nat) : DWord := if n = 0 then 0 else Tab.get 0 p.x n
/-- A write to x0 discards the result. -/
def FwProc.setReg (p : FwProc) (n : Nat) (x : DWord) : FwProc := if n = 0 then p else { p with x := Tab.set 0 n x p.x }

def FwProc.load (p : FwProc) (a n : Nat) : Nat := leNat (Tab.getRun 0 p.sram a n)
/-- A store breaks a reservation of the doubleword that it touches. -/
def FwProc.store (p : FwProc) (a n v : Nat) : FwProc :=
  { p with sram := Tab.putRun 0 a (leBytes v n) p.sram,
           resv := match p.resv with | some r => if r / 8 = a / 8 ∨ r / 8 = (a + n - 1) / 8 then none else some r | none => none }
/-- The 32-bit word at an address. -/
def FwProc.word (p : FwProc) (a : Nat) : Nat := p.load a 4
def inSram (a n : Nat) : Bool := decide (a + n ≤ sramBytes)

/-- An exception: mepc, mcause, mtval, and on at the address of mtvec; MPIE takes MIE, which is cleared. -/
def FwProc.trap (p : FwProc) (cause : Nat) (val : DWord) : FwProc :=
  let mie := p.mstatus.getLsbD 3
  { p with mepc := BitVec.ofNat 64 p.pc, mcause := BitVec.ofNat 64 cause, mtval := val, pc := p.mtvec.toNat / 4 * 4,
           mstatus := (p.mstatus &&& ~~~0x88#64) ||| (if mie then 0x80#64 else 0) }

/-- Sign extension of the low n bits. -/
def sx (n v : Nat) : DWord := (BitVec.ofNat n v).signExtend 64

/-! ### Arithmetic -/

/-- OP and OP-IMM but for the M extension; `alt` is bit 30. -/
def rvAlu (f3 : Nat) (alt : Bool) (a b : DWord) : DWord :=
  let sh := b.toNat % 64
  match f3 with
  | 0 => if alt then a - b else a + b
  | 1 => a <<< sh
  | 2 => if a.slt b then 1 else 0
  | 3 => if a.ult b then 1 else 0
  | 4 => a ^^^ b
  | 5 => if alt then a.sshiftRight sh else a >>> sh
  | 6 => a ||| b
  | _ => a &&& b

/-- OP-32. -/
def rvAlu32 (f3 : Nat) (alt : Bool) (a b : Word) : Option Word :=
  let sh := b.toNat % 32
  match f3 with
  | 0 => some (if alt then a - b else a + b)
  | 1 => some (a <<< sh)
  | 5 => some (if alt then a.sshiftRight sh else a >>> sh)
  | _ => none

/-- Division and remainder of RISC-V on w-bit values: by zero all ones and the dividend; the overflow wraps. -/
def rvDiv {w : Nat} (sgn rem : Bool) (a b : BitVec w) : BitVec w :=
  if b = 0 then (if rem then a else BitVec.allOnes w)
  else if sgn then BitVec.ofInt w (if rem then a.toInt.tmod b.toInt else a.toInt.tdiv b.toInt)
  else if rem then a % b else a / b

/-- The M extension. -/
def rvMul (f3 : Nat) (a b : DWord) : DWord :=
  match f3 with
  | 0 => a * b
  | 1 => BitVec.ofInt 64 (a.toInt * b.toInt / 2^64)
  | 2 => BitVec.ofInt 64 (a.toInt * b.toNat / 2^64)
  | 3 => BitVec.ofNat 64 (a.toNat * b.toNat / 2^64)
  | 4 => rvDiv true false a b
  | 5 => rvDiv false false a b
  | 6 => rvDiv true true a b
  | _ => rvDiv false true a b

def rvMul32 (f3 : Nat) (a b : Word) : Option Word :=
  match f3 with
  | 0 => some (a * b)
  | 4 => some (rvDiv true false a b)
  | 5 => some (rvDiv false false a b)
  | 6 => some (rvDiv true true a b)
  | 7 => some (rvDiv false true a b)
  | _ => none

def rvBranch (f3 : Nat) (a b : DWord) : Option Bool :=
  match f3 with
  | 0 => some (a == b) | 1 => some (a != b) | 4 => some (a.slt b) | 5 => some (!a.slt b) | 6 => some (a.ult b) | 7 => some (!a.ult b)
  | _ => none

/-- The value that an atomic writes, on w-bit operands; none for no such operation. -/
def rvAmo {w : Nat} (f5 : Nat) (old x : BitVec w) : Option (BitVec w) :=
  match f5 with
  | 0x00 => some (old + x) | 0x01 => some x | 0x04 => some (old ^^^ x) | 0x08 => some (old ||| x) | 0x0C => some (old &&& x)
  | 0x10 => some (if x.slt old then x else old) | 0x14 => some (if old.slt x then x else old)
  | 0x18 => some (if x.ult old then x else old) | 0x1C => some (if old.ult x then x else old)
  | _ => none

/-! ### CSRs -/

/-- MXL = 2 with I, M, A, C. -/
def misaValue : DWord := 0x8000000000001105

/-- A CSR's value; none for one that the hart has not. Hart n is firmware processor n. -/
def FwProc.csr (p : FwProc) (hart n : Nat) : Option DWord :=
  match n with
  | 0x300 => some (p.mstatus ||| 0x1800) | 0x301 => some misaValue | 0x304 => some p.mie | 0x305 => some p.mtvec
  | 0x340 => some p.mscratch | 0x341 => some p.mepc | 0x342 => some p.mcause | 0x343 => some p.mtval | 0x344 => some 0
  | 0xF11 => some 0 | 0xF12 => some 0 | 0xF13 => some 0 | 0xF14 => some (BitVec.ofNat 64 hart)
  | _ => none

def FwProc.setCsr (p : FwProc) (n : Nat) (x : DWord) : FwProc :=
  match n with
  | 0x300 => { p with mstatus := x &&& 0x88 } | 0x304 => { p with mie := x } | 0x305 => { p with mtvec := x &&& ~~~2#64 }
  | 0x340 => { p with mscratch := x } | 0x341 => { p with mepc := x &&& ~~~1#64 } | 0x342 => { p with mcause := x } | 0x343 => { p with mtval := x }
  | _ => p

/-! ### Compressed words -/

def encI (op f3 rd rs1 imm : Nat) : Nat := op + 2^7 * rd + 2^12 * f3 + 2^15 * rs1 + 2^20 * (imm % 4096)
def encR (op f3 f7 rd rs1 rs2 : Nat) : Nat := op + 2^7 * rd + 2^12 * f3 + 2^15 * rs1 + 2^20 * rs2 + 2^25 * f7
def encS (f3 rs1 rs2 imm : Nat) : Nat := 0x23 + 2^7 * (imm % 32) + 2^12 * f3 + 2^15 * rs1 + 2^20 * rs2 + 2^25 * (imm / 32 % 128)
def encB (f3 rs1 imm : Nat) : Nat :=
  0x63 + 2^7 * field imm 11 1 + 2^8 * field imm 1 4 + 2^12 * f3 + 2^15 * rs1 + 2^25 * field imm 5 6 + 2^31 * field imm 12 1
def encJ (rd imm : Nat) : Nat :=
  0x6F + 2^7 * rd + 2^12 * field imm 12 8 + 2^20 * field imm 11 1 + 2^21 * field imm 1 10 + 2^31 * field imm 20 1

/-- An n-bit immediate sign-extended, as a number below 2^32. -/
def sx32 (n v : Nat) : Nat := ((BitVec.ofNat n v).signExtend 32).toNat

/-- The 32-bit word that a compressed one stands for; none where it is reserved or of a missing extension. -/
def rvExpand (h : Nat) : Option Nat :=
  let b (lo n : Nat) : Nat := field h lo n
  let rd := b 7 5
  let rs2 := b 2 5
  let d' := 8 + b 2 3
  let s' := 8 + b 7 3
  let imm6 := sx32 6 (b 2 5 + 2^5 * b 12 1)
  let sh := b 2 5 + 2^5 * b 12 1
  match b 0 2, b 13 3 with
  | 0, 0 =>
    let i := 2^2 * b 6 1 + 2^3 * b 5 1 + 2^4 * b 11 2 + 2^6 * b 7 4
    if i = 0 then none else some (encI 0x13 0 d' 2 i)
  | 0, 2 => some (encI 0x03 2 d' s' (2^2 * b 6 1 + 2^3 * b 10 3 + 2^6 * b 5 1))
  | 0, 3 => some (encI 0x03 3 d' s' (2^3 * b 10 3 + 2^6 * b 5 2))
  | 0, 6 => some (encS 2 s' d' (2^2 * b 6 1 + 2^3 * b 10 3 + 2^6 * b 5 1))
  | 0, 7 => some (encS 3 s' d' (2^3 * b 10 3 + 2^6 * b 5 2))
  | 1, 0 => some (encI 0x13 0 rd rd imm6)
  | 1, 1 => if rd = 0 then none else some (encI 0x1B 0 rd rd imm6)
  | 1, 2 => some (encI 0x13 0 rd 0 imm6)
  | 1, 3 =>
    if rd = 2 then
      let i := 2^4 * b 6 1 + 2^5 * b 2 1 + 2^6 * b 5 1 + 2^7 * b 3 2 + 2^9 * b 12 1
      if i = 0 then none else some (encI 0x13 0 2 2 (sx32 10 i))
    else if sh = 0 then none
    else some (0x37 + 2^7 * rd + 2^12 * (imm6 % 2^20))
  | 1, 4 =>
    (match b 10 2 with
    | 0 => some (encI 0x13 5 s' s' sh)
    | 1 => some (encI 0x13 5 s' s' (0x400 + sh))
    | 2 => some (encI 0x13 7 s' s' imm6)
    | _ => (match b 12 1, b 5 2 with
      | 0, 0 => some (encR 0x33 0 0x20 s' s' d')
      | 0, 1 => some (encR 0x33 4 0 s' s' d')
      | 0, 2 => some (encR 0x33 6 0 s' s' d')
      | 0, 3 => some (encR 0x33 7 0 s' s' d')
      | 1, 0 => some (encR 0x3B 0 0x20 s' s' d')
      | 1, 1 => some (encR 0x3B 0 0 s' s' d')
      | _, _ => none))
  | 1, 5 => some (encJ 0 (sx32 12 (2 * b 3 3 + 2^4 * b 11 1 + 2^5 * b 2 1 + 2^6 * b 7 1 + 2^7 * b 6 1 + 2^8 * b 9 2 + 2^10 * b 8 1 + 2^11 * b 12 1)))
  | 1, 6 => some (encB 0 s' (sx32 9 (2 * b 3 2 + 2^3 * b 10 2 + 2^5 * b 2 1 + 2^6 * b 5 2 + 2^8 * b 12 1)))
  | 1, 7 => some (encB 1 s' (sx32 9 (2 * b 3 2 + 2^3 * b 10 2 + 2^5 * b 2 1 + 2^6 * b 5 2 + 2^8 * b 12 1)))
  | 2, 0 => some (encI 0x13 1 rd rd sh)
  | 2, 2 => if rd = 0 then none else some (encI 0x03 2 rd 2 (2^2 * b 4 3 + 2^5 * b 12 1 + 2^6 * b 2 2))
  | 2, 3 => if rd = 0 then none else some (encI 0x03 3 rd 2 (2^3 * b 5 2 + 2^5 * b 12 1 + 2^6 * b 2 3))
  | 2, 4 =>
    if b 12 1 = 0 then (if rs2 ≠ 0 then some (encR 0x33 0 0 rd 0 rs2) else if rd = 0 then none else some (encI 0x67 0 0 rd 0))
    else if rs2 ≠ 0 then some (encR 0x33 0 0 rd rd rs2)
    else if rd = 0 then some 0x00100073
    else some (encI 0x67 0 1 rd 0)
  | 2, 6 => some (encS 2 2 rs2 (2^2 * b 9 4 + 2^6 * b 7 2))
  | 2, 7 => some (encS 3 2 rs2 (2^3 * b 10 3 + 2^6 * b 7 3))
  | _, _ => none

/-! ### One instruction -/

/-- CSR access and the other SYSTEM words; none is illegal. -/
def rvSystem (p : FwProc) (hart w next : Nat) : Option FwProc :=
  let rd := field w 7 5
  let rs1 := field w 15 5
  let f3 := field w 12 3
  if w = 0x00000073 then some (p.trap 11 0)
  else if w = 0x00100073 then some (p.trap 3 (BitVec.ofNat 64 p.pc))
  else if w = 0x10500073 then some { p with pc := next }
  else if w = 0x30200073 then
    some { p with pc := p.mepc.toNat, mstatus := (p.mstatus &&& ~~~8#64) ||| (if p.mstatus.getLsbD 7 then 8#64 else 0) ||| 0x80#64 }
  else if f3 = 0 ∨ f3 = 4 then none
  else
    let n := field w 20 12
    let arg := if 4 ≤ f3 then BitVec.ofNat 64 rs1 else p.reg rs1
    let writes := f3 % 4 == 1 || rs1 != 0
    match p.csr hart n with
    | none => none
    | some old =>
      if writes && field n 10 2 == 3 then none
      else
        let new := match f3 % 4 with | 1 => arg | 2 => old ||| arg | _ => old &&& ~~~arg
        let q := if writes then p.setCsr n new else p
        some { q.setReg rd old with pc := next }

/-- The A extension. -/
def rvAtomic (p : FwProc) (w next : Nat) : Option FwProc :=
  let rd := field w 7 5
  let a := (p.reg (field w 15 5)).toNat
  let x := p.reg (field w 20 5)
  let f5 := field w 27 5
  let n := if field w 12 3 = 2 then 4 else 8
  let ext (v : Nat) : DWord := sx (8 * n) v
  if field w 12 3 ≠ 2 ∧ field w 12 3 ≠ 3 then none
  else if f5 = 2 then
    if field w 20 5 ≠ 0 then none
    else if a % n ≠ 0 then some (p.trap 4 (BitVec.ofNat 64 a))
    else if !inSram a n then some (p.trap 5 (BitVec.ofNat 64 a))
    else some { p.setReg rd (ext (p.load a n)) with resv := some a, pc := next }
  else if a % n ≠ 0 then some (p.trap 6 (BitVec.ofNat 64 a))
  else if !inSram a n then some (p.trap 7 (BitVec.ofNat 64 a))
  else if f5 = 3 then
    let ok := p.resv == some a
    let q := if ok then p.store a n x.toNat else p
    some { q.setReg rd (if ok then 0 else 1) with resv := none, pc := next }
  else
    let old := p.load a n
    match (rvAmo f5 (BitVec.ofNat (8 * n) old) (BitVec.ofNat (8 * n) x.toNat)).map BitVec.toNat with
    | none => none
    | some new => some { (p.store a n new).setReg rd (ext old) with pc := next }

/-- The 32-bit word `w` at the pc of processor `hart`, `len` bytes long as it stands; none is an illegal instruction. -/
def rvExec (p : FwProc) (hart w len : Nat) : Option FwProc :=
  let rd := field w 7 5
  let f3 := field w 12 3
  let a := p.reg (field w 15 5)
  let b := p.reg (field w 20 5)
  let f7 := field w 25 7
  let iimm := sx 12 (field w 20 12)
  let next := (p.pc + len) % 2^64
  let done (x : DWord) : Option FwProc := some { p.setReg rd x with pc := next }
  let upper := sx 32 (field w 12 20 * 2^12)
  let pcv := BitVec.ofNat 64 p.pc
  match w % 128 with
  | 0x37 => done upper
  | 0x17 => done (pcv + upper)
  | 0x6F =>
    let t := pcv + sx 21 (2 * field w 21 10 + 2^11 * field w 20 1 + 2^12 * field w 12 8 + 2^20 * field w 31 1)
    some { p.setReg rd (BitVec.ofNat 64 next) with pc := t.toNat }
  | 0x67 =>
    if f3 ≠ 0 then none else some { p.setReg rd (BitVec.ofNat 64 next) with pc := ((a + iimm) &&& ~~~1#64).toNat }
  | 0x63 =>
    (match rvBranch f3 a b with
    | none => none
    | some taken =>
      let t := pcv + sx 13 (2 * field w 8 4 + 2^5 * field w 25 6 + 2^11 * field w 7 1 + 2^12 * field w 31 1)
      some { p with pc := if taken then t.toNat else next })
  | 0x03 =>
    let at_ := (a + iimm).toNat
    let n := 2^(f3 % 4)
    if f3 = 7 then none
    else if !inSram at_ n then some (p.trap 5 (BitVec.ofNat 64 at_))
    else done (if 4 ≤ f3 then BitVec.ofNat 64 (p.load at_ n) else sx (8 * n) (p.load at_ n))
  | 0x23 =>
    let at_ := (a + sx 12 (rd + 2^5 * f7)).toNat
    let n := 2^f3
    if 4 ≤ f3 then none
    else if !inSram at_ n then some (p.trap 7 (BitVec.ofNat 64 at_))
    else some { p.store at_ n b.toNat with pc := next }
  | 0x13 =>
    if f3 = 1 then (if field w 26 6 = 0 then done (rvAlu 1 false a iimm) else none)
    else if f3 = 5 then (if field w 26 6 = 0 ∨ field w 26 6 = 0x10 then done (rvAlu 5 (field w 26 6 == 0x10) a iimm) else none)
    else done (rvAlu f3 false a iimm)
  | 0x1B =>
    let r (alt : Bool) : Option FwProc := (rvAlu32 f3 alt (a.setWidth 32) (iimm.setWidth 32)).bind fun x => done (x.signExtend 64)
    if f3 = 1 then (if f7 = 0 then r false else none)
    else if f3 = 5 then (if f7 = 0 ∨ f7 = 0x20 then r (f7 == 0x20) else none)
    else r false
  | 0x33 =>
    if f7 = 1 then done (rvMul f3 a b)
    else if f7 = 0 ∨ (f7 = 0x20 ∧ (f3 = 0 ∨ f3 = 5)) then done (rvAlu f3 (f7 == 0x20) a b)
    else none
  | 0x3B =>
    let fit (x : Option Word) : Option FwProc := x.bind fun y => done (y.signExtend 64)
    if f7 = 1 then fit (rvMul32 f3 (a.setWidth 32) (b.setWidth 32))
    else if f7 = 0 ∨ (f7 = 0x20 ∧ (f3 = 0 ∨ f3 = 5)) then fit (rvAlu32 f3 (f7 == 0x20) (a.setWidth 32) (b.setWidth 32))
    else none
  | 0x0F => if f3 = 0 then some { p with pc := next } else none
  | 0x2F => rvAtomic p w next
  | 0x73 => rvSystem p hart w next
  | _ => none

/-- The base instruction at the pc; `illegal` is mtval of the illegal-instruction exception. -/
def rvStep (p : FwProc) (hart : Nat) (illegal : DWord) : FwProc :=
  let h := p.load p.pc 2
  if !inSram p.pc 2 || (h % 4 == 3 && !inSram p.pc 4) then p.trap 1 (BitVec.ofNat 64 p.pc)
  else
    let r := if h % 4 = 3 then rvExec p hart (p.word p.pc) 4 else (rvExpand h).bind fun w => rvExec p hart w 2
    r.getD (p.trap 2 illegal)

end Sys2Proof.Machine
end

