-- ==== Sys2Proof/Machine/Firmware.lean ====
section
/-! DEFINITION. Firmware processors with the Xfolale extension; measurements, lifecycle, debug unlock, live hand-over (13 R351-R364). -/

namespace Sys2Proof.Machine

/-! ### Registers, memory and exceptions of a firmware processor (R351, R353-R355) -/

/-- `cur` of firmware processor n. -/
def fwCur (n : Nat) : Nat := 1000000 + n

/-- The word is one of the custom-0 major opcode. -/
def customWord (w : Nat) : Bool := w % 128 == 0x0B

/-- An exception of processor n. -/
def fwTrap (s : State) (n cause : Nat) (val : DWord) : State := s.setProc n ((s.proc n).trap cause val)

/-- mtval of the standard illegal-instruction exception is not stated. -/
def illegalValue (s : State) : DWord := BitVec.ofNat 64 (Config.choice s.fresh (2^64))
def fwIllegal (s : State) (n : Nat) : State := fwTrap s.bump n 2 (illegalValue s)

/-- Processor n executes the base instruction at its pc (R351). -/
def fwBase (s : State) (n : Nat) : State := s.bump.setProc n (rvStep (s.proc n) n (illegalValue s))

/-- Ends an instruction: rd is written and the pc advances. -/
def fwDone (s : State) (n d : Nat) (x : DWord) : State :=
  let p := s.proc n
  s.setProc n { p.setReg d x with pc := p.pc + 4 }

/-- Runs `f` for the firmware processor that executes; an Xfolale word is met by no other agent. -/
def onFw (s : State) (f : Nat → FwProc → State) : State :=
  if s.cur < 1000000 then s else f (s.cur - 1000000) (s.proc (s.cur - 1000000))

/-! ### The five instructions (R354) -/

def execXbfext (l p a d : Nat) (s : State) : Result :=
  .next (onFw s fun n pr => fwDone s n d (BitVec.ofNat 64 (field (pr.reg a).toNat p (l + 1))))

/-- The queue is one that the processor serves (R352). -/
def servesQueue (n key : Nat) : Bool := decide (n < 8) && key / 64 % 8 == n

def execXrfetch (b a d : Nat) (s : State) : Result :=
  .next (onFw s fun n pr =>
    let sel := (pr.reg a).toNat
    let buf := (pr.reg b).toNat
    let q := s.queue sel
    if 4096 ≤ sel ∨ servesQueue n sel = false ∨ q.en = false ∨ buf % 128 ≠ 0 ∨ sramBytes < buf + 128 then fwTrap s n 25 (pr.reg a)
    else
      let va := q.base + 128 * (q.head.toNat % q.slots)
      let r := vRead s q.ctx va 128
      match r.2 with
      | .ok bytes =>
        let code : DWord := if fieldAt bytes 0 4 ≠ q.head.toNat then 1 else if crc32c (bytes.drop 8) = fieldAt bytes 4 4 then 0 else 2
        fwDone (r.1.setProc n { r.1.proc n with sram := Tab.putRun 0 buf bytes (r.1.proc n).sram }) n d code
      -- the port to a peer takes no request now: the read is made again
      | .wait => r.1
      | _ => fwTrap r.1 n 24 (BitVec.ofNat 64 va))

/-- Signals that are not reserved for the kind of processor (R357): the two that only processor 0 gets are command processor signals. -/
def allowedSignals (n : Nat) : DWord := if n < 8 then 0x7FFF else 0x1C200

/-- XSWAIT returns: rd gets the selected pending signals, which are cleared in the same step. -/
def fwWake (s : State) (n d : Nat) (mask : DWord) : State :=
  let p := s.proc n
  fwDone (s.setProc n { p with pending := p.pending &&& ~~~mask, waiting := none }) n d (p.pending &&& mask)

def execXswait (b a d : Nat) (s : State) : Result :=
  .next (onFw s fun n pr =>
    let mask := pr.reg a
    if mask &&& ~~~(allowedSignals n) ≠ 0 then fwTrap s n 27 mask
    else if pr.pending &&& mask ≠ 0 ∨ pr.reg b = 0 then fwWake s n d mask
    else s.setProc n { pr with waiting := some (d, mask, pr.reg b) })

/-- XSWAIT_RETURN: a selected signal is pending, or the timeout has expired; a timeout of all ones never does. -/
def execXswaitReturn (proc : Nat) (s : State) : Result :=
  .next (let p := s.proc proc
    match p.waiting with
    | some (d, mask, t) => if p.safe ∨ (p.pending &&& mask = 0 ∧ t = BitVec.allOnes 64) then s else fwWake s proc d mask
    | none => s)

/-- The order at an address of the local SRAM (R356). -/
def orderOf (b : List Byte) : Order :=
  { ctx := fieldAt b 0 4, run := fieldAt b 4 4, crew := fieldAt b 8 4, core := fieldAt b 12 2, slot := fieldAt b 14 1, kind := fieldAt b 15 1,
    desc := fieldAt b 16 8 }

/-- An unknown KIND, a field outside its range, or a reserved one that is not zero. -/
def orderBad (b : List Byte) : Bool :=
  decide (511 < fieldAt b 12 2) || decide (2 < fieldAt b 14 1) || decide (2 < fieldAt b 15 1)
    || (fieldAt b 15 1 != 0 && fieldAt b 16 8 != 0) || fieldAt b 24 40 != 0

/-- The answer of the context engine: state and rd. -/
def takeOrder (s : State) (o : Order) : State × DWord :=
  let st := (s.island (o.core / 2)).state
  if st = .retired ∨ st = .poweredDown then (s, 2)
  else
    let r := serveOrder s o
    match r.2 with
    | .taken => (r.1, 1)
    | .wait p raw => (holdOrder r.1 { o with page := p, raw }, 0)
    | .done => (r.1, 0)

/-- XDISP: an order for a context engine (R354, R355). DESIGN CHOICE (log 85): an order outside the local SRAM raises cause 26 too. -/
def execXdisp (a d : Nat) (s : State) : Result :=
  .next (onFw s fun n pr =>
    let at0 := (pr.reg a).toNat
    let b := Tab.getRun 0 pr.sram at0 64
    if at0 % 64 ≠ 0 ∨ sramBytes < at0 + 64 ∨ orderBad b then fwTrap s n 26 (pr.reg a)
    else
      let r := takeOrder s (orderOf b)
      fwDone r.1 n d r.2)

/-- Correction domains that a power controller runs (R352). -/
def runsDomain (n dom : Nat) : Bool :=
  decide (8 ≤ n) && (if dom < 256 then dom / 64 == n - 8 else if dom < 272 then (dom - 256) / 4 == n - 8 else decide (dom < 288) && n == 8)

/-- The regulator's measurement since the previous XMEAS: of the intervals that have ended since, and of the present one up to now (log 76). -/
def execXmeas (a d : Nat) (s : State) : Result :=
  .next (onFw s fun n pr =>
    let dom := (pr.reg a).toNat
    if !runsDomain n dom then fwTrap s n 28 (pr.reg a)
    else
      let x := s.dom dom
      let part := 64 * Config.measured dom s.fresh
      fwDone (s.bump.setDom dom { x with integral := 0, read := x.read + part }) n d (BitVec.ofNat 64 (x.integral / 64 * 64 + part)))

/-- What a firmware processor that is scheduled does with the word at its pc: the instruction of the extension, if it is one. -/
inductive FwFetch where
  | instr (i : Instr) | illegal | base | idle
deriving DecidableEq, Repr, Inhabited

/-- The processor may execute: neither halted nor in an XSWAIT, nor held at its safe point (R363). -/
def FwProc.runs (p : FwProc) : Bool := !p.halted && p.waiting.isNone && !p.safe

def fwFetch (s : State) (n : Nat) : FwFetch :=
  let p := s.proc n
  if !p.runs then .idle
  else if p.pc % 2 = 0 && inSram p.pc 4 && customWord (p.word p.pc) then (match decodeX (p.word p.pc) with | some i => .instr i | none => .illegal)
  else .base

/-- Processors that execute an instruction in each round of the islands. -/
def fwReady (s : State) : List Nat := (s.fw.filter fun p => p.2.on && p.2.runs && decide (p.1 < 12)).map (·.1)

/-! ### Measurements and attestation (R358, R359) -/

def State.block (s : State) (n : Nat) : BitVec 384 := Tab.get 0 s.sec.blocks n

/-- A digest extended into a block (R358). -/
def extendBlock (s : State) (n : Nat) (digest : BitVec 384) : State :=
  { s with sec := { s.sec with blocks := Tab.set 0 n (extend (s.block n) digest) s.sec.blocks } }

/-- GET_MEASUREMENTS: one snapshot of the blocks, signed. -/
def execGetMeasurements (s : State) : Result :=
  .next (let c := s.sec
    let bytes := ((List.range 6).flatMap fun i => digestBytes (s.block (i + 1)))
      ++ (match c.staged with | some p => digestBytes p.2 | none => []) ++ c.log.flatMap fun e => digestBytes e.2
    raiseSignal { s with sec := { c with response := some { blocks := c.blocks, staged := c.staged, log := c.log, signature := Config.sign bytes } } } 0 13)

/-- KEY_EXCHANGE: one more secured session. -/
def execKeyExchange (s : State) : Result :=
  .next (raiseSignal { s with sec := { s.sec with sessions := s.sec.sessions + 1 } } 0 13)

/-! ### Lifecycle and debug unlock (R360-R362) -/

/-- A change of lifecycle state: measured into block 6, recorded in fuses, then in effect. -/
def setLife (s : State) (l : Lifecycle) (debug : Bool) : State :=
  let s1 := extendBlock s 6 (lifeDigest l debug)
  { s1 with sec := { s1.sec with life := l, debugOpen := debug } }

/-- Generation 0 of slots 0–128 is created, with new keys (11 R297). -/
def newKeys (s : State) : State :=
  { s with sealing := { s.sealing with slots := Tab.setMany {} (List.range 129) (fun _ => { draw := s.key }) s.sealing.slots }, fresh := s.key }

def execDeployCommand (signature : Nat) (s : State) : Result :=
  .next (if s.sec.life = .manufacturing ∧ Config.authentic 1 0 signature then setLife (newKeys s) .deployed false else s)

/-- Tenant keys of slots 0–128 are destroyed. -/
def destroyKeys (s : State) : State :=
  (List.range 129).foldl (fun x n => x.setKeySlot n { x.keySlot n with destroyed := true, prev := none, reseal := false }) s

def execDecommissionCommand (signature : Nat) (s : State) : Result :=
  .next (if (s.sec.life = .deployed ∨ s.sec.life = .debugUnlocked) ∧ Config.authentic 2 0 signature then
      let s1 := destroyKeys (setLife s .decommissioned false)
      { s1 with vds := (List.range 64).foldl (fun t v => Tab.set {} v { s1.vd v with part := none } t) s1.vds }
    else s)

def execUnlockChallenge (s : State) : Result :=
  .next (State.bump { s with sec := { s.sec with challenge := some (Config.choice s.fresh (2^64) % 2^64) } })

/-- The security processor refuses the token (R361); `token` is its 160 bytes, little-endian. -/
def tokenRefused (s : State) (token : Nat) : Bool :=
  !Config.authentic 0 (field token 0 512) (field token 512 768) || field token 0 16 != 1 || field token 16 16 != 2
    || field token 32 384 != Config.deviceId.toNat || field token 416 8 != 1 || s.sec.life != .deployed || field token 424 24 != 0
    || s.sec.challenge != some (field token 448 64) || s.ctxs.any fun c => c.2.used

/-- UNLOCK_TOKEN (R362): tenant generations are made anew, frames go to firmware as zeros, the state is measured and recorded, the port
opens. Each challenge serves one token. -/
def execUnlockToken (token : Nat) (s : State) : Result :=
  .next (let s0 := { s with sec := { s.sec with challenge := none } }
    if tokenRefused s token then s0
    else
      let s1 := newKeys (destroyKeys s0)
      let frames := (s1.sealing.owners.filter fun p => p.2.owner != 0).map (·.1)
      setLife (frames.foldl (changeOwner 0 0) s1) .debugUnlocked true)

/-! ### Live hand-over (R363, R364) -/

/-- Processors that run the firmware of block 3 or 4. -/
def affected (kind : Nat) : List Nat := if kind = 3 then List.range 8 else (List.range 4).map (8 + ·)

/-- Image bytes, lowest address first. -/
def imageNatBytes (image : Nat) : List Byte := leBytes image (Nat.log2 image / 8 + 1)

/-- HANDOVER_STAGE: the image is verified and measured into block 7, which is extended from zeros; signal 14 is raised. -/
def execHandoverStage (kind image signature : Nat) (s : State) : Result :=
  .next (if (kind = 3 ∨ kind = 4) ∧ s.sec.staged = none ∧ Config.authentic 3 image signature then
      let m := extend 0 (Config.sha384 (imageNatBytes image))
      let s1 := { s with sec := { s.sec with staged := some (kind, m), image } }
      (affected kind).foldl (fun x n => raiseSignal (x.setProc n { x.proc n with safe := false }) n 14) s1
    else s)

/-- A processor resumes in the new image from its safe point: the image stands in its SRAM from address 0 on, and it goes on where the image
has it do so (R363 step 4; log 13). -/
def FwProc.resume (p : FwProc) (n image : Nat) : FwProc :=
  { p with safe := false, waiting := none, sram := Tab.putRun 0 0 ((imageNatBytes image).take sramBytes) p.sram, pc := Config.resumePc image n p.pc, resv := none }

/-- HANDOVER_COMMIT: in one step block 7 becomes the committed block, the old one joins block 8; the processors resume in the new image. -/
def commitHandover (s : State) (kind : Nat) (m : BitVec 384) : State :=
  let s1 := { s with sec := { s.sec with blocks := Tab.set 0 kind m s.sec.blocks, log := (true, s.block kind) :: s.sec.log, staged := none } }
  (affected kind).foldl (fun x n => x.setProc n ((x.proc n).resume n s.sec.image)) s1

/-- A command processor stands between two packets of each of its queues (R363). -/
def betweenPackets (s : State) (n : Nat) : Bool := s.queues.all fun p => procOfVd (p.1 / 64) != n || p.2.tries == 0

/-- SAFE_POINT. -/
def execSafePoint (proc : Nat) (s : State) : Result :=
  .next (match s.sec.staged with
    | none => s
    | some (kind, m) =>
      if !(affected kind).contains proc || (s.proc proc).halted || !betweenPackets s proc then s
      else
        let s1 := s.setProc proc { s.proc proc with safe := true }
        if (affected kind).all fun n => (s1.proc n).safe then commitHandover s1 kind m else s1)

/-- HANDOVER_ABORT: not committed within 10 ms; the old image continues. -/
def execHandoverAbort (s : State) : Result :=
  .next (match s.sec.staged with
    | none => s
    | some (kind, m) =>
      let s1 := { s with sec := { s.sec with staged := none, log := (false, m) :: s.sec.log } }
      (affected kind).foldl (fun x n => x.setProc n { x.proc n with safe := false }) s1)

end Sys2Proof.Machine
end

