-- ==== Sys2Proof/Machine/Dispatch.lean ====
section
/-! DEFINITION. The dispatch: one arm per constructor of Instr, each one direct call of the instruction's meaning. -/

namespace Sys2Proof.Machine

def exec (i : Instr) (s : State) : Host.Outcome State Fault Refusal :=
  match i with
  | .iadd d a b g m => Sys2Proof.Machine.execIadd d a b g m s
  | .isub d a b g m => Sys2Proof.Machine.execIsub d a b g m s
  | .imul d a b g m => Sys2Proof.Machine.execImul d a b g m s
  | .imulh d a b g m => Sys2Proof.Machine.execImulh d a b g m s
  | .imulhu d a b g m => Sys2Proof.Machine.execImulhu d a b g m s
  | .imad d a b g m => Sys2Proof.Machine.execImad d a b g m s
  | .imin d a b g m => Sys2Proof.Machine.execImin d a b g m s
  | .imax d a b g m => Sys2Proof.Machine.execImax d a b g m s
  | .iminu d a b g m => Sys2Proof.Machine.execIminu d a b g m s
  | .imaxu d a b g m => Sys2Proof.Machine.execImaxu d a b g m s
  | .iadds d a b g m => Sys2Proof.Machine.execIadds d a b g m s
  | .isubs d a b g m => Sys2Proof.Machine.execIsubs d a b g m s
  | .iabs d a g m => Sys2Proof.Machine.execIabs d a g m s
  | .andl d a b g => Sys2Proof.Machine.execAndl d a b g s
  | .orl d a b g => Sys2Proof.Machine.execOrl d a b g s
  | .xorl d a b g => Sys2Proof.Machine.execXorl d a b g s
  | .andnl d a b g => Sys2Proof.Machine.execAndnl d a b g s
  | .shl d a b g m => Sys2Proof.Machine.execShl d a b g m s
  | .shr d a b g m => Sys2Proof.Machine.execShr d a b g m s
  | .sar d a b g m => Sys2Proof.Machine.execSar d a b g m s
  | .rol d a b g m => Sys2Proof.Machine.execRol d a b g m s
  | .popc d a g m => Sys2Proof.Machine.execPopc d a g m s
  | .clz d a g m => Sys2Proof.Machine.execClz d a g m s
  | .brev d a g m => Sys2Proof.Machine.execBrev d a g m s
  | .icmp d a b c m => Sys2Proof.Machine.execIcmp d a b c m s
  | .sel d a b q => Sys2Proof.Machine.execSel d a b q s
  | .mov d b g => Sys2Proof.Machine.execMov d b g s
  | .perm d a b g => Sys2Proof.Machine.execPerm d a b g s
  | .movi d imm m => Sys2Proof.Machine.execMovi d imm m s
  | .movx d m imm => Sys2Proof.Machine.execMovx d m imm s
  | .bfx d a b g fs => Sys2Proof.Machine.execBfx d a b g fs s
  | .bfi d a b g => Sys2Proof.Machine.execBfi d a b g s
  | .fadd d a b g n => Sys2Proof.Machine.execFadd d a b g n s
  | .fsub d a b g n => Sys2Proof.Machine.execFsub d a b g n s
  | .fmul d a b g n => Sys2Proof.Machine.execFmul d a b g n s
  | .ffma d a b g n => Sys2Proof.Machine.execFfma d a b g n s
  | .ffms d a b g n => Sys2Proof.Machine.execFfms d a b g n s
  | .fmin d a b g n => Sys2Proof.Machine.execFmin d a b g n s
  | .fmax d a b g n => Sys2Proof.Machine.execFmax d a b g n s
  | .fcmp d a b c n => Sys2Proof.Machine.execFcmp d a b c n s
  | .fsgn d a b o n => Sys2Proof.Machine.execFsgn d a b o n s
  | .fspc d a o n => Sys2Proof.Machine.execFspc d a o n s
  | .fclass d a e n => Sys2Proof.Machine.execFclass d a e n s
  | .cvt d a fs p g f => Sys2Proof.Machine.execCvt d a fs p g f s
  | .cvti d a fs p g m => Sys2Proof.Machine.execCvti d a fs p g m s
  | .cvtf d a w p g f => Sys2Proof.Machine.execCvtf d a w p g f s
  | .fdot d a b ix f => Sys2Proof.Machine.execFdot d a b ix f s
  | .shfl d a b q m => Sys2Proof.Machine.execShfl d a b q m s
  | .vote d b q m => Sys2Proof.Machine.execVote d b q m s
  | .scan d a x o m => Sys2Proof.Machine.execScan d a x o m s
  | .scanFadd d a n x => Sys2Proof.Machine.execScanFadd d a n x s
  | .red d a o m => Sys2Proof.Machine.execRed d a o m s
  | .redFadd d a n => Sys2Proof.Machine.execRedFadd d a n s
  | .qop d a b g m => Sys2Proof.Machine.execQop d a b g m s
  | .movqToPredicate q a g => Sys2Proof.Machine.execMovqToPredicate q a g s
  | .movqToVector d q g => Sys2Proof.Machine.execMovqToVector d q g s
  | .ld v ix k o w => Sys2Proof.Machine.execLd v ix k o w s
  | .st v ix k o w => Sys2Proof.Machine.execSt v ix k o w s
  | .aadd v ix k sr w scope order n => Sys2Proof.Machine.execAadd v ix k sr w scope order n s
  | .aand v ix k sr w scope order n => Sys2Proof.Machine.execAand v ix k sr w scope order n s
  | .aor v ix k sr w scope order n => Sys2Proof.Machine.execAor v ix k sr w scope order n s
  | .axor v ix k sr w scope order n => Sys2Proof.Machine.execAxor v ix k sr w scope order n s
  | .amin v ix k sr w scope order n => Sys2Proof.Machine.execAmin v ix k sr w scope order n s
  | .amax v ix k sr w scope order n => Sys2Proof.Machine.execAmax v ix k sr w scope order n s
  | .aminu v ix k sr w scope order n => Sys2Proof.Machine.execAminu v ix k sr w scope order n s
  | .amaxu v ix k sr w scope order n => Sys2Proof.Machine.execAmaxu v ix k sr w scope order n s
  | .axchg v ix k sr w scope order n => Sys2Proof.Machine.execAxchg v ix k sr w scope order n s
  | .acas v ix k sr w scope order n => Sys2Proof.Machine.execAcas v ix k sr w scope order n s
  | .afadd v ix k sr w scope order f n => Sys2Proof.Machine.execAfadd v ix k sr w scope order f n s
  | .msign v w n f fs => Sys2Proof.Machine.execMsign v w n f fs s
  | .gadd d a b => Sys2Proof.Machine.execGadd d a b s
  | .gsub d a b => Sys2Proof.Machine.execGsub d a b s
  | .gmul d a b => Sys2Proof.Machine.execGmul d a b s
  | .gand d a b => Sys2Proof.Machine.execGand d a b s
  | .gor d a b => Sys2Proof.Machine.execGor d a b s
  | .gxor d a b => Sys2Proof.Machine.execGxor d a b s
  | .gshl d a b => Sys2Proof.Machine.execGshl d a b s
  | .gshr d a b => Sys2Proof.Machine.execGshr d a b s
  | .gsar d a b => Sys2Proof.Machine.execGsar d a b s
  | .gmin d a b => Sys2Proof.Machine.execGmin d a b s
  | .gmax d a b => Sys2Proof.Machine.execGmax d a b s
  | .gsel d a b t => Sys2Proof.Machine.execGsel d a b t s
  | .gaddi d a ix => Sys2Proof.Machine.execGaddi d a ix s
  | .gmovi d imm => Sys2Proof.Machine.execGmovi d imm s
  | .glui d ix => Sys2Proof.Machine.execGlui d ix s
  | .grdl d a n => Sys2Proof.Machine.execGrdl d a n s
  | .br q n d => Sys2Proof.Machine.execBr q n d s
  | .brg a c d => Sys2Proof.Machine.execBrg a c d s
  | .jmp a => Sys2Proof.Machine.execJmp a s
  | .call d => Sys2Proof.Machine.execCall d s
  | .join n => Sys2Proof.Machine.execJoin n s
  | .spawn e fs a => Sys2Proof.Machine.execSpawn e fs a s
  | .trap c => Sys2Proof.Machine.execTrap c s
  | .eret fs => Sys2Proof.Machine.execEret fs s
  | .bari b a c => Sys2Proof.Machine.execBari b a c s
  | .bara b => Sys2Proof.Machine.execBara b s
  | .barw b a => Sys2Proof.Machine.execBarw b a s
  | .bart b a => Sys2Proof.Machine.execBart b a s
  | .syncm a => Sys2Proof.Machine.execSyncm a s
  | .mlwait a m => Sys2Proof.Machine.execMlwait a m s
  | .mlpass a m => Sys2Proof.Machine.execMlpass a m s
  | .wait l fs c t => Sys2Proof.Machine.execWait l fs c t s
  | .fence fs k d => Sys2Proof.Machine.execFence fs k d s
  | .tfence fs => Sys2Proof.Machine.execTfence fs s
  | .ifence fs => Sys2Proof.Machine.execIfence fs s
  | .take d => Sys2Proof.Machine.execTake d s
  | .hput a n => Sys2Proof.Machine.execHput a n s
  | .hget d n => Sys2Proof.Machine.execHget d n s
  | .cpy c fs x dir k cmp bar => Sys2Proof.Machine.execCpy c fs x dir k cmp bar s
  | .cpyg c fs x dir k cmp bar => Sys2Proof.Machine.execCpyg c fs x dir k cmp bar s
  | .cpyt t a tgt dir cmp bar len row => Sys2Proof.Machine.execCpyt t a tgt dir cmp bar len row s
  | .resv u c b bs fs n bl soff => Sys2Proof.Machine.execResv u c b bs fs n bl soff s
  | .relsUnit u => Sys2Proof.Machine.execRelsUnit u s
  | .relsWaypoint n => Sys2Proof.Machine.execRelsWaypoint n s
  | .mma d a b ba keep u cmp bar rf => Sys2Proof.Machine.execMma d a b ba keep u cmp bar rf s
  | .mmab d a b ba keep u cmp bar rf => Sys2Proof.Machine.execMmab d a b ba keep u cmp bar rf s
  | .mmaj d a b ba keep u cmp bar rf => Sys2Proof.Machine.execMmaj d a b ba keep u cmp bar rf s
  | .tzero d => Sys2Proof.Machine.execTzero d s
  | .tld d a acc c n => Sys2Proof.Machine.execTld d a acc c n s
  | .tst d a acc c n cmp bar => Sys2Proof.Machine.execTst d a acc c n cmp bar s
  | .fmtw a n => Sys2Proof.Machine.execFmtw a n s
  | .fmtr d n => Sys2Proof.Machine.execFmtr d n s
  | .srr d n => Sys2Proof.Machine.execSrr d n s
  | .srw a n => Sys2Proof.Machine.execSrw a n s
  | .tclaim n => Sys2Proof.Machine.execTclaim n s
  | .xrfetch b a d => Sys2Proof.Machine.execXrfetch b a d s
  | .xbfext l p a d => Sys2Proof.Machine.execXbfext l p a d s
  | .xswait b a d => Sys2Proof.Machine.execXswait b a d s
  | .xdisp a d => Sys2Proof.Machine.execXdisp a d s
  | .xmeas a d => Sys2Proof.Machine.execXmeas a d s
  | .xswaitReturn proc => Sys2Proof.Machine.execXswaitReturn proc s
  | .evackWrite val => Sys2Proof.Machine.execEvackWrite val s
  | .kick vd q val => Sys2Proof.Machine.execKick vd q val s
  | .rearm vd q val => Sys2Proof.Machine.execRearm vd q val s
  | .queueDrain vd q val => Sys2Proof.Machine.execQueueDrain vd q val s
  | .queueResume vd q val => Sys2Proof.Machine.execQueueResume vd q val s
  | .queueEnable vd q val => Sys2Proof.Machine.execQueueEnable vd q val s
  | .queueDisable vd q val => Sys2Proof.Machine.execQueueDisable vd q val s
  | .pointRequest vd cluster val => Sys2Proof.Machine.execPointRequest vd cluster val s
  | .poolTableWrite island point val => Sys2Proof.Machine.execPoolTableWrite island point val s
  | .registerWrite fn off size val => Sys2Proof.Machine.execRegisterWrite fn off size val s
  | .islandPowerUp island => Sys2Proof.Machine.execIslandPowerUp island s
  | .ringCycle island => Sys2Proof.Machine.execRingCycle island s
  | .claimOpen island stop => Sys2Proof.Machine.execClaimOpen island stop s
  | .holdWindowEnd island => Sys2Proof.Machine.execHoldWindowEnd island s
  | .tclaimComplete convoy => Sys2Proof.Machine.execTclaimComplete convoy s
  | .spillRetry convoy => Sys2Proof.Machine.execSpillRetry convoy s
  | .former core quad slot => Sys2Proof.Machine.execFormer core quad slot s
  | .formationWaitExpiry core quad slot addr => Sys2Proof.Machine.execFormationWaitExpiry core quad slot addr s
  | .baraArrive convoy => Sys2Proof.Machine.execBaraArrive convoy s
  | .barwRelease convoy => Sys2Proof.Machine.execBarwRelease convoy s
  | .mlpassRecord run => Sys2Proof.Machine.execMlpassRecord run s
  | .mlwaitRelease convoy => Sys2Proof.Machine.execMlwaitRelease convoy s
  | .waitRelease convoy => Sys2Proof.Machine.execWaitRelease convoy s
  | .fenceComplete convoy => Sys2Proof.Machine.execFenceComplete convoy s
  | .tfenceComplete convoy => Sys2Proof.Machine.execTfenceComplete convoy s
  | .ifenceComplete convoy => Sys2Proof.Machine.execIfenceComplete convoy s
  | .hputPerform convoy => Sys2Proof.Machine.execHputPerform convoy s
  | .hgetPerform convoy => Sys2Proof.Machine.execHgetPerform convoy s
  | .takeReturn convoy => Sys2Proof.Machine.execTakeReturn convoy s
  | .spawnComplete convoy => Sys2Proof.Machine.execSpawnComplete convoy s
  | .rowFree thread => Sys2Proof.Machine.execRowFree thread s
  | .regionWriteback crew => Sys2Proof.Machine.execRegionWriteback crew s
  | .runComplete run => Sys2Proof.Machine.execRunComplete run s
  | .fetchSlot vd q => Sys2Proof.Machine.execFetchSlot vd q s
  | .fetchRetry vd q => Sys2Proof.Machine.execFetchRetry vd q s
  | .eventWaitEval part => Sys2Proof.Machine.execEventWaitEval part s
  | .dispatch part => Sys2Proof.Machine.execDispatch part s
  | .crewStart crew => Sys2Proof.Machine.execCrewStart crew s
  | .streamOut crew => Sys2Proof.Machine.execStreamOut crew s
  | .streamIn crew core slot => Sys2Proof.Machine.execStreamIn crew core slot s
  | .reselect core => Sys2Proof.Machine.execReselect core s
  | .residencyTimeout core ctx => Sys2Proof.Machine.execResidencyTimeout core ctx s
  | .leaseAnswer core ctx => Sys2Proof.Machine.execLeaseAnswer core ctx s
  | .correct dom measured => Sys2Proof.Machine.execCorrect dom measured s
  | .limitBindChange watts => Sys2Proof.Machine.execLimitBindChange watts s
  | .poolHalve watts => Sys2Proof.Machine.execPoolHalve watts s
  | .poolRestore watts => Sys2Proof.Machine.execPoolRestore watts s
  | .budgetWindow slice => Sys2Proof.Machine.execBudgetWindow slice s
  | .pointChangeComplete island => Sys2Proof.Machine.execPointChangeComplete island s
  | .plobritEpoch demand => Sys2Proof.Machine.execPlobritEpoch demand s
  | .silentMember pkg => Sys2Proof.Machine.execSilentMember pkg s
  | .budgetMessage pkg epoch demand weight group => Sys2Proof.Machine.execBudgetMessage pkg epoch demand weight group s
  | .loadComplete id part => Sys2Proof.Machine.execLoadComplete id part s
  | .storePerformed id => Sys2Proof.Machine.execStorePerformed id s
  | .atomicPerformed id => Sys2Proof.Machine.execAtomicPerformed id s
  | .sideLogReplay core ctx page => Sys2Proof.Machine.execSideLogReplay core ctx page s
  | .matrixEntryStart core => Sys2Proof.Machine.execMatrixEntryStart core s
  | .matrixEntryComplete core => Sys2Proof.Machine.execMatrixEntryComplete core s
  | .copyStart core => Sys2Proof.Machine.execCopyStart core s
  | .copyComplete core => Sys2Proof.Machine.execCopyComplete core s
  | .mscServe id => Sys2Proof.Machine.execMscServe id s
  | .resealTile slot slice => Sys2Proof.Machine.execResealTile slot slice s
  | .resealEnd slot => Sys2Proof.Machine.execResealEnd slot s
  | .fwSramUncorrectable proc => Sys2Proof.Machine.execFwSramUncorrectable proc s
  | .transferActivate pc cycle => Sys2Proof.Machine.execTransferActivate pc cycle s
  | .tileTransferComplete pc bank cycle => Sys2Proof.Machine.execTileTransferComplete pc bank cycle s
  | .refreshDue pc cycle => Sys2Proof.Machine.execRefreshDue pc cycle s
  | .pseudoChannelIdle pc cycle => Sys2Proof.Machine.execPseudoChannelIdle pc cycle s
  | .refpbIssue pc cycle => Sys2Proof.Machine.execRefpbIssue pc cycle s
  | .refabIssue pc cycle => Sys2Proof.Machine.execRefabIssue pc cycle s
  | .refabEnd pc cycle => Sys2Proof.Machine.execRefabEnd pc cycle s
  | .scrubPassStart slice => Sys2Proof.Machine.execScrubPassStart slice s
  | .scrubTile slice result => Sys2Proof.Machine.execScrubTile slice result s
  | .clusterRetire cluster => Sys2Proof.Machine.execClusterRetire cluster s
  | .wearMonitorUpdate cluster hours => Sys2Proof.Machine.execWearMonitorUpdate cluster hours s
  | .surveyUpdate elapsed => Sys2Proof.Machine.execSurveyUpdate elapsed s
  | .hostMemRequest addr write val => Sys2Proof.Machine.execHostMemRequest addr write val s
  | .hostTimeout ctx => Sys2Proof.Machine.execHostTimeout ctx s
  | .lockInterface vd ide => Sys2Proof.Machine.execLockInterface vd ide s
  | .startInterface vd => Sys2Proof.Machine.execStartInterface vd s
  | .stopInterface vd => Sys2Proof.Machine.execStopInterface vd s
  | .interfaceError vd => Sys2Proof.Machine.execInterfaceError vd s
  | .unlockToken token => Sys2Proof.Machine.execUnlockToken token s
  | .deployCommand signature => Sys2Proof.Machine.execDeployCommand signature s
  | .decommissionCommand signature => Sys2Proof.Machine.execDecommissionCommand signature s
  | .handoverStage kind image signature => Sys2Proof.Machine.execHandoverStage kind image signature s
  | .safePoint proc => Sys2Proof.Machine.execSafePoint proc s
  | .flitReceive port header payload crc laneBad => Sys2Proof.Machine.execFlitReceive port header payload crc laneBad s
  | .nak port seq laneBad => Sys2Proof.Machine.execNak port seq laneBad s
  | .ackTimeout port => Sys2Proof.Machine.execAckTimeout port s
  | .freezeEnd port => Sys2Proof.Machine.execFreezeEnd port s
  | .freezeTimeout port => Sys2Proof.Machine.execFreezeTimeout port s
  | .fabricRequest port pkg vd addr write val => Sys2Proof.Machine.execFabricRequest port pkg vd addr write val s
  | .islandPowerDown island => Sys2Proof.Machine.execIslandPowerDown island s
  | .coreClockGate core => Sys2Proof.Machine.execCoreClockGate core s
  | .coreClockUngate core => Sys2Proof.Machine.execCoreClockUngate core s
  | .poisonedFrameRetire frame => Sys2Proof.Machine.execPoisonedFrameRetire frame s
  | .ret => Sys2Proof.Machine.execRet s
  | .exit => Sys2Proof.Machine.execExit s
  | .brk => Sys2Proof.Machine.execBrk s
  | .nop => Sys2Proof.Machine.execNop s
  | .yield => Sys2Proof.Machine.execYield s
  | .tfree => Sys2Proof.Machine.execTfree s
  | .contextCreate => Sys2Proof.Machine.execContextCreate s
  | .contextRewrite => Sys2Proof.Machine.execContextRewrite s
  | .bucketDeposit => Sys2Proof.Machine.execBucketDeposit s
  | .bucketCapWrite => Sys2Proof.Machine.execBucketCapWrite s
  | .bucketShareWrite => Sys2Proof.Machine.execBucketShareWrite s
  | .bucketRead => Sys2Proof.Machine.execBucketRead s
  | .setAllow => Sys2Proof.Machine.execSetAllow s
  | .wayMaskWrite => Sys2Proof.Machine.execWayMaskWrite s
  | .hdmBind => Sys2Proof.Machine.execHdmBind s
  | .hdmMove => Sys2Proof.Machine.execHdmMove s
  | .hdmClear => Sys2Proof.Machine.execHdmClear s
  | .setSustainedLimit => Sys2Proof.Machine.execSetSustainedLimit s
  | .setRackCap => Sys2Proof.Machine.execSetRackCap s
  | .meterRecordRequest => Sys2Proof.Machine.execMeterRecordRequest s
  | .streamOutOrder => Sys2Proof.Machine.execStreamOutOrder s
  | .vdDrainSet => Sys2Proof.Machine.execVdDrainSet s
  | .vdDrainClear => Sys2Proof.Machine.execVdDrainClear s
  | .deviceDrainSet => Sys2Proof.Machine.execDeviceDrainSet s
  | .deviceDrainClear => Sys2Proof.Machine.execDeviceDrainClear s
  | .pageResume => Sys2Proof.Machine.execPageResume s
  | .pageInvalid => Sys2Proof.Machine.execPageInvalid s
  | .frameOwnerChange => Sys2Proof.Machine.execFrameOwnerChange s
  | .partitionCreate => Sys2Proof.Machine.execPartitionCreate s
  | .partitionDestroy => Sys2Proof.Machine.execPartitionDestroy s
  | .vdAttach => Sys2Proof.Machine.execVdAttach s
  | .vdDetach => Sys2Proof.Machine.execVdDetach s
  | .importWrite => Sys2Proof.Machine.execImportWrite s
  | .importClear => Sys2Proof.Machine.execImportClear s
  | .contextDestroy => Sys2Proof.Machine.execContextDestroy s
  | .eventRingEnable => Sys2Proof.Machine.execEventRingEnable s
  | .eventRingDisable => Sys2Proof.Machine.execEventRingDisable s
  | .deviceReset => Sys2Proof.Machine.execDeviceReset s
  | .dispatchWindow => Sys2Proof.Machine.execDispatchWindow s
  | .softErrorWindow => Sys2Proof.Machine.execSoftErrorWindow s
  | .linkLost => Sys2Proof.Machine.execLinkLost s
  | .getMeasurements => Sys2Proof.Machine.execGetMeasurements s
  | .keyExchange => Sys2Proof.Machine.execKeyExchange s
  | .handoverAbort => Sys2Proof.Machine.execHandoverAbort s
  | .unlockChallenge => Sys2Proof.Machine.execUnlockChallenge s
  | .mailboxUnknownCommand => Sys2Proof.Machine.execMailboxUnknownCommand s

end Sys2Proof.Machine
end

