-- ==== Sys2Proof/Machine/Agenda.lean ====
section
/-! DEFINITION. What one step is made of: an event that is due, a firmware processor's next word, the next instruction of a convoy that
the arbitration let issue, or, when nothing is due, a ring cycle of the island whose turn it is (log 1). -/

namespace Sys2Proof.Machine

/-- The outcome type of the machine. -/
abbrev Outcome' := Host.Outcome State Fault Refusal

/-- Firmware processor n executes the word at its pc (13 R351, R353). -/
def firmwareStep (n : Nat) (s : State) : Outcome' :=
  match fwFetch s n with
  | .instr i => exec i { s with cur := fwCur n }
  | .illegal => .next (fwIllegal s n)
  | .base => .next (fwBase s n)
  | .idle => .next s

/-- Convoy k fetches and executes the instruction at its PC (14 R370, R371, R374); what holds a held one is evaluated again. -/
def convoyStep (k : Nat) (s : State) : Outcome' :=
  if (s.convoy k).hold ≠ .none then .next (s.post (heldEvent s k))
  else
    let r := fetchStep s k
    match r.2 with
    | some i => exec i r.1
    | none => .next r.1

/-- Ends of the correction intervals of the memory and port domains, with the slice cycle that is over (09 R244). What a regulator has measured is a
free value (log 76). -/
def sliceEnds (s : State) : List Instr :=
  if s.msc.cycle % 65536 = 65535 then (List.range 32).map fun n => .correct (256 + n) ((s.dom (256 + n)).read + 64 * Config.measured (256 + n) s.fresh)
  else []

/-- Windows of the byte budgets that start with a slice cycle (09 R259). -/
def windowsDue (s : State) : List Instr := if s.msc.cycle % 4096 = 0 then (List.range 16).map .budgetWindow else []

/-- End of an island's correction interval: its measurement, and what its ageing monitor reports (09 R244, 11 R320). -/
def intervalDue (s : State) (isl : Nat) : List Instr :=
  if intervalEnds s isl && ((s.island isl).state == .enabled || (s.island isl).state == .marked) then
    [.correct isl ((s.dom isl).read + 64 * Config.measured isl s.fresh), .wearMonitorUpdate isl (Config.lifeHours isl s.fresh)]
  else []

/-- A round of the islands begins with a slice cycle, which is a controller cycle too (log 41), in which the firmware processors execute an
instruction each and what the passing of time brings becomes due (log 1). The first after reset is cycle 0. -/
def beginRound (s : State) : State :=
  let cycle := if s.msc.round = .new then s.msc.cycle else s.msc.cycle + 1
  let s1 := returnFills (arriveFills { s with msc := { s.msc with cycle, round := .on }, fwIssue := fwReady s })
  let evs := windowsDue s1 ++ chanDue s1 ++ idleEvents s1
  if evs.isEmpty then s1 else s1.bump.post evs

/-- The island whose turn it is takes its next ring cycle, after what comes before it. -/
def islandTurn (s : State) : Outcome' :=
  let ends := intervalDue s s.turn
  let s1 := if ends.isEmpty then s else s.bump
  let s2 := { s1 with turn := (s.turn + 1) % 256, msc := if s.turn = 255 then { s1.msc with round := .over } else s1.msc }
  match s.due ++ ends ++ clusterDue s s.turn with
  | [] => exec (.ringCycle s.turn) s2
  | i :: rest => exec i { s2 with due := rest ++ [.ringCycle s.turn] }

/-- Nothing is due: the slices' intervals end, or the next island has its turn. -/
def idleStep (s : State) : Outcome' :=
  if s.turn = 0 then
    match s.msc.round, sliceEnds s with
    | .over, i :: rest => exec i { s.bump with msc := { s.msc with round := .closed }, due := rest }
    | .on, _ => islandTurn s
    | _, _ => islandTurn (beginRound s)
  else islandTurn s

/-- The engine completions of a core cycle reach their barriers, in completion order (15 R404). -/
def settleBarriers (s : State) : State := s.barBytes.foldl (fun x p => barComplete x p.1 p.2.1 p.2.2) { s with barBytes := [] }

/-- One step of the device. -/
def deviceStep (s : State) : Outcome' :=
  match s.due with
  | i :: rest => exec i { s with due := rest }
  | [] =>
    match s.fwIssue with
    | n :: rest => firmwareStep n { s with fwIssue := rest }
    | [] =>
      match s.issue with
      | k :: rest => convoyStep k { s with issue := rest }
      | [] => if s.barBytes.isEmpty then idleStep s else .next (settleBarriers s)

/-! ### Placing one instruction where the next fetch finds it (log 9) -/

/-- Virtual and physical address at which a convoy of `withConvoy` fetches. -/
def placeVa : Nat := 0x1000

/-- A context with a frame of its VD, a run, a crew in slot 0 of core 0, a thread in lane 0 and its convoy, all under the key `n`. -/
def withConvoy (s : State) (n : Nat) : State :=
  let s0 := { s with sealing := { s.sealing with owners := Tab.set {} (placeVa / 4096) { owner := (s.ctx n).vd + 1 } s.sealing.owners } }
  let s1 := s0.setCtx n { s0.ctx n with used := true }
  let s2 := s1.setRun n { s.run n with live := true, ctx := n }
  let s3 := s2.setCrew n { s.crew n with phase := .running, ctx := n, run := n }
  let s4 := s3.setCore 0 { s3.core 0 with slot0 := n }
  let s5 := s4.setThread (tkey 0 0 0 0) { s4.thread (tkey 0 0 0 0) with state := .inConvoy, crew := n }
  s5.setConvoy n { s5.convoy n with crew := n, members := [(0, 0)], pc := placeVa }

/-- The page of a convoy's PC is mapped to the same physical page, with X, where the core TLB has no entry of it. -/
def withPage (s : State) (k : Nat) : State :=
  let c := s.convoy k
  let ctx := (s.crew c.crew).ctx
  let vd := (s.ctx ctx).vd
  match tlbFind (s.core c.core).tlb ctx vd c.pc with
  | some _ => s
  | none =>
    let page := c.pc / 4096 * 4096
    addCoreTlb s c.core { ctx, vd, va := page, size := 4096, pa := page, w := false, x := true, h := false, rd := true, wr := false }

/-- Words of a convoy's instruction at the physical address of its PC; the instruction path and the convoy hold no older ones, and
nothing holds the convoy. -/
def withWords (s : State) (k w : Nat) : State :=
  let c := s.convoy k
  let ctx := (s.crew c.crew).ctx
  let pa := match tlbFind (s.core c.core).tlb ctx (s.ctx ctx).vd c.pc with | some e => e.pa + (c.pc - e.va) | none => c.pc
  let co := s.core c.core
  let s0 := (s.setConvoy k { c with hold := .none }).setHand k none
  let s1 := s0.setCore c.core { co with ipath := co.ipath.filter fun e => !(e.1 == ctx && (e.2.1 == c.pc || e.2.1 == c.pc + 4)) }
  { s1 with mem := Tab.putRun 0 pa (bytesOfWord (w % 2^32) ++ bytesOfWord (w / 2^32)) s1.mem }

/-- The next convoy to issue, or a new one, fetches `w`. -/
def placeConvoyWord (s : State) (w : Nat) : State :=
  let s0 := { s with due := [], fwIssue := [] }
  match s0.issue with
  | k :: _ => if (s0.convoy k).members.isEmpty then withWords (withPage (withConvoy s0 k) k) k w else withWords (withPage s0 k) k w
  | [] =>
    let n := s0.key
    withWords (withPage (withConvoy { s0.bump with issue := [n] } n) n) n w

/-- A firmware processor fetches `w` next: power controller 0 for XMEAS, command processor 0 else. -/
def placeFwWord (s : State) (w : Nat) : State :=
  let n := if w / 2^12 % 8 = 4 then 8 else 0
  let p := s.proc n
  { s.setProc n { p with halted := false, waiting := none, safe := false, sram := Tab.putRun 0 p.pc (bytesOfWord w) p.sram } with due := [], fwIssue := [n] }

end Sys2Proof.Machine
end

