-- ==== Sys2Proof/Machine/Step.lean ====
section
/-! DEFINITION. The step of the device, and the placing of one instruction where that step fetches it. -/

namespace Sys2Proof.Machine

/-- One step. -/
def step (s : State) : Host.Outcome State Fault Refusal := deviceStep s

/-- `s` with the instruction of bits `w` where the next step fetches it; bits above `_nbits` are zero. Words that decode as Xfolale
words are a firmware processor's (log 9). -/
def State.withFetchWord (s : State) (_nbits w : Nat) : State :=
  if w % 128 = 0x0B ∧ w < 2^32 ∧ (decodeX w).isSome then placeFwWord s w else placeConvoyWord s w

end Sys2Proof.Machine
end

