-- ==== Sys2Proof/Machine/Renvas.lean ====
section
/-! DEFINITION. renvas statements (14 R385-R390): the words that one line of source text stands for. A statement is read into
a row of `rows` (mnemonic, modifier classes, operand forms), each modifier and operand adds its field to the row's words, and
the words count only when `decode` accepts them, so that no reserved encoding is ever emitted (R390). Text is the list of its
ASCII codes. notes/assumptions/81 names the readings taken. -/

namespace Sys2Proof.Renvas

/-- ASCII text (R385). -/
abbrev Text := List Nat

/-- The text of a literal. -/
def tx (s : String) : Text := s.toList.map Char.toNat

/-! ### Characters and pieces -/

def isBlank (c : Nat) : Bool := c == 32 || c == 9
def isDigit (c : Nat) : Bool := decide (48 ≤ c) && decide (c ≤ 57)
/-- A letter or underscore (R386). -/
def isLetter (c : Nat) : Bool := (decide (65 ≤ c) && decide (c ≤ 90)) || (decide (97 ≤ c) && decide (c ≤ 122)) || c == 95
def isIdent (c : Nat) : Bool := isLetter c || isDigit c

/-- Text without regard to case (R386). -/
def lower (t : Text) : Text := t.map fun c => if 65 ≤ c ∧ c ≤ 90 then c + 32 else c

/-- Text without the blanks around it. -/
def trim (t : Text) : Text := ((t.dropWhile isBlank).reverse.dropWhile isBlank).reverse

/-- The pieces between the occurrences of `c`. -/
def cut (c : Nat) : Text → List Text
  | [] => [[]]
  | x :: xs => match cut c xs with
    | [] => [[x]]
    | p :: ps => if x == c then [] :: p :: ps else (x :: p) :: ps

/-- An identifier: a letter or underscore and up to 62 letters, digits or underscores (R386). -/
def ident : Text → Bool
  | [] => false
  | c :: cs => isLetter c && cs.all isIdent && decide (cs.length ≤ 62)

/-! ### Numbers and expressions (R387) -/

def digitOf (c : Nat) : Option Nat :=
  if isDigit c then some (c - 48)
  else if 65 ≤ c ∧ c ≤ 70 then some (c - 55)
  else if 97 ≤ c ∧ c ≤ 102 then some (c - 87)
  else none

/-- Digits of a base; an underscore stands only between two digits. `after`: the last character was a digit. -/
def digits (base : Nat) : Text → Nat → Bool → Option Nat
  | [], acc, after => if after then some acc else none
  | c :: cs, acc, after =>
    if c == 95 then (if after then digits base cs acc false else none)
    else match digitOf c with
      | some d => if d < base then digits base cs (acc * base + d) true else none
      | none => none

/-- A number without sign, and whether it is a hexadecimal or binary literal. -/
def number : Text → Option (Nat × Bool)
  | 48 :: 120 :: r => (digits 16 r 0 false).map (·, true)
  | 48 :: 98 :: r => (digits 2 r 0 false).map (·, true)
  | t => (digits 10 t 0 false).map (·, false)

/-- A label with its section, or an .equ constant. -/
structure Sym where
  name : Text
  val : Int
  sect : Option Text
deriving DecidableEq, Repr, Inhabited

/-- The value of an expression: `parts` holds how often the addresses of each section stand in it, `lit` a literal standing alone. -/
structure Val where
  v : Int
  parts : List (Text × Int)
  lit : Bool
deriving DecidableEq, Repr, Inhabited

/-- The terms of an expression with their signs; a minus where a term begins belongs to the term. -/
def terms : Text → Bool → Text → List (Bool × Text)
  | [], neg, cur => [(neg, trim cur.reverse)]
  | c :: cs, neg, cur =>
    if (c == 43 || c == 45) && !(c == 45 && (trim cur).isEmpty) then (neg, trim cur.reverse) :: terms cs (c == 45) []
    else terms cs neg (c :: cur)

/-- A term: a number (decimal ones with an optional minus), a symbol or a label. -/
def termVal (syms : List Sym) (t : Text) : Option Val :=
  match t with
  | [] => none
  | 45 :: r => (digits 10 r 0 false).map fun n => ⟨-(n : Int), [], false⟩
  | c :: _ =>
    if isDigit c then (number t).map fun n => ⟨n.1, [], n.2⟩
    else if ident t then (syms.find? (·.name == t)).map fun s => ⟨s.val, s.sect.toList.map (·, 1), false⟩
    else none

/-- `n` more addresses of section `s`. -/
def addPart (s : Text) (n : Int) : List (Text × Int) → List (Text × Int)
  | [] => [(s, n)]
  | p :: ps => if p.1 == s then (s, p.2 + n) :: ps else p :: addPart s n ps

/-- A value plus or minus a term's. -/
def Val.add (a : Val) (neg : Bool) (b : Val) : Val :=
  { v := if neg then a.v - b.v else a.v + b.v, lit := false
    parts := b.parts.foldl (fun ps p => addPart p.1 (if neg then -p.2 else p.2) ps) a.parts }

/-- The terms after the first, added up. -/
def sumVal (syms : List Sym) (a : Val) : List (Bool × Text) → Option Val
  | [] => some a
  | p :: ps => match termVal syms p.2 with
    | some b => sumVal syms (a.add p.1 b) ps
    | none => none

/-- An expression: terms joined by + and −. -/
def exprVal (syms : List Sym) (t : Text) : Option Val :=
  match terms t false [] with
  | [] => none
  | p :: ps => (termVal syms p.2).bind fun a => sumVal syms a ps

/-- The addresses of every section cancel: a constant (R387). -/
def Val.const (v : Val) : Bool := v.parts.all (·.2 == 0)

/-- An expression where no address is held. -/
def constVal (syms : List Sym) (t : Text) : Option Val := (exprVal syms t).filter Val.const

/-- A value of an unsigned field of `w` bits. -/
def unsignedField (w : Nat) (v : Val) : Option Nat := if 0 ≤ v.v ∧ v.v < 2^w then some v.v.toNat else none

/-- A value of a signed field: a literal standing alone is the field's bit pattern, any other value lies in the signed range. -/
def signedField (w : Nat) (v : Val) : Option Nat :=
  if v.lit then unsignedField w v
  else if -(2^(w - 1)) ≤ v.v ∧ v.v < 2^(w - 1) then some (v.v % 2^w).toNat else none

/-- The imm32 field of MOVX takes both ranges (R387, 16 R465). -/
def imm32Field (v : Val) : Option Nat :=
  if -(2^31) ≤ v.v ∧ v.v < 2^32 then some (v.v % 2^32).toNat else none

/-- A constant number of at most `hi`. -/
def numUpto (syms : List Sym) (hi : Nat) (t : Text) : Option Nat :=
  (constVal syms t).bind fun v => if 0 ≤ v.v ∧ v.v ≤ hi then some v.v.toNat else none

/-- The displacement, in words and `w` bits, from a branch at `pc` to a target (R382): the sum is taken modulo 2^64. -/
def dispField (w pc : Nat) (v : Val) : Option Nat :=
  let d : Int := (v.v - pc + 2^63) % 2^64 - 2^63
  if v.v < 0 ∨ 2^64 ≤ v.v ∨ d % 4 ≠ 0 then none
  else if -(2^(w - 1)) ≤ d / 4 ∧ d / 4 < 2^(w - 1) then some (d / 4 % 2^w).toNat else none

/-! ### Operands (R388) -/

/-- The rest of a text after a given beginning, in any case. -/
def after : Text → Text → Option Text
  | [], t => some t
  | _ :: _, [] => none
  | p :: ps, c :: cs => if lower [c] == [p] then after ps cs else none

/-- A register of one kind, numbered 0 to `hi`, its number without leading zeros. -/
def reg (kind : String) (hi : Nat) (t : Text) : Option Nat :=
  match after (tx kind) t with
  | some r =>
    if r.all isDigit && (r == [48] || r.head? != some 48) then (digits 10 r 0 false).filter (decide <| · ≤ hi) else none
  | none => none

/-- The kinds of numbered registers and their highest numbers. -/
def regKinds : List (String × Nat) :=
  [("v", 63), ("g", 63), ("q", 7), ("k", 15), ("w", 15), ("b", 127), ("f", 7), ("acc", 7), ("ob", 63)]

/-- System registers with names of their own (03 R95). -/
def sysNames : List (String × Nat) :=
  [("lane", 0), ("quad", 1), ("core", 2), ("cluster", 3), ("cohort", 4), ("crew", 5), ("run", 6), ("stage", 7), ("ncrew", 8), ("pc", 0x10),
   ("rsm", 0x20), ("seed", 0x21), ("srseed", 0x22), ("trpc", 0x30), ("trcause", 0x31), ("traddr", 0x32), ("trval", 0x33), ("trlane", 0x34),
   ("ocl", 0x40), ("ocs", 0x41), ("occ", 0x42), ("oct", 0x43), ("llat", 0x44), ("tolls", 0x50), ("acct", 0x51), ("island", 0x52)]

/-- KnLO and KnHI: the k register and the half (03 R95). -/
def sysHalf (t : Text) : Option Nat :=
  let r := t.reverse
  match after (tx "ol") r, after (tx "ih") r with
  | some k, _ => (reg "k" 15 k.reverse).map fun n => 0x100 + 2 * n
  | none, some k => (reg "k" 15 k.reverse).map fun n => 0x101 + 2 * n
  | none, none => none

/-- A system register's number by its name. -/
def sysName (t : Text) : Option Nat :=
  match sysNames.find? fun p => tx p.1 == lower t with
  | some p => some p.2
  | none => (sysHalf t).or ((reg "w" 15 t).map (0x120 + ·))

/-- The text inside brackets that close the operand, and the text before them. -/
def bracketed (t : Text) : Option (Text × Text) :=
  match cut 91 t with
  | [a, b] => match b.reverse with
    | 93 :: i => some (trim a, trim i.reverse)
    | _ => none
  | _ => none

/-- What an operand may be and where its fields lie: `w` names the word, `lo` the lowest bit. -/
inductive Form where
  /-- A register of one kind. -/
  | reg (kind : String) (hi w lo : Nat)
  /-- A v or g register in bits 12:6 of an LR word. -/
  | x
  /-- The barrier of a second word, which sets CMP (R383). -/
  | barrier
  /-- A g register in bits 12:7 with its presence bit. -/
  | band (bit : Nat)
  /-- kK[vI+off] or kK[vI] of an LM word. -/
  | mem
  /-- kK[vI] of an LA word. -/
  | memA
  /-- accB[gA] of TLD and TST. -/
  | tile
  /-- obU or accD:row of CPYT. -/
  | target
  /-- A system register of thread scope or of another. -/
  | sys (thread : Bool)
  /-- A signed or unsigned immediate. -/
  | imm (signed : Bool) (width lo : Nat)
  /-- The second word of MOVX. -/
  | imm32
  /-- A number of at most `hi`. -/
  | num (hi lo : Nat)
  /-- A count from 1 to `hi`, held less one. -/
  | count (hi lo : Nat)
  /-- The byte count of CPYT, held as LEN = bytes ÷ 128 − 1. -/
  | bytes
  /-- The block length L of RESV, held as BL. -/
  | block
  /-- The scale offset of RESV, held ÷ 128. -/
  | scaleOff
  /-- A branch target. -/
  | disp (width : Nat)
deriving DecidableEq, Repr, Inhabited

/-- A field's value in word 0 or word 1. -/
def at_ (w lo v : Nat) : Nat × Nat := if w = 0 then (put v lo, 0) else (0, put v lo)

/-- What an operand of a form adds to the words of a statement at `pc`; none where it is of the wrong kind or outside its field. -/
def operand (syms : List Sym) (pc : Nat) (f : Form) (t : Text) : Option (Nat × Nat) :=
  match f with
  | .reg kind hi w lo => (reg kind hi t).map (at_ w lo)
  | .x => ((reg "v" 63 t).or ((reg "g" 63 t).map (64 + ·))).map (at_ 0 6)
  | .barrier => (reg "b" 127 t).map fun n => (0, put 1 24 + put n 17)
  | .band bit => (reg "g" 63 t).map fun n => (put n 7 + put 1 bit, 0)
  | .mem => match bracketed t with
    | some (k, i) =>
      let p : Text × Text := match i.findIdx? (· == 43) with
        | some j => (trim (i.take j), i.drop (j + 1))
        | none => (i, [48])
      match reg "k" 15 k, reg "v" 63 p.1, numUpto syms 63 p.2 with
      | some k, some v, some o => some (put v 13 + put k 9 + put o 3, 0)
      | _, _, _ => none
    | none => none
  | .memA => match bracketed t with
    | some (k, i) => match reg "k" 15 k, reg "v" 63 i with
      | some k, some v => some (put v 13 + put k 9, 0)
      | _, _ => none
    | none => none
  | .tile => match bracketed t with
    | some (a, i) => match reg "acc" 7 a, reg "g" 63 i with
      | some a, some g => some (put g 13 + put a 7, 0)
      | _, _ => none
    | none => none
  | .target => match reg "ob" 63 t with
    | some u => some (put u 19, 0)
    | none => match cut 58 t with
      | [a, r] => match reg "acc" 7 (trim a), numUpto syms 127 (trim r) with
        | some a, some r => some (put a 19 + put 1 1, r)
        | _, _ => none
      | _ => none
  | .sys thread =>
    ((sysName t).or (numUpto syms 0x1FFF t)).bind fun n =>
      if srFirmware n || srThreadScope n == thread then some (n, 0) else none
  | .imm signed width lo => (constVal syms t).bind fun v => (if signed then signedField width v else unsignedField width v).map (at_ 0 lo)
  | .imm32 => ((constVal syms t).bind imm32Field).map ((0, ·))
  | .num hi lo => (numUpto syms hi t).map (at_ 0 lo)
  | .count hi lo => (numUpto syms hi t).bind fun n => if n = 0 then none else some (put (n - 1) lo, 0)
  | .bytes => (numUpto syms 65536 t).bind fun n => if n = 0 || n % 128 != 0 then none else some (0, put (n / 128 - 1) 8)
  | .block => (numUpto syms 32 t).bind fun n =>
      if n = 8 then some (0, put 1 30) else if n = 16 then some (0, put 2 30) else if n = 32 then some (0, put 3 30) else none
  | .scaleOff => (numUpto syms 32767 t).bind fun n => if n % 128 != 0 then none else some (0, put (n / 128) 22)
  | .disp width => ((exprVal syms t).bind (dispField width pc)).map fun d => (d, 0)

/-! ### Modifiers (R389) -/

/-- A modifier class where an instruction uses it: its spellings with the values they encode, its place, and the value that
its absence encodes where it may be left out. -/
structure Slot where
  spell : List (String × Nat)
  w : Nat
  lo : Nat
  dflt : Option Nat
deriving DecidableEq, Repr, Inhabited

def intWidth (lo : Nat) : Slot := ⟨[("4", 4), ("8", 0), ("16", 1), ("32", 2), ("64", 3)], 0, lo, none⟩
def accessWidth : Slot := ⟨[("8", 0), ("16", 1), ("32", 2), ("64", 3), ("128", 4), ("256", 5), ("512", 6)], 0, 0, none⟩
def atomWidth : Slot := ⟨[("32", 0), ("64", 1)], 0, 0, none⟩
def format (w lo : Nat) : Slot := ⟨[("f0", 0), ("f1", 1), ("f2", 2), ("f3", 3), ("f4", 4), ("f5", 5), ("f6", 6), ("f7", 7)], w, lo, none⟩
/-- Spellings numbered from `n`. -/
def numbered (n : Nat) : List String → List (String × Nat)
  | [] => []
  | x :: xs => (x, n) :: numbered (n + 1) xs
def choice (w lo : Nat) (l : List String) : Slot := ⟨numbered 0 l, w, lo, none⟩
def flag (spelled : String) (w lo : Nat) : Slot := ⟨[(spelled, 1)], w, lo, some 0⟩
def scopeAt (w lo : Nat) : Slot := choice w lo ["core", "cluster", "die", "device", "system"]
def orderAtom : Slot := { choice 1 23 ["rlx", "acq", "rel", "ar"] with dflt := some 0 }
/-- The direction of FENCE; `.rlx` is not accepted (07 R200). -/
def orderFence : Slot := ⟨[("acq", 1), ("rel", 2), ("ar", 3)], 0, 16, none⟩
/-- A spelling that only selects the row. -/
def only (spelled : String) : Slot := ⟨[(spelled, 0)], 0, 0, none⟩

/-- The first written modifier of a class, and the others. -/
def takeMod (s : Slot) : List Text → Option (Nat × List Text)
  | [] => none
  | m :: ms => match s.spell.find? fun p => tx p.1 == m with
    | some p => some (p.2, ms)
    | none => (takeMod s ms).map fun r => (r.1, m :: r.2)

/-- What the modifiers add to the words; every class once, none left over. -/
def modFields : List Slot → List Text → Option (Nat × Nat)
  | [], ms => if ms.isEmpty then some (0, 0) else none
  | s :: ss, ms =>
    let r : Option (Nat × List Text) := (takeMod s ms).or (s.dflt.map (·, ms))
    match r with
    | some (v, rest) => (modFields ss rest).map fun p => (p.1 + (at_ s.w s.lo v).1, p.2 + (at_ s.w s.lo v).2)
    | none => none

/-! ### Rows (R379, R381) -/

/-- One written form of a mnemonic: its words without fields, whether G is a guard (R378), its modifier classes and its
operands; `true` marks an operand that may be left out. -/
structure Row where
  name : String
  b0 : Nat
  b1 : Nat := 0
  guard : Bool := false
  mods : List Slot := []
  ops : List (Bool × Form) := []
deriving DecidableEq, Repr, Inhabited

/-- Operands that must stand. -/
def must (l : List Form) : List (Bool × Form) := l.map (false, ·)

def vD : Form := .reg "v" 63 0 19
def vA : Form := .reg "v" 63 0 13
def gD : Form := .reg "g" 63 0 19
def gA : Form := .reg "g" 63 0 13
def gB : Form := .reg "g" 63 0 7

/-- Rows of one shape whose first words start at `b0` and rise by a major. -/
def family (r : Row) (b0 : Nat) : List String → List Row
  | [] => []
  | n :: ns => { r with name := n, b0 } :: family r (b0 + 0x02000000) ns

def intRows : List Row :=
  family { name := "", b0 := 0, guard := true, mods := [intWidth 0], ops := must [vD, vA, .x] } 0
      ["iadd", "isub", "imul", "imulh", "imulhu", "imad", "imin", "imax", "iminu", "imaxu", "iadds", "isubs"]
    ++ family { name := "", b0 := 0, guard := true, ops := must [vD, vA, .x] } 0x1A000000 ["and", "or", "xor", "andn"]
    ++ family { name := "", b0 := 0, guard := true, mods := [intWidth 0], ops := must [vD, vA, .x] } 0x22000000 ["shl", "shr", "sar", "rol"]
    ++ [{ name := "iabs", b0 := 0x18000000, guard := true, mods := [intWidth 0], ops := must [vD, vA] },
        { name := "popc", b0 := 0x2A000000, guard := true, mods := [intWidth 0], ops := must [vD, vA] },
        { name := "clz", b0 := 0x2A000040, guard := true, mods := [intWidth 0], ops := must [vD, vA] },
        { name := "brev", b0 := 0x2A000080, guard := true, mods := [intWidth 0], ops := must [vD, vA] },
        { name := "icmp", b0 := 0x2C000000, mods := [choice 0 3 ["eq", "ne", "lt", "le", "ltu", "leu"], intWidth 0], ops := must [vD, vA, .x] },
        { name := "sel", b0 := 0x2E000000, ops := must [vD, .reg "q" 7 0 3, vA, .x] },
        { name := "mov", b0 := 0x30000000, guard := true, ops := must [vD, .x] },
        { name := "perm", b0 := 0x32000000, guard := true, ops := must [vD, vA, .x] },
        { name := "movi", b0 := 0x34000000, mods := [intWidth 0], ops := must [vD, .imm true 16 3] },
        { name := "movx", b0 := 0x36000000, mods := [choice 0 0 ["lo", "hi", "los"]], ops := must [vD, .imm32] },
        { name := "bfx", b0 := 0x38000000, guard := true, mods := [flag "s" 0 0], ops := must [vD, vA, .x] },
        { name := "bfi", b0 := 0x3A000000, guard := true, ops := must [vD, vA, .x] }]

def floatRows : List Row :=
  family { name := "", b0 := 0, guard := true, mods := [format 0 0], ops := must [vD, vA, .x] } 0x3C000000
      ["fadd", "fsub", "fmul", "ffma", "ffms", "fmin", "fmax"]
    ++ [{ name := "fcmp", b0 := 0x4A000000, mods := [choice 0 3 ["eq", "ne", "lt", "le", "un", "ord", "ult"], format 0 0], ops := must [vD, vA, .x] },
        { name := "fsgn", b0 := 0x4C000000, mods := [choice 0 3 ["abs", "neg"], format 0 0], ops := must [vD, vA] ++ [(true, .x)] },
        { name := "fsgn", b0 := 0x4C000010, mods := [choice 0 3 ["copysign", "xorsign"], format 0 0], ops := must [vD, vA, .x] },
        { name := "fspc", b0 := 0x4E000000, mods := [choice 0 3 ["rcp", "rsq", "sqrt", "exp2", "log2", "tanh"], format 0 0], ops := must [vD, vA] },
        { name := "fclass", b0 := 0x50000000, mods := [format 0 0], ops := must [vD, vA, .num 7 3] },
        { name := "cvt", b0 := 0x52000000, guard := true, mods := [format 0 0, format 0 10], ops := must [vD, vA, .num 15 6] },
        { name := "cvti", b0 := 0x54000000, guard := true, mods := [intWidth 0, format 0 10], ops := must [vD, vA, .num 15 6] },
        { name := "cvtf", b0 := 0x56000000, guard := true, mods := [format 0 0, intWidth 10], ops := must [vD, vA, .num 15 6] },
        { name := "fdot", b0 := 0x58000000, mods := [format 0 0, format 0 3], ops := must [vD, vA, .x] }]

/-- Operations of SCAN and RED (R389). -/
def scanOps : Slot := choice 0 3 ["add", "min", "max", "minu", "maxu", "and", "or", "xor"]

def crossRows : List Row :=
  [{ name := "shfl", b0 := 0x5A000000, mods := [intWidth 0], ops := must [vD, vA, .x, .reg "q" 7 0 3] },
   { name := "vote", b0 := 0x5C000000, mods := [choice 0 0 ["any", "all", "count", "ballot"]], ops := must [vD, .reg "q" 7 0 3, .x] },
   { name := "scan", b0 := 0x5E000000, mods := [scanOps, flag "exc" 0 6, intWidth 0], ops := must [vD, vA] },
   { name := "scan", b0 := 0x5E000080, mods := [only "fadd", flag "exc" 0 6, format 0 8], ops := must [vD, vA] },
   { name := "red", b0 := 0x60000000, mods := [scanOps, intWidth 0], ops := must [vD, vA] },
   { name := "red", b0 := 0x60000080, mods := [only "fadd", format 0 8], ops := must [vD, vA] },
   { name := "qop", b0 := 0x62000000, guard := true, mods := [choice 0 0 ["and", "or", "xor", "andn"]],
     ops := must [.reg "q" 7 0 19, .reg "q" 7 0 13, .reg "q" 7 0 6] },
   { name := "qop", b0 := 0x62000004, guard := true, mods := [only "not"], ops := must [.reg "q" 7 0 19, .reg "q" 7 0 13] },
   { name := "qop", b0 := 0x62000005, guard := true, mods := [choice 0 0 ["set", "clr"]], ops := must [.reg "q" 7 0 19] },
   { name := "movq", b0 := 0x64000000, guard := true, ops := must [.reg "q" 7 0 19, vA] },
   { name := "movq", b0 := 0x64000001, guard := true, ops := must [vD, .reg "q" 7 0 13] }]

/-- The atomics; the operation stands in bits 31:28 of the second word. -/
def atomRows (k : Nat) : List String → List Row
  | [] => []
  | n :: ns => { name := n, b0 := 0x6A000000, b1 := put k 28, mods := [atomWidth, orderAtom, scopeAt 1 25, flag "nr" 1 19]
                 ops := must [vD, .memA, .reg "v" 63 0 3] } :: atomRows (k + 1) ns

def memRows : List Row :=
  [{ name := "ld", b0 := 0x66000000, mods := [accessWidth], ops := must [vD, .mem] },
   { name := "st", b0 := 0x68000000, mods := [accessWidth], ops := must [vD, .mem] }]
    ++ atomRows 0 ["aadd", "aand", "aor", "axor", "amin", "amax", "aminu", "amaxu", "axchg", "acas"]
    ++ [{ name := "afadd", b0 := 0x6A000000, b1 := put 10 28, mods := [atomWidth, orderAtom, scopeAt 1 25, flag "nr" 1 19, format 1 20]
          ops := must [vD, .memA, .reg "v" 63 0 3] },
        { name := "msign", b0 := 0x6C000000, mods := [flag "s" 0 6], ops := must [vD, .reg "w" 15 0 15, .count 32 10, .reg "f" 7 0 7] }]

def groupRows : List Row :=
  family { name := "", b0 := 0, ops := must [gD, gA, gB] } 0x80000000
      ["gadd", "gsub", "gmul", "gand", "gor", "gxor", "gshl", "gshr", "gsar", "gmin", "gmax"]
    ++ [{ name := "gsel", b0 := 0x96000000, ops := must [gD, .reg "g" 63 0 0, gA, gB] },
        { name := "gaddi", b0 := 0x98000000, ops := must [gD, gA, .imm true 13 0] },
        { name := "gmovi", b0 := 0x9A000000, ops := must [gD, .imm true 19 0] },
        { name := "glui", b0 := 0x9C000000, ops := must [gD, .imm false 19 0] },
        { name := "grdl", b0 := 0x9E000000, ops := must [gD, vA, .num 31 0] },
        { name := "br", b0 := 0xA0000000, mods := [flag "not" 0 21], ops := must [.reg "q" 7 0 22, .disp 21] },
        { name := "brg", b0 := 0xA2000000, mods := [choice 0 17 ["eqz", "nez", "ltz", "gez"]], ops := must [gD, .disp 17] },
        { name := "jmp", b0 := 0xA4000000, ops := must [vA] },
        { name := "call", b0 := 0xA6000000, ops := must [.disp 21] },
        { name := "ret", b0 := 0xA8000000 },
        { name := "join", b0 := 0xAA000000, ops := must [.num 32 0] },
        { name := "exit", b0 := 0xAC000000 },
        { name := "spawn", b0 := 0xAE000000, ops := must [.num 15 21, .reg "q" 7 0 18, .reg "v" 63 0 12] },
        { name := "trap", b0 := 0xB0000000, ops := must [.num 65535 0] },
        { name := "eret", b0 := 0xB2000000, mods := [flag "skip" 0 0] },
        { name := "brk", b0 := 0xB4000000 }, { name := "nop", b0 := 0xB6000000 }, { name := "yield", b0 := 0xB8000000 }]

def syncRows : List Row :=
  [{ name := "bari", b0 := 0xBA000000, ops := must [.reg "b" 127 0 18, .reg "g" 63 0 12, .reg "g" 63 0 6] },
   { name := "bara", b0 := 0xBC000000, ops := must [.reg "b" 127 0 18] },
   { name := "barw", b0 := 0xBE000000, ops := must [.reg "b" 127 0 18, .reg "g" 63 0 12] },
   { name := "bart", b0 := 0xC0000000, ops := must [.reg "b" 127 0 18, .reg "g" 63 0 12] },
   { name := "syncm", b0 := 0xC2000000, ops := must [.reg "g" 63 0 12] },
   { name := "mlwait", b0 := 0xC4000000, ops := must [.num 127 0, gA] },
   { name := "mlpass", b0 := 0xC6000000, ops := must [.num 127 0, gA] },
   { name := "wait", b0 := 0xC8000000, ops := must [.num 63 19, .num 63 13, .num 15 9, .num 15 5] },
   { name := "fence", b0 := 0xCA000000, mods := [orderFence, scopeAt 0 22], ops := must [.num 15 18] },
   { name := "tfence", b0 := 0xCC000000, mods := [scopeAt 0 22] },
   { name := "ifence", b0 := 0xCE000000, mods := [scopeAt 0 22] },
   { name := "take", b0 := 0xD0000000, ops := must [gD] },
   { name := "hput", b0 := 0xD2000000, ops := must [gA, .num 7 0] },
   { name := "hget", b0 := 0xD4000000, ops := must [gD, .num 7 0] }]

/-- The direction of the copies. -/
def direction (lo : Nat) : Slot := choice 0 lo ["in", "out"]

def engineRows : List Row :=
  [{ name := "cpy", b0 := 0xD6000000, mods := [direction 4], ops := must [.reg "k" 15 0 0, gA, gB, gD] ++ [(true, .barrier)] },
   { name := "cpyg", b0 := 0xD8000000, mods := [direction 4], ops := must [.reg "k" 15 0 0, gA, gB, gD] ++ [(true, .barrier)] },
   { name := "cpyt", b0 := 0xDA000000, mods := [direction 0], ops := must [.target, gA, .bytes] ++ [(true, .barrier)] },
   { name := "resv", b0 := 0xDC000000, ops := must [.reg "ob" 63 0 19, .count 8 13, .reg "f" 7 0 0] ++ [(true, .band 6)] },
   { name := "resv", b0 := 0xDC000000,
     ops := must [.reg "ob" 63 0 19, .count 8 13, .reg "f" 7 0 0] ++ [(true, .band 6)] ++ must [.reg "f" 7 0 3, .block, .scaleOff] },
   { name := "rels", b0 := 0xDE000000, ops := must [.reg "ob" 63 0 0] },
   { name := "rels", b0 := 0xDE000040, ops := must [.reg "w" 15 0 0] }]
    ++ family { name := "", b0 := 0, mods := [flag "k" 0 0]
                ops := must [.reg "acc" 7 0 19, .reg "w" 15 0 13, .reg "ob" 63 1 26] ++ [(true, .band 1), (true, .barrier), (true, .reg "f" 7 1 14)] }
         0xE0000000 ["mma", "mmab", "mmaj"]
    ++ [{ name := "tzero", b0 := 0xE6000000, ops := must [.reg "acc" 7 0 19] },
        { name := "tld", b0 := 0xE8000000, ops := must [vD, .tile, .reg "f" 7 0 0, .count 16 3] },
        { name := "tst", b0 := 0xEA000000, ops := must [.tile, vD, .reg "f" 7 0 0, .count 16 3] ++ [(true, .barrier)] },
        { name := "fmtw", b0 := 0xEC000000, ops := must [.reg "f" 7 0 0, gA] },
        { name := "fmtr", b0 := 0xEE000000, ops := must [gD, .reg "f" 7 0 0] },
        { name := "srr", b0 := 0xF0000000, ops := must [vD, .sys true] },
        { name := "srr", b0 := 0xF0000000, ops := must [gD, .sys false] },
        { name := "srw", b0 := 0xF2000000, ops := must [.sys true, vA] },
        { name := "srw", b0 := 0xF2000000, ops := must [.sys false, gA] },
        { name := "tclaim", b0 := 0xF4000000, ops := must [.num 255 0] },
        { name := "tfree", b0 := 0xF6000000 }]

/-- Every written form. -/
def rows : List Row := intRows ++ floatRows ++ crossRows ++ memRows ++ groupRows ++ syncRows ++ engineRows

/-- What the operands add to the words. -/
def opFields (syms : List Sym) (pc : Nat) : List (Bool × Form) → List Text → Option (Nat × Nat)
  | [], ts => if ts.isEmpty then some (0, 0) else none
  | f :: fs, [] => if f.1 then opFields syms pc fs [] else none
  | f :: fs, t :: ts =>
    match operand syms pc f.2 t with
    | some c => (opFields syms pc fs ts).map fun p => (p.1 + c.1, p.2 + c.2)
    | none => if f.1 then opFields syms pc fs (t :: ts) else none

/-- Unit spans within the largest footprint's 64 units (R390). -/
def inRange : Instr → Bool
  | .resv u c _ _ _ _ _ _ => decide (u + c ≤ 63)
  | .cpyt t _ tgt _ _ _ len _ => tgt == 1 || decide (t * 4096 + (len + 1) * 128 ≤ 64 * 4096)
  | _ => true

/-- The words of one written form: accepted only where they decode (R390). -/
def rowWords (syms : List Sym) (pc : Nat) (guard : Option Nat) (mods ops : List Text) (r : Row) : Option (List Nat) :=
  if guard.isSome && !r.guard then none
  else
    match modFields r.mods mods, opFields syms pc r.ops ops with
    | some m, some o =>
      let w0 := r.b0 + put (guard.getD 0) 3 + m.1 + o.1
      let w1 := r.b1 + m.2 + o.2
      match decode w0 w1 with
      | some i => if inRange i then some (if lenOf w0 = 2 then [w0, w1] else [w0]) else none
      | none => none
    | _, _ => none

/-- The rows of a mnemonic. -/
def rowsOf (mn : Text) : List Row := rows.filter fun r => tx r.name == mn

/-- The words of a statement at `pc`; none where the assembler reports an error (R390). Mnemonic and modifiers in lower case. -/
def words (syms : List Sym) (pc : Nat) (guard : Option Nat) (mn : Text) (mods ops : List Text) : Option (List Nat) :=
  (rowsOf mn).findSome? (rowWords syms pc guard mods ops)

end Sys2Proof.Renvas
end

