-- ==== Sys2Proof/Machine/RenvasFile.lean ====
section
/-! DEFINITION. renvas files (14 R385, R386, R390-R394): lines, sections, labels, directives, run descriptors and what the loader maps.
`layoutLine` moves through the sections and defines labels, `lineBytes` gives a line's bytes or an error, `assemble` runs the
layout until its labels settle and then emits. The descriptor's static conditions are those of the device's own check,
`Sys2Proof.Machine.descBad` (10 R276). notes/assumptions/81 names the readings taken. -/

namespace Sys2Proof.Renvas

open Sys2Proof (leBytes)
open Sys2Proof.Machine (legalEntry descBad)

/-! ### Lines (R385) -/

/-- What a line holds after its label. -/
inductive Body where
  | empty
  | instr (guard : Option Nat) (mn : Text) (mods ops : List Text)
  | dir (name : Text) (ops : List Text)
deriving DecidableEq, Repr, Inhabited

/-- A line. -/
structure Line where
  label : Option Text := none
  body : Body := .empty
deriving DecidableEq, Repr, Inhabited

/-- Operands between commas; none where one is empty. -/
def splitOps (t : Text) : Option (List Text) :=
  if (trim t).isEmpty then some []
  else
    let ps := (cut 44 t).map trim
    if ps.any List.isEmpty then none else some ps

/-- A mnemonic with its modifiers, and its operands. -/
def instrBody (guard : Option Nat) (t : Text) : Option Body :=
  match cut 46 (lower (t.takeWhile fun c => !isBlank c)) with
  | [] => none
  | mn :: mods => (splitOps (t.dropWhile fun c => !isBlank c)).map fun ops => .instr guard mn mods ops

/-- The statement of a line without label and comment. -/
def bodyOf : Text → Option Body
  | [] => some .empty
  | 63 :: r => (reg "q" 7 (r.takeWhile fun c => !isBlank c)).bind fun g => instrBody (some g) (trim (r.dropWhile fun c => !isBlank c))
  | 46 :: r => (splitOps (r.dropWhile fun c => !isBlank c)).map fun ops => .dir (lower (r.takeWhile fun c => !isBlank c)) ops
  | t => instrBody none t

/-- A line's text: ASCII, without the CR before the LF and without its comment. -/
def bare (t : Text) : Option Text :=
  let u := match t.reverse with
    | 13 :: r => r.reverse
    | _ => t
  if u.all fun c => decide (c < 128) then some (trim (u.takeWhile fun c => c != 59)) else none

/-- One line read. -/
def lineOf (t : Text) : Option Line :=
  (bare t).bind fun u =>
    let l := u.takeWhile isIdent
    match u.dropWhile isIdent with
    | 58 :: r => if ident l then (bodyOf (trim r)).map fun b => { label := some l, body := b } else none
    | _ => (bodyOf u).map fun b => { body := b }

/-! ### Sections and labels (R386, R394) -/

/-- A section: its flags and the bytes it holds so far. -/
structure Sect where
  name : Text
  exec : Bool
  writable : Bool
  len : Nat := 0
deriving DecidableEq, Repr, Inhabited

/-- An open descriptor block: its name, DET and the directives it holds. -/
structure Block where
  name : Text
  det : Bool
  dirs : List (Text × List Text) := []
deriving DecidableEq, Repr, Inhabited

/-- Where the assembler stands. -/
structure Lay where
  sects : List Sect
  cur : Text
  block : Option Block := none
  syms : List Sym := []
deriving DecidableEq, Repr, Inhabited

/-- Assembly begins in section `text` with flag x (R394). -/
def Lay.start : Lay := { sects := [{ name := tx "text", exec := true, writable := false }], cur := tx "text" }

def Lay.sect (l : Lay) : Sect := (l.sects.find? (·.name == l.cur)).getD default

/-- The address of the next byte in the current section; `bases` are the addresses that the loader gives the sections. -/
def Lay.addr (bases : Text → Nat) (l : Lay) : Nat := bases l.cur + l.sect.len

/-- `n` more bytes in the current section. -/
def Lay.grow (l : Lay) (n : Nat) : Lay :=
  { l with sects := l.sects.map fun s => if s.name == l.cur then { s with len := s.len + n } else s }

def Lay.define (l : Lay) (y : Sym) : Lay := { l with syms := l.syms ++ [y] }

/-- The directives of a descriptor block (R392). -/
def blockDirs : List String := ["crew", "stage", "signpost", "format", "rsm", "record", "const", "seed", "trap", "entry", "region"]
/-- The others (R391). -/
def fileDirs : List String := ["run", "end", "section", "data", "bss", "align", "equ", "global"]

/-- The modifiers of R389 that are spelled as identifiers, but for the keywords of R392 (cluster, in, out) and for the formats, which
are register names too. -/
def modifierNames : List String :=
  ["eq", "ne", "lt", "le", "ltu", "leu", "un", "ord", "ult", "abs", "neg", "copysign", "xorsign", "rcp", "rsq", "sqrt", "exp2", "log2",
   "tanh", "any", "all", "count", "ballot"]
    ++ ["add", "min", "max", "minu", "maxu", "and", "or", "xor", "fadd", "andn", "not", "set", "clr", "eqz", "nez", "ltz", "gez"]
    ++ ["core", "die", "device", "system", "rlx", "acq", "rel", "ar", "lo", "hi", "los", "s", "k", "exc", "skip", "nr"]

/-- The names that a label or symbol must not have (R386): mnemonics, modifiers, register names and directive names, in any case. -/
def reserved (t : Text) : Bool :=
  let u := lower t
  (rows.any fun r => tx r.name == u) || (regKinds.any fun k => (reg k.1 k.2 t).isSome) || (sysName t).isSome
    || ((modifierNames ++ blockDirs ++ fileDirs).any fun d => tx d == u)

/-- A new label or symbol: an identifier, not reserved, not defined before in the file. -/
def fresh (l : Lay) (t : Text) : Bool := ident t && !reserved t && !(l.syms.any (·.name == t))

/-- Bytes from `a` to the next multiple of `n`. -/
def padTo (n a : Nat) : Nat := (n - a % n) % n

/-- The power of two of an .align. -/
def alignOf (syms : List Sym) (t : Text) : Option Nat :=
  (numUpto syms 4096 t).filter fun n => [4, 8, 16, 32, 64, 128, 256, 512, 1024, 2048, 4096].contains n

/-- Flags of a .section: (x, w); they are never combined. -/
def flagsOf (t : Text) : Option (Bool × Bool) :=
  let u := lower t
  if u == tx "x" then some (true, false) else if u == tx "w" then some (false, true) else none

/-- The section that a .section opens or resumes. -/
def openSect (l : Lay) : List Text → Option Lay
  | [n] =>
    if !ident n then none
    else if l.sects.any (·.name == n) then some { l with cur := n }
    else some { l with sects := l.sects ++ [{ name := n, exec := false, writable := false }], cur := n }
  | [n, f] =>
    match flagsOf f, l.sects.find? (·.name == n) with
    | some (x, w), some s => if s.exec == x && s.writable == w then some { l with cur := n } else none
    | some (x, w), none => if ident n then some { l with sects := l.sects ++ [{ name := n, exec := x, writable := w }], cur := n } else none
    | none, _ => none
  | _ => none

/-- The record directives of a block. -/
def Block.hasRecord (b : Block) : Bool := b.dirs.any fun d => d.1 == tx "record"

/-- How many bytes a directive takes at an address. -/
def dirSize (tab : List Sym) (a : Nat) (name : Text) (ops : List Text) : Nat :=
  if name == tx "data" then (ops.length - 1) * ((ops.head?.bind (numUpto tab 8)).getD 0)
  else if name == tx "bss" then ((ops.head?.bind (numUpto tab (2^57))).getD 0)
  else if name == tx "align" then match ops.head?.bind (alignOf tab) with
    | some n => padTo n a
    | none => 0
  else 0

/-- The layout after a line: labels defined, sections opened and grown. `tab` are the labels of the layout before. A statement in
error (`bad`) emits nothing, so its section does not grow and it defines no symbol: the next label is the address of the next byte
that is emitted (R385). -/
def layoutLine (bases : Text → Nat) (tab : List Sym) (bad : Bool) (l : Lay) (line : Line) : Lay :=
  let l := match line.label with
    | some n => l.define ⟨n, l.addr bases, some l.cur⟩
    | none => l
  match line.body with
  | .empty => l
  | .instr _ mn _ _ => match rowsOf mn with
    | r :: _ => if bad then l else l.grow (4 * lenOf r.b0)
    | [] => l
  | .dir name ops =>
    match l.block with
    | some b =>
      if name == tx "end" && bad then { l with block := none }
      else if name == tx "end" then
        let l := l.grow (padTo 64 (l.addr bases))
        let l := l.define ⟨b.name, l.addr bases, some l.cur⟩
        { l.grow (if b.hasRecord then 768 else 512) with block := none }
      else { l with block := some { b with dirs := b.dirs ++ [(name, ops)] } }
    | none =>
      if name == tx "run" then
        match ops with
        | n :: r => { l with block := some { name := n, det := !r.isEmpty } }
        | [] => l
      else if name == tx "section" then (openSect l ops).getD l
      else if name == tx "equ" then
        match ops with
        | [n, e] => match constVal tab e with
          | some v => if bad then l else l.define ⟨n, v.v, none⟩
          | none => l
        | _ => l
      else if bad then l
      else l.grow (dirSize tab (l.addr bases) name ops)

/-! ### Descriptors (R391-R393, 10 R274, R275) -/

/-- A 64-bit value where an address is held: labels are accepted (R387). -/
def address (tab : List Sym) (t : Text) : Option Nat := (exprVal tab t).bind (unsignedField 64)

/-- A constant of an unsigned field. -/
def constField (tab : List Sym) (w : Nat) (t : Text) : Option Nat := (constVal tab t).bind (unsignedField w)

/-- A keyword among spellings, numbered from 0. -/
def keyword (l : List String) (t : Text) : Option Nat := l.findIdx? fun k => tx k == lower t

/-- The standard entries by name (04 R108). -/
def formatNames : List (String × Nat) :=
  [("binary32", 0xE1707F00), ("bfloat16", 0xE0707F00), ("binary16", 0xD4A00F00), ("e4m3", 0xD0300720), ("e5m2", 0xD4200F00),
   ("e3m2", 0xCC200340), ("e2m1", 0xC8100140), ("e3m5s", 0x8C500340), ("int8", 0xC0700000), ("binary64", 0xEF43FF00)]

/-- The entry of a .format. -/
def formatValue (tab : List Sym) (t : Text) : Option Nat :=
  match formatNames.find? fun p => tx p.1 == lower t with
  | some p => some p.2
  | none => (constField tab 32 t).filter fun v => v % 16 == 0 && legalEntry (BitVec.ofNat 32 v)

/-- The fields of a record: lowest bit and width (03 R90). -/
def recordFields : List (String × Nat × Nat) :=
  [("base", 0, 57), ("space", 57, 3), ("oor", 60, 1), ("pol", 61, 2), ("ro", 63, 1), ("extent", 64, 32), ("stride", 96, 16),
   ("esz", 112, 4), ("sw", 116, 4), ("ss", 120, 4)]

/-- One FIELD=expr of a .record: the field and what it adds. -/
def recordField (tab : List Sym) (t : Text) : Option (String × Nat) :=
  match cut 61 t with
  | [k, e] =>
    match recordFields.find? fun p => tx p.1 == lower (trim k) with
    | some p => ((if p.1 == "base" then exprVal tab (trim e) else constVal tab (trim e)).bind (unsignedField p.2.2)).map fun v => (p.1, put v p.2.1)
    | none => none
  | _ => none

/-- The fields of a .record, each at most once. -/
def recordVal (tab : List Sym) : List Text → Option (List String × Nat)
  | [] => some ([], 0)
  | t :: ts =>
    match recordField tab t, recordVal tab ts with
    | some f, some r => if r.1.contains f.1 then none else some (f.1 :: r.1, f.2 + r.2)
    | _, _ => none

/-- What one directive of a block sets: a key that stands at most once, its part of the descriptor as a number whose byte `n` is
bits 8n + 7 : 8n, and its part of the record block. -/
structure Part where
  kind : String
  index : Nat := 0
  desc : Nat := 0
  recs : Nat := 0
deriving DecidableEq, Repr, Inhabited

/-- A field at byte `n` of the descriptor. -/
def byteAt (n v : Nat) : Nat := put v (8 * n)

/-- The part of one descriptor directive; none where it is in error. -/
def partOf (tab : List Sym) (name : Text) (ops : List Text) : Option Part :=
  if name == tx "crew" then
    match ops with
    | c :: r =>
      let wait : Option Nat := match r with
        | [] => some 256
        | [w] => numUpto tab 4095 w
        | _ => none
      match keyword ["half", "full", "cluster"] c, wait with
      | some f, some w => some { kind := "crew", desc := byteAt 1 (2 * f) + byteAt 2 w }
      | _, _ => none
    | [] => none
  else if name == tx "stage" then
    match ops with
    | [s, e, c] => match numUpto tab 3 s, address tab e, constField tab 16 c with
      | some s, some e, some c => some { kind := "stage", index := s, desc := byteAt (16 + 2 * s) c + byteAt (32 + 8 * s) e }
      | _, _, _ => none
    | _ => none
  else if name == tx "signpost" then
    match ops with
    | x :: y :: r =>
      let order : Option Nat := match r with
        | [] => some 0
        | [k, n] => if keyword ["serp"] k == some 0 then (constField tab 16 n).map fun n => byteAt 4 1 + byteAt 6 n else none
        | _ => none
      match constField tab 32 x, constField tab 32 y, order with
      | some x, some y, some o => some { kind := "signpost", desc := byteAt 24 x + byteAt 28 y + o }
      | _, _, _ => none
    | _ => none
  else if name == tx "format" then
    match ops with
    | [f, v] => match reg "f" 7 f, formatValue tab v with
      | some f, some v => some { kind := "format", index := f, desc := byteAt (80 + 4 * f) v }
      | _, _ => none
    | _ => none
  else if name == tx "rsm" then
    match ops with
    | f :: m :: r =>
      let sat : Option Nat := match r with
        | [] => some 0
        | [k] => (keyword ["sat"] k).map fun _ => 8
        | _ => none
      match (reg "f" 7 f).or ((keyword ["int"] f).map fun _ => 8), keyword ["rne", "rtz", "rup", "rdn", "rna", "rsr"] m, sat with
      | some f, some m, some s => some { kind := "rsm", index := f, desc := byteAt 112 (put (m + s) (4 * f)) }
      | _, _, _ => none
    | _ => none
  else if name == tx "record" then
    match ops with
    | k :: r => match reg "k" 15 k, recordVal tab r with
      | some k, some v => some { kind := "record", index := k, desc := byteAt 8 (put 1 k), recs := byteAt (16 * k) v.2 }
      | _, _ => none
    | [] => none
  else if name == tx "const" then
    match ops with
    | [g, e] => match reg "g" 15 g, address tab e with
      | some g, some v => some { kind := "const", index := g, desc := byteAt (256 + 8 * g) v }
      | _, _ => none
    | _ => none
  else if name == tx "seed" then
    match ops with
    | [e] => (constField tab 64 e).map fun v => { kind := "seed", desc := byteAt 72 v }
    | _ => none
  else if name == tx "trap" then
    match ops with
    | [e] => (address tab e).map fun v => { kind := "trap", desc := byteAt 64 v }
    | _ => none
  else if name == tx "entry" then
    match ops with
    | [n, e] => match numUpto tab 15 n, address tab e with
      | some n, some v => some { kind := "entry", index := n, desc := byteAt (128 + 8 * n) v }
      | _, _ => none
    | _ => none
  else if name == tx "region" then
    match ops with
    | [n, b, len, so, d] =>
      match numUpto tab 7 n, address tab b, numUpto tab (2^23 - 128) len, numUpto tab (2^23 - 128) so, keyword ["in", "out", "inout"] d with
      | some n, some b, some len, some so, some d =>
        if len % 128 = 0 ∧ so % 128 = 0 then
          some { kind := "region", index := n
                 desc := byteAt (384 + 16 * n) b + byteAt (392 + 16 * n) (len / 128) + byteAt (394 + 16 * n) (so / 128) + byteAt (396 + 16 * n) (d + 1) }
        else none
      | _, _, _, _, _ => none
    | _ => none
  else none

/-- The parts of a block's directives. -/
def partsOf (tab : List Sym) : List (Text × List Text) → Option (List Part)
  | [] => some []
  | d :: ds => match partOf tab d.1 d.2, partsOf tab ds with
    | some p, some ps => some (p :: ps)
    | _, _ => none

/-- No key stands twice (R392). -/
def keysOnce : List Part → Bool
  | [] => true
  | p :: ps => !(ps.any fun q => q.kind == p.kind && q.index == p.index) && keysOnce ps

/-- The bytes of a descriptor at `a`, and of its record block where it has one (R393); none where a static condition fails. -/
def descBytes (tab : List Sym) (a : Nat) (b : Block) : Option (List Byte) :=
  (partsOf tab b.dirs).bind fun ps =>
    let has (k : String) : Bool := ps.any (·.kind == k)
    let d := 1 + byteAt 1 (if b.det then 1 else 0) + (ps.map (·.desc)).foldl (· + ·) 0
      + (if has "signpost" then 0 else byteAt 24 1 + byteAt 28 1) + (if has "record" then byteAt 120 (a + 512) else 0)
    let bytes := leBytes d 512
    if !keysOnce ps || !has "crew" || descBad bytes then none
    else some (bytes ++ if has "record" then leBytes ((ps.map (·.recs)).foldl (· + ·) 0) 256 else [])

/-! ### The bytes of a line -/

/-- Values of a .data. -/
def dataBytes (tab : List Sym) (w : Nat) : List Text → Option (List Byte)
  | [] => some []
  | t :: ts =>
    match (if w = 8 then exprVal tab t else constVal tab t).bind (unsignedField (8 * w)), dataBytes tab w ts with
    | some v, some r => some (leBytes v w ++ r)
    | _, _ => none

/-- The NOP words that pad a section of instructions (R394). -/
def nops : Nat → List Byte
  | 0 => []
  | n + 1 => leBytes 0xB6000000 4 ++ nops n

/-- The operands of a directive outside descriptor blocks, and the bytes it gives. -/
def fileDir (bases : Text → Nat) (tab : List Sym) (l : Lay) (name : Text) (ops : List Text) : Option (List Byte) :=
  if name == tx "run" then
    match ops with
    | [n] => if !l.sect.exec && fresh l n then some [] else none
    | [n, d] => if !l.sect.exec && fresh l n && keyword ["det"] d == some 0 then some [] else none
    | _ => none
  else if name == tx "section" then (openSect l ops).map fun _ => []
  else if name == tx "data" then
    match ops with
    | w :: v :: vs =>
      (numUpto tab 8 w).bind fun w => if !l.sect.exec && [1, 2, 4, 8].contains w then dataBytes tab w (v :: vs) else none
    | _ => none
  else if name == tx "bss" then
    match ops with
    | [n] => if l.sect.exec then none else (numUpto tab (2^57) n).map fun n => List.replicate n 0#8
    | _ => none
  else if name == tx "align" then
    match ops with
    | [n] => (alignOf tab n).bind fun n =>
        let p := padTo n (l.addr bases)
        if !l.sect.exec then some (List.replicate p 0#8) else if p % 4 = 0 then some (nops (p / 4)) else none
    | _ => none
  else if name == tx "equ" then
    match ops with
    | [n, e] => if fresh l n then (constVal tab e).map fun _ => [] else none
    | _ => none
  else if name == tx "global" then
    if !ops.isEmpty && (ops.all fun n => tab.any fun y => y.name == n && y.sect.isSome) then some [] else none
  else none

/-- The bytes that a line emits where the layout stands at `l`; none where it is in error (R390, R392, R394). -/
def lineBytes (bases : Text → Nat) (tab : List Sym) (l : Lay) (line : Line) : Option (List Byte) :=
  let labelOk := match line.label with
    | some n => l.block.isNone && fresh l n
    | none => true
  if !labelOk then none
  else
    match line.body, l.block with
    | .empty, _ => some []
    | .instr g mn mods ops, none =>
      if l.sect.exec then (words tab (l.addr bases) g mn mods ops).map fun ws => ws.flatMap fun w => leBytes w 4 else none
    | .instr _ _ _ _, some _ => none
    | .dir name ops, none => fileDir bases tab l name ops
    | .dir name ops, some b =>
      if name == tx "end" then
        if ops.isEmpty && fresh l b.name then
          let p := padTo 64 (l.addr bases)
          (descBytes tab (l.addr bases + p) b).map fun bs => List.replicate p 0#8 ++ bs
        else none
      else (partOf tab name ops).map fun _ => []

/-! ### Files -/

/-- What the assembler gives: the numbers of the lines in error, the bytes of each section in the order emitted, the labels and
symbols, and the labels that other files see. -/
structure Asm where
  errors : List Nat := []
  chunks : List (Text × List Byte) := []
  lay : Lay := .start
  globals : List Text := []
deriving DecidableEq, Repr, Inhabited

/-- One line emitted; a line in error, now or in an earlier round (`bad`), emits nothing. -/
def emitLine (bases : Text → Nat) (tab : List Sym) (bad : List Nat) (m : Asm) (n : Nat) (line : Option Line) : Asm :=
  match line with
  | none => { m with errors := m.errors ++ [n] }
  | some ln =>
    match if bad.contains n then none else lineBytes bases tab m.lay ln with
    | none => { m with errors := m.errors ++ [n], lay := layoutLine bases tab true m.lay ln }
    | some bs =>
      { m with chunks := if bs.isEmpty then m.chunks else m.chunks ++ [(m.lay.cur, bs)], lay := layoutLine bases tab false m.lay ln
               globals := match ln.body with
                 | .dir name ops => if name == tx "global" then m.globals ++ ops else m.globals
                 | _ => m.globals }

/-- All lines emitted, numbered from `n`; a block open at the end is an error of the last line (R392). -/
def emitAll (bases : Text → Nat) (tab : List Sym) (bad : List Nat) : Nat → List (Option Line) → Asm → Asm
  | n, [], m => if m.lay.block.isSome && !m.errors.contains (n - 1) then { m with errors := m.errors ++ [n - 1] } else m
  | n, l :: ls, m => emitAll bases tab bad (n + 1) ls (emitLine bases tab bad m n l)

/-- The labels after one layout of the file, lines numbered from `n`. -/
def layoutSyms (bases : Text → Nat) (tab : List Sym) (bad : List Nat) : Nat → List (Option Line) → Lay → List Sym
  | _, [], l => l.syms
  | n, none :: ls, l => layoutSyms bases tab bad (n + 1) ls l
  | n, some ln :: ls, l => layoutSyms bases tab bad (n + 1) ls (layoutLine bases tab (bad.contains n) l ln)

/-- Layouts repeated until the labels no longer move. -/
def settle (bases : Text → Nat) (bad : List Nat) (lines : List (Option Line)) : Nat → List Sym → Option (List Sym)
  | 0, _ => none
  | f + 1, tab =>
    let t := layoutSyms bases tab bad 1 lines .start
    if t == tab then some tab else settle bases bad lines f t

/-- Rounds of layout and emission: the lines found in error are left out of the next layout, until a round finds no other. -/
def rounds (bases : Text → Nat) (lines : List (Option Line)) : Nat → List Nat → Asm
  | 0, _ => { errors := [0] }
  | f + 1, bad =>
    match settle bases bad lines (lines.length + 2) [] with
    | some tab =>
      let m := emitAll bases tab bad 1 lines {}
      if m.errors == bad then m else rounds bases lines f m.errors
    | none => { errors := [0] }

/-- A source file assembled with its sections at `bases`: lines end with LF (R385). A file whose labels never settle is in error at line 0. -/
def assemble (bases : Text → Nat) (source : Text) : Asm :=
  let lines := (cut 10 source).map lineOf
  rounds bases lines (lines.length + 2) []

/-- The bytes of one section. -/
def Asm.bytes (m : Asm) (sect : Text) : List Byte := (m.chunks.filter (·.1 == sect)).flatMap (·.2)

/-- The X and W bits of the pages that the loader maps a section to: an x section X = 1 and W = 0, a w section W = 1 and X = 0,
another section neither (R394). -/
def Sect.pageXW (s : Sect) : Bool × Bool := (s.exec, s.writable)

end Sys2Proof.Renvas
end

