-- ==== Sys2Proof/Safety.lean ====
section
/-! DEFINITION. What counts as a safe run: no refusal and no fault, and states whose memory and stage memory are in canonical form. -/

namespace Sys2Proof.Safety

/-- Memory and stage memory list their addresses strictly rising and no byte that reads as an unlisted one does. -/
def Inv (s : Sys2Proof.Machine.State) : Prop :=
  Sys2Proof.Machine.Memory.wf s.mem = true ∧ Sys2Proof.Machine.Memory.wf s.stage = true

/-- The step answers a next state. -/
def Steps (s : Sys2Proof.Machine.State) : Prop := ∃ t, Sys2Proof.Machine.step s = .next t

/-- `n` steps from `s` that all answer a next state. -/
def Runs : Nat → Sys2Proof.Machine.State → Prop
  | 0, _ => True
  | n + 1, s => ∃ t, Sys2Proof.Machine.step s = .next t ∧ Runs n t

end Sys2Proof.Safety
end

