-- ==== Sys2Proof/Certificates/Slice0/Obligations.lean ====
section
/-! DEFINITION. The statements for the provers. `Claims` holds the vocabulary they share: when an instruction issues, what a
statement says is left alone, and the tables that give each instruction of one shape its operands and the value it writes. -/

namespace Sys2Proof.Claims

open Sys2Proof.Machine

/-! ### Vocabulary -/

/-- The convoy that executes has a member, and the toll of the instruction fits the pool or has been checked already
(08 R239): what an instruction needs to issue besides its own checks (14 R374). -/
abbrev Issues (s : State) (toll : Nat) : Prop :=
  (s.convoy s.cur).members ≠ [] ∧
    (toll ≤ (s.island ((s.convoy s.cur).core / 2)).pool ∨ (s.convoy s.cur).checked = true)

/-- Crew, context and run of the convoy that executes. -/
def crewKey (s : State) : Nat := (s.convoy s.cur).crew
def crew (s : State) : Crew := s.crew (crewKey s)
def ctx (s : State) : Nat := (crew s).ctx
def run (s : State) : Run := s.run (crew s).run

/-- Members of the convoy, as thread keys, and those active under guard predicate `g` (14 R378). -/
def members (s : State) : List Nat := (s.convoy s.cur).keys
def active (s : State) (g : Nat) : List Nat := (members s).filter fun x => (s.thread x).pred g

/-- xB of a member (03 R88): v0–v63, or from 64 on g0–g63. -/
def xB (s : State) (x b : Nat) : DWord := if b < 64 then (s.thread x).reg b else s.g s.cur (b - 64)

/-- Element j of width w of a register (03 R86). -/
def el (w j : Nat) (x : DWord) : BitVec w := x.extractLsb' (w * j) w

/-- What an issue leaves alone besides the threads and the convoys: all of memory, stage memory, tile store and operand buffer,
crews, runs, laybys, rings and every other unit; of the charged context only ACCT and EST, LEVEL, leases, fair counts and the
queue's energy may change (09 R240, R254, R260). -/
structure Kept (s t : State) : Prop where
  barBytes : t.barBytes = s.barBytes
  memory : ∀ a, Tab.get 0 t.mem a = Tab.get 0 s.mem a
  stage : ∀ a, Tab.get 0 t.stage a = Tab.get 0 s.stage a
  acc : ∀ a, Tab.get 0 t.acc a = Tab.get 0 s.acc a
  ob : ∀ a, Tab.get 0 t.ob a = Tab.get 0 s.ob a
  crews : ∀ n, t.crew n = s.crew n
  runs : ∀ n, t.run n = s.run n
  islands : ∀ n, t.island n = s.island n
  laybys : t.laybys = s.laybys
  flight : t.flight = s.flight
  msc : t.msc = s.msc
  sealing : t.sealing = s.sealing
  hbm : t.hbm = s.hbm
  scrub : t.scrub = s.scrub
  parts : t.parts = s.parts
  vds : t.vds = s.vds
  host : t.host = s.host
  power : t.power = s.power
  fabric : t.fabric = s.fabric
  fw : t.fw = s.fw
  sec : t.sec = s.sec
  accounts : ∀ a, a ≠ ctx s → t.acct a = s.acct a
  contexts : ∀ a, { t.ctx a with level := 0 } = { s.ctx a with level := 0 }
  cores : ∀ a, { t.core a with leases := [], fc0 := 0, fc1 := 0 } = { s.core a with leases := [], fc0 := 0, fc1 := 0 }
  queues : ∀ a, { t.queue a with energy := 0 } = { s.queue a with energy := 0 }

/-- The convoy goes on to the next sequential instruction (14 R370); every other convoy is as it was. -/
def Advanced (i : Instr) (s t : State) : Prop :=
  t.convoy s.cur = { s.convoy s.cur with pc := (s.convoy s.cur).pc + byteLen i, hold := .none, checked := false, tolled := false, since := none } ∧
    ∀ k, k ≠ s.cur → t.convoy k = s.convoy k

/-- A thread but for its v registers, its predicates and SRSEED. -/
def bare (t : Thread) : Thread := { t with v := [], q := 0, srseed := 0 }

/-! ### Lane instructions -/

/-- An elementwise integer instruction: destination, sources, guard, width, and the element of the result from those of vA, xB
and the old vD. One-source instructions ignore the second. -/
structure IntOp where
  d : Nat
  a : Nat
  b : Nat
  g : Nat
  w : Nat
  f : (w : Nat) → BitVec w → BitVec w → BitVec w → BitVec w

/-- The value of the signed range nearest to an integer. -/
def clamp (w : Nat) (n : Int) : BitVec w := BitVec.ofInt w (max (-(2 : Int)^(w - 1)) (min n ((2 : Int)^(w - 1) - 1)))

/-- 15 R402, R413; 16 R443, R444; 17 R473, R481. -/
def intOp : Instr → Option IntOp
  | .iadd d a b g m => some ⟨d, a, b, g, widthOf m, fun _ x y _ => x + y⟩
  | .isub d a b g m => some ⟨d, a, b, g, widthOf m, fun _ x y _ => x - y⟩
  | .imul d a b g m => some ⟨d, a, b, g, widthOf m, fun _ x y _ => x * y⟩
  | .imulh d a b g m => some ⟨d, a, b, g, widthOf m, fun w x y _ => BitVec.ofInt w (x.toInt * y.toInt / 2^w)⟩
  | .imulhu d a b g m => some ⟨d, a, b, g, widthOf m, fun w x y _ => BitVec.ofNat w (x.toNat * y.toNat / 2^w)⟩
  | .imad d a b g m => some ⟨d, a, b, g, widthOf m, fun _ x y z => x * y + z⟩
  | .imin d a b g m => some ⟨d, a, b, g, widthOf m, fun _ x y _ => if x.slt y then x else y⟩
  | .imax d a b g m => some ⟨d, a, b, g, widthOf m, fun _ x y _ => if y.slt x then x else y⟩
  | .iminu d a b g m => some ⟨d, a, b, g, widthOf m, fun _ x y _ => if x.ult y then x else y⟩
  | .imaxu d a b g m => some ⟨d, a, b, g, widthOf m, fun _ x y _ => if y.ult x then x else y⟩
  | .iadds d a b g m => some ⟨d, a, b, g, widthOf m, fun w x y _ => clamp w (x.toInt + y.toInt)⟩
  | .isubs d a b g m => some ⟨d, a, b, g, widthOf m, fun w x y _ => clamp w (x.toInt - y.toInt)⟩
  | .iabs d a g m => some ⟨d, a, 0, g, widthOf m, fun _ x _ _ => if x.msb then -x else x⟩
  | .shl d a b g m => some ⟨d, a, b, g, widthOf m, fun w x y _ => x <<< (y.toNat % w)⟩
  | .shr d a b g m => some ⟨d, a, b, g, widthOf m, fun w x y _ => x >>> (y.toNat % w)⟩
  | .sar d a b g m => some ⟨d, a, b, g, widthOf m, fun w x y _ => x.sshiftRight (y.toNat % w)⟩
  | .rol d a b g m => some ⟨d, a, b, g, widthOf m, fun w x y _ => x.rotateLeft (y.toNat % w)⟩
  | .popc d a g m => some ⟨d, a, 0, g, widthOf m, fun _ x _ _ => x.cpop⟩
  | .clz d a g m => some ⟨d, a, 0, g, widthOf m, fun _ x _ _ => x.clz⟩
  | .brev d a g m => some ⟨d, a, 0, g, widthOf m, fun _ x _ _ => x.reverse⟩
  | .icmp d a b 0 m => some ⟨d, a, b, 0, widthOf m, fun _ x y _ => if x = y then -1 else 0⟩
  | .icmp d a b 1 m => some ⟨d, a, b, 0, widthOf m, fun _ x y _ => if x = y then 0 else -1⟩
  | .icmp d a b 2 m => some ⟨d, a, b, 0, widthOf m, fun _ x y _ => if x.slt y then -1 else 0⟩
  | .icmp d a b 3 m => some ⟨d, a, b, 0, widthOf m, fun _ x y _ => if x.sle y then -1 else 0⟩
  | .icmp d a b 4 m => some ⟨d, a, b, 0, widthOf m, fun _ x y _ => if x.ult y then -1 else 0⟩
  | .icmp d a b 5 m => some ⟨d, a, b, 0, widthOf m, fun _ x y _ => if x.ule y then -1 else 0⟩
  | _ => none

/-- A lane instruction that writes one register of each active member: toll, destination, guard, and how bit n of the result is
given by vA, xB and the old vD. -/
structure RegOp where
  toll : Nat
  d : Nat
  a : Nat
  b : Nat
  g : Nat
  bit : DWord → DWord → DWord → Nat → Bool

/-- Position and length of the bit field that xB names (15 R410); a length field of 0 means 64. -/
def fieldPos (y : DWord) : Nat := (y.extractLsb' 0 6).toNat
def fieldLen (y : DWord) : Nat := if y.extractLsb' 8 6 = 0 then 64 else (y.extractLsb' 8 6).toNat

/-- 15 R402, R410; 16 R463–R465; 17 R471, R472. -/
def regOp : Instr → Option RegOp
  | .andl d a b g => some ⟨0, d, a, b, g, fun x y _ n => x.getLsbD n && y.getLsbD n⟩
  | .orl d a b g => some ⟨0, d, a, b, g, fun x y _ n => x.getLsbD n || y.getLsbD n⟩
  | .xorl d a b g => some ⟨0, d, a, b, g, fun x y _ n => x.getLsbD n != y.getLsbD n⟩
  | .andnl d a b g => some ⟨0, d, a, b, g, fun x y _ n => x.getLsbD n && !y.getLsbD n⟩
  | .mov d b g => some ⟨0, d, 0, b, g, fun _ y _ n => y.getLsbD n⟩
  | .movi d i m => some ⟨0, d, 0, 0, 0, fun _ _ _ n => ((BitVec.ofNat 16 i).signExtend 64).getLsbD (n % widthOf m)⟩
  | .movx d 0 imm => some ⟨0, d, 0, 0, 0, fun _ _ z n => if n < 32 then imm.testBit n else z.getLsbD n⟩
  | .movx d 1 imm => some ⟨0, d, 0, 0, 0, fun _ _ z n => if n < 32 then z.getLsbD n else imm.testBit (n - 32)⟩
  | .movx d 2 imm => some ⟨0, d, 0, 0, 0, fun _ _ _ n => if n < 32 then imm.testBit n else imm.testBit 31⟩
  | .perm d a b g => some ⟨1, d, a, b, g, fun x y z n =>
      let sel := (z.extractLsb' (8 * (n / 8)) 4).toNat
      if 8 ≤ sel then x.getLsbD (8 * (sel - 8) + n % 8) else y.getLsbD (8 * sel + n % 8)⟩
  | .bfx d a b g 0 => some ⟨0, d, a, b, g, fun x y _ n => decide (n < fieldLen y) && x.getLsbD (fieldPos y + n)⟩
  | .bfx d a b g 1 => some ⟨0, d, a, b, g, fun x y _ n => x.getLsbD (fieldPos y + min n (fieldLen y - 1))⟩
  | .bfi d a b g => some ⟨0, d, a, b, g, fun x y z n =>
      if fieldPos y ≤ n ∧ n < fieldPos y + fieldLen y then x.getLsbD (n - fieldPos y) else z.getLsbD n⟩
  | _ => none

/-- Entries named are valid (04 R107 check 2), rounding fields used hold a code below 6 (check 3). -/
abbrev Valid (s : State) (n : Nat) : Prop := ((crew s).fmt n).v = true
abbrev Rounds (s : State) (n : Nat) : Prop := (crew s).mode n < 6

/-- A cross-lane instruction in a DET run needs a whole convoy (02 R59). -/
abbrev WholeIfDet (s : State) : Prop := (run s).det = true → (s.convoy s.cur).whole = true

/-- Number of elements in a register (03 R86). -/
def count (w : Nat) : Nat := 64 / w

/-- The conversion's source span ends at v63 or below (04 R120). -/
abbrev Span (a p wd ws : Nat) : Prop := a + (p * count wd + count wd - 1) / count ws ≤ 63

/-- A lane instruction: toll, guard, v destination, q destination, and what must hold for it to take effect. -/
structure LaneOp where
  toll : Nat
  g : Nat
  d : Option Nat
  q : Option Nat := none
  ok : State → Prop := fun _ => True

/-- Allowed widths of FDOT (15 R429): an element of the destination takes in at least two input elements, as a whole number. -/
abbrev DotWidths (wi wd : Nat) : Prop := count wd ≠ 0 ∧ count wi % count wd = 0 ∧ 2 * count wd ≤ count wi

/-- Every lane instruction of 14 R377 but the memory accesses and MSIGN. -/
def laneForm : Instr → Option LaneOp
  | .iadd d _ _ g _ => some ⟨0, g, some d, none, fun _ => True⟩
  | .isub d _ _ g _ => some ⟨0, g, some d, none, fun _ => True⟩
  | .imul d _ _ g _ => some ⟨0, g, some d, none, fun _ => True⟩
  | .imulh d _ _ g _ => some ⟨0, g, some d, none, fun _ => True⟩
  | .imulhu d _ _ g _ => some ⟨0, g, some d, none, fun _ => True⟩
  | .imad d _ _ g _ => some ⟨0, g, some d, none, fun _ => True⟩
  | .imin d _ _ g _ => some ⟨0, g, some d, none, fun _ => True⟩
  | .imax d _ _ g _ => some ⟨0, g, some d, none, fun _ => True⟩
  | .iminu d _ _ g _ => some ⟨0, g, some d, none, fun _ => True⟩
  | .imaxu d _ _ g _ => some ⟨0, g, some d, none, fun _ => True⟩
  | .iadds d _ _ g _ => some ⟨0, g, some d, none, fun _ => True⟩
  | .isubs d _ _ g _ => some ⟨0, g, some d, none, fun _ => True⟩
  | .iabs d _ g _ => some ⟨0, g, some d, none, fun _ => True⟩
  | .andl d _ _ g => some ⟨0, g, some d, none, fun _ => True⟩
  | .orl d _ _ g => some ⟨0, g, some d, none, fun _ => True⟩
  | .xorl d _ _ g => some ⟨0, g, some d, none, fun _ => True⟩
  | .andnl d _ _ g => some ⟨0, g, some d, none, fun _ => True⟩
  | .shl d _ _ g _ => some ⟨0, g, some d, none, fun _ => True⟩
  | .shr d _ _ g _ => some ⟨0, g, some d, none, fun _ => True⟩
  | .sar d _ _ g _ => some ⟨0, g, some d, none, fun _ => True⟩
  | .rol d _ _ g _ => some ⟨0, g, some d, none, fun _ => True⟩
  | .popc d _ g _ => some ⟨0, g, some d, none, fun _ => True⟩
  | .clz d _ g _ => some ⟨0, g, some d, none, fun _ => True⟩
  | .brev d _ g _ => some ⟨0, g, some d, none, fun _ => True⟩
  | .icmp d _ _ _ _ => some ⟨0, 0, some d, none, fun _ => True⟩
  | .sel d _ _ _ => some ⟨0, 0, some d, none, fun _ => True⟩
  | .mov d _ g => some ⟨0, g, some d, none, fun _ => True⟩
  | .perm d _ _ g => some ⟨1, g, some d, none, fun _ => True⟩
  | .movi d _ _ => some ⟨0, 0, some d, none, fun _ => True⟩
  | .movx d _ _ => some ⟨0, 0, some d, none, fun _ => True⟩
  | .bfx d _ _ g _ => some ⟨0, g, some d, none, fun _ => True⟩
  | .bfi d _ _ g => some ⟨0, g, some d, none, fun _ => True⟩
  | .qop d _ _ g _ => some ⟨0, g, none, some d, fun _ => True⟩
  | .movqToPredicate q _ g => some ⟨0, g, none, some q, fun _ => True⟩
  | .movqToVector d _ g => some ⟨0, g, some d, none, fun _ => True⟩
  | .fadd d _ _ g n => some ⟨1, g, some d, none, fun s => Valid s n ∧ Rounds s n⟩
  | .fsub d _ _ g n => some ⟨1, g, some d, none, fun s => Valid s n ∧ Rounds s n⟩
  | .fmul d _ _ g n => some ⟨1, g, some d, none, fun s => Valid s n ∧ Rounds s n⟩
  | .ffma d _ _ g n => some ⟨2, g, some d, none, fun s => Valid s n ∧ Rounds s n⟩
  | .ffms d _ _ g n => some ⟨2, g, some d, none, fun s => Valid s n ∧ Rounds s n⟩
  | .fmin d _ _ g n => some ⟨1, g, some d, none, fun s => Valid s n ∧ Rounds s n⟩
  | .fmax d _ _ g n => some ⟨1, g, some d, none, fun s => Valid s n ∧ Rounds s n⟩
  | .fcmp d _ _ _ n => some ⟨1, 0, some d, none, fun s => Valid s n⟩
  | .fsgn d _ _ _ n => some ⟨1, 0, some d, none, fun s => Valid s n ∧ Rounds s n⟩
  | .fspc d _ _ n => some ⟨2, 0, some d, none, fun s => Valid s n ∧ Rounds s n⟩
  | .fclass d _ e n => some ⟨1, 0, some d, none, fun s => Valid s n ∧ e < count ((crew s).fmt n).width⟩
  | .cvt d a f p g n => some ⟨1, g, some d, none, fun s => Valid s n ∧ Valid s f ∧ Rounds s n ∧
      Span a p ((crew s).fmt n).width ((crew s).fmt f).width⟩
  | .cvti d a f p g m => some ⟨1, g, some d, none, fun s => Valid s f ∧ Rounds s 8 ∧ Span a p (widthOf m) ((crew s).fmt f).width⟩
  | .cvtf d a w p g n => some ⟨1, g, some d, none, fun s => Valid s n ∧ Rounds s n ∧ Span a p ((crew s).fmt n).width (widthOf w)⟩
  | .fdot d _ _ i n => some ⟨2, 0, some d, none, fun s => Valid s n ∧ Valid s i ∧ Rounds s n ∧
      DotWidths ((crew s).fmt i).width ((crew s).fmt n).width⟩
  | .shfl d _ _ q _ => some ⟨1, 0, some d, some q, WholeIfDet⟩
  | .vote d _ _ _ => some ⟨1, 0, some d, none, WholeIfDet⟩
  | .scan d _ _ _ _ => some ⟨1, 0, some d, none, WholeIfDet⟩
  | .scanFadd d _ n _ => some ⟨1, 0, some d, none, fun s => WholeIfDet s ∧ Valid s n ∧ Rounds s n⟩
  | .red d _ _ _ => some ⟨1, 0, some d, none, WholeIfDet⟩
  | .redFadd d _ n => some ⟨1, 0, some d, none, fun s => WholeIfDet s ∧ Valid s n ∧ Rounds s n⟩
  | _ => none

/-- RSM field whose code decides whether the instruction steps SRSEED (04 R118): 8 is the integer field. -/
def seedField : Instr → Option Nat
  | .fadd _ _ _ _ n => some n
  | .fsub _ _ _ _ n => some n
  | .fmul _ _ _ _ n => some n
  | .ffma _ _ _ _ n => some n
  | .ffms _ _ _ _ n => some n
  | .fmin _ _ _ _ n => some n
  | .fmax _ _ _ _ n => some n
  | .fsgn _ _ _ _ n => some n
  | .fspc _ _ _ n => some n
  | .cvt _ _ _ _ _ n => some n
  | .cvti _ _ _ _ _ _ => some 8
  | .cvtf _ _ _ _ _ n => some n
  | .fdot _ _ _ _ n => some n
  | _ => none

/-- Format entry whose elements the instruction writes. -/
def entryWritten : Instr → Option Nat
  | .fcmp _ _ _ _ n => some n
  | .scanFadd _ _ n _ => some n
  | .redFadd _ _ n => some n
  | .cvti _ _ _ _ _ _ => none
  | i => seedField i

/-- Weight of an issue by toll class and active members, from the weights in force (09 R241). -/
def issueWeight (s : State) (toll n : Nat) : Nat :=
  if toll = 0 then s.power.weights.lane + s.power.weights.lanePer * n
  else if toll = 1 then s.power.weights.toll1 + s.power.weights.toll1Per * n
  else s.power.weights.toll2 + s.power.weights.toll2Per * n

/-- SRSEED after n steps of R117, where the rounding code is RSR; unchanged else. -/
def seedAfter (mode : Nat) (t : Word) : Nat → Word
  | 0 => t
  | n + 1 => if mode = 5 then lfsrStep (seedAfter mode t n) else t

/-- A register whose elements are exact values rounded into entry n, ascending, each with its own step of the seed (04 R112, R118). -/
def RoundedInto (s : State) (n : Nat) (e : Fmt) (seed : Word) (v : Nat → Val) (r : DWord) (seed' : Word) : Prop :=
  (∀ j, j < count e.width →
      elem r e.width j = encodeVal e (roundVal e ((crew s).mode n) ((crew s).sat n)
        (seedAfter ((crew s).mode n) seed (j + 1)).toNat (v j)) % 2^e.width)
    ∧ seed' = seedAfter ((crew s).mode n) seed (count e.width)

/-- A float instruction in one entry: the exact result from the decoded elements of vA, xB and the old vD. -/
structure FloatOp where
  d : Nat
  a : Nat
  b : Nat
  g : Nat
  n : Nat
  toll : Nat
  f : Nat → Val → Val → Val → Val

/-- 15 R425, R426, R431, R433. -/
def floatOp : Instr → Option FloatOp
  | .fadd d a b g n => some ⟨d, a, b, g, n, 1, fun m x y _ => sumVals m [x, y]⟩
  | .fsub d a b g n => some ⟨d, a, b, g, n, 1, fun m x y _ => sumVals m [x, y.neg]⟩
  | .fmul d a b g n => some ⟨d, a, b, g, n, 1, fun _ x y _ => x.mul y⟩
  | .ffma d a b g n => some ⟨d, a, b, g, n, 2, fun m x y z => sumVals m [x.mul y, z]⟩
  | .ffms d a b g n => some ⟨d, a, b, g, n, 2, fun m x y z => sumVals m [x.mul y, z.neg]⟩
  | .fmin d a b g n => some ⟨d, a, b, g, n, 1, fun _ x y _ => fminVal x y⟩
  | .fmax d a b g n => some ⟨d, a, b, g, n, 1, fun _ x y _ => fmaxVal x y⟩
  | .fsgn d a b o n => some ⟨d, a, b, 0, n, 1, fun _ x y _ => fsgnVal o x y⟩
  | _ => none

/-- A conversion: destination, first source register, part, guard, source and destination entries, RSM field of the destination. -/
structure Conversion where
  d : Nat
  a : Nat
  p : Nat
  g : Nat
  src : Fmt
  dst : Fmt
  n : Nat
  ok : Prop

/-- 15 R420, R421; integers count as signed fixed-point entries (04 R116). -/
def conversion (s : State) : Instr → Option Conversion
  | .cvt d a f p g n => some ⟨d, a, p, g, (crew s).fmt f, (crew s).fmt n, n, Valid s f ∧ Valid s n⟩
  | .cvti d a f p g m => some ⟨d, a, p, g, (crew s).fmt f, intFmt (widthOf m), 8, Valid s f⟩
  | .cvtf d a w p g n => some ⟨d, a, p, g, intFmt (widthOf w), (crew s).fmt n, n, Valid s n⟩
  | _ => none

/-- Combination of the elements of a list from the left: the first as `one` makes it, then `op`. -/
def combine (one : Nat → Nat) (op : Nat → Nat → Nat) : List Nat → Option Nat
  | [] => none
  | x :: l => some (l.foldl op (one x))

/-- A SCAN or RED: width, toll's entry if any, first element, operation, identity, whether it is RED, whether it excludes the lane. -/
structure ScanOp where
  d : Nat
  a : Nat
  w : Nat
  one : Nat → Nat
  op : Nat → Nat → Nat
  identity : Nat
  red : Bool
  exc : Bool
  ok : Prop

/-- Rounding of SCAN and RED in an entry: RSR acts as RNE and steps nothing (04 R118). -/
def scanRound (s : State) (n : Nat) (v : Val) : Nat :=
  encodeVal ((crew s).fmt n) (roundVal ((crew s).fmt n) (if (crew s).mode n = 5 then 0 else (crew s).mode n) ((crew s).sat n) 0 v)

def scanFloatOp (s : State) (d a n : Nat) (red exc : Bool) : ScanOp :=
  { d, a, w := ((crew s).fmt n).width, one := fun x => scanRound s n (decodeVal ((crew s).fmt n) x),
    op := fun p x => scanRound s n (sumVals (if (crew s).mode n = 5 then 0 else (crew s).mode n)
      [decodeVal ((crew s).fmt n) p, decodeVal ((crew s).fmt n) x]),
    identity := encodeVal ((crew s).fmt n) (.fin false 0 0), red, exc, ok := Valid s n ∧ Rounds s n }

/-- The integer operations on w-bit elements and their identities (17 R477). -/
def intCombine (o w p x : Nat) : Nat :=
  let a := BitVec.ofNat w p
  let b := BitVec.ofNat w x
  ([a + b, if a.slt b then a else b, if b.slt a then a else b, if a.ult b then a else b, if b.ult a then a else b, a &&& b, a ||| b, a ^^^ b][o]?.getD 0).toNat
def intIdentity (o w : Nat) : Int := [0, (2 : Int)^(w - 1) - 1, -(2 : Int)^(w - 1), -1, 0, -1, 0, 0][o]?.getD 0

/-- 17 R477, R478, R483. -/
def scanOpOf (s : State) : Instr → Option ScanOp
  | .scan d a x o m => some ⟨d, a, widthOf m, id, intCombine o (widthOf m), (BitVec.ofInt (widthOf m) (intIdentity o (widthOf m))).toNat, false, x == 1, o < 8⟩
  | .red d a o m => some ⟨d, a, widthOf m, id, intCombine o (widthOf m), (BitVec.ofInt (widthOf m) (intIdentity o (widthOf m))).toNat, true, false, o < 8⟩
  | .scanFadd d a n x => some (scanFloatOp s d a n false (x == 1))
  | .redFadd d a n => some (scanFloatOp s d a n true false)
  | _ => none

/-! ### Group instructions -/

/-- A group instruction that writes gD from g registers (16 R437, R438; 04 R106). -/
def scalarOp (s : State) : Instr → Option (Nat × DWord)
  | .gadd d a b => some (d, s.g s.cur a + s.g s.cur b)
  | .gsub d a b => some (d, s.g s.cur a - s.g s.cur b)
  | .gmul d a b => some (d, s.g s.cur a * s.g s.cur b)
  | .gand d a b => some (d, s.g s.cur a &&& s.g s.cur b)
  | .gor d a b => some (d, s.g s.cur a ||| s.g s.cur b)
  | .gxor d a b => some (d, s.g s.cur a ^^^ s.g s.cur b)
  | .gshl d a b => some (d, s.g s.cur a <<< ((s.g s.cur b).extractLsb' 0 6).toNat)
  | .gshr d a b => some (d, s.g s.cur a >>> ((s.g s.cur b).extractLsb' 0 6).toNat)
  | .gsar d a b => some (d, (s.g s.cur a).sshiftRight ((s.g s.cur b).extractLsb' 0 6).toNat)
  | .gmin d a b => some (d, if (s.g s.cur a).slt (s.g s.cur b) then s.g s.cur a else s.g s.cur b)
  | .gmax d a b => some (d, if (s.g s.cur b).slt (s.g s.cur a) then s.g s.cur a else s.g s.cur b)
  | .gsel d a b x => some (d, if s.g s.cur x = 0 then s.g s.cur b else s.g s.cur a)
  | .gaddi d a i => some (d, s.g s.cur a + (BitVec.ofNat 13 i).signExtend 64)
  | .gmovi d i => some (d, (BitVec.ofNat 19 i).signExtend 64)
  | .glui d i => some (d, (s.g s.cur d <<< 19) ||| BitVec.ofNat 64 i)
  | .fmtr d n => some (d, (Tab.get 0 (crew s).f n).setWidth 64)
  | _ => none

/-- Majors of the group instructions whose bits 24:19 name a destination (14 R381): GADD to GLUI, GRDL, FMTR. -/
def groupMajor (m : Nat) : Bool := decide (m ≤ 0x0F) || m == 0x37

/-- The convoy but for its g registers has gone on to the next instruction; the other convoys and every thread are as they were. -/
def GroupFrame (i : Instr) (s t : State) : Prop :=
  { t.convoy s.cur with g := [] } = { s.convoy s.cur with g := [], pc := (s.convoy s.cur).pc + byteLen i, hold := .none, checked := false, tolled := false, since := none } ∧
    (∀ k, k ≠ s.cur → t.convoy k = s.convoy k) ∧ (∀ x, t.thread x = s.thread x) ∧ Kept s t

/-! ### Control flow and exceptions -/

/-- The quad's layby table of the crew has room for the addresses that have no layby yet (02 R49, R50). -/
abbrev Fits (s : State) (addrs : List Nat) : Prop :=
  ((dedup addrs).filter fun a => (s.layby? (crewKey s) (s.convoy s.cur).core (s.convoy s.cur).quad a).isNone).length
    + s.laybyCount (crewKey s) (s.convoy s.cur).core (s.convoy s.cur).quad ≤ 64

/-- Thread `x` stands in the layby of address `a` of the convoy's crew, core and quad, with `a` as its address (02 R49, R50). -/
def InLayby (s t : State) (x a : Nat) : Prop :=
  (t.thread x).state = .spilled ∧ (t.thread x).pc = BitVec.ofNat 64 a ∧
    ∃ l ∈ t.laybys, l.crew = crewKey s ∧ l.core = (s.convoy s.cur).core ∧ l.quad = (s.convoy s.cur).quad ∧ l.addr = a ∧ x ∈ l.queue

/-- A fault of the members can enter the handler (10 R284, R285): the run has one, no member is in it, and the spill fits. -/
abbrev Handles (s : State) : Prop :=
  (run s).trap ≠ 0 ∧ (∀ x ∈ members s, (s.thread x).inTrap = false) ∧ Fits s [(run s).trap]

/-- Trap entry of every member (10 R284): the trap registers, INTRAP, the place in the handler's layby; the convoy has ended, and
every other thread, and every v register, predicate and SRSEED, is as it was. `two` is a two-word instruction, `code` TRAP's, `val` what TRVAL receives. -/
def TrappedAs (s t : State) (two : Bool) (cause code : Nat) (addr : Nat → Nat) (val : Nat → DWord) : Prop :=
  (t.convoy s.cur).members = [] ∧
  (∀ x ∈ members s, t.thread x = { s.thread x with
    trpc := BitVec.ofNat 64 (s.convoy s.cur).pc,
    trcause := BitVec.ofNat 32 (0xC00 + cause + code * 2^16),
    traddr := BitVec.ofNat 64 (addr x),
    trval := val x,
    trlane := BitVec.ofNat 64 (x / 16 % 32),
    len8 := two,
    inTrap := true,
    state := .spilled,
    pc := BitVec.ofNat 64 (run s).trap }) ∧
  (∀ x ∈ members s, InLayby s t x (run s).trap) ∧
  (∀ x, x ∉ members s → t.thread x = s.thread x) ∧
  t.mem = s.mem

/-- The same for an instruction of the table. -/
def TrappedWith (s t : State) (i : Instr) (cause code : Nat) (addr : Nat → Nat) (val : Nat → DWord) : Prop :=
  TrappedAs s t (lenOf (encode0 i) == 2) cause code addr val

/-- Trap entry with the instruction's first word in TRVAL. -/
def Trapped (s t : State) (i : Instr) (cause code : Nat) (addr : Nat → Nat) : Prop :=
  TrappedWith s t i cause code addr fun _ => BitVec.ofNat 64 (encode0 i)

/-- The convoy continues at an address; the other convoys are as they were. -/
def ContinuesAt (s t : State) (a : Nat) : Prop :=
  t.convoy s.cur = { s.convoy s.cur with pc := a, hold := .none, checked := false, tolled := false, since := none } ∧ ∀ k, k ≠ s.cur → t.convoy k = s.convoy k

/-- The convoy does not wait for the spills of a trap entry (02 R49). -/
def Clear (s : State) : Prop := ∀ ks a, (s.convoy s.cur).hold ≠ .trapSpill ks a

/-- Address of a displacement of w bits, in words, modulo 2^64 (14 R382). -/
def target (pc w d : Nat) : Nat := (BitVec.ofNat 64 pc + 4 * (BitVec.ofNat w d).signExtend 64).toNat

/-- The BRG condition (14 R380). -/
def brgTrue (c : Nat) (y : DWord) : Bool :=
  match c with
  | 0 => y == 0
  | 1 => !(y == 0)
  | 2 => decide (y.toInt < 0)
  | _ => decide (0 ≤ y.toInt)

/-- Next address of a member under a branch (15 R411, R412; 16 R448, R449; 17 R480). -/
def nextAddress (s : State) : Instr → Option (Nat → Nat)
  | .br q n d => some fun x => if (s.thread x).pred q = (n == 1) then (s.convoy s.cur).pc + 4 else target (s.convoy s.cur).pc 21 d
  | .brg a c d => some fun _ =>
      if brgTrue c (s.g s.cur a) then target (s.convoy s.cur).pc 17 d else (s.convoy s.cur).pc + 4
  | .call d => some fun _ => target (s.convoy s.cur).pc 21 d
  | .jmp a => some fun x => ((s.thread x).reg a).toNat
  | .ret => some fun x => ((s.thread x).reg 63).toNat
  | _ => none

def isCall : Instr → Bool | .call _ => true | _ => false
def fromRegister : Instr → Bool | .jmp _ => true | .ret => true | _ => false

/-- A target from a register is usable (14 R372). -/
abbrev Usable (a : Nat) : Prop := a % 4 = 0 ∧ a < 2^57

/-- Size of the group of members with next address `a` (02 R47). -/
def groupSize (s : State) (f : Nat → Nat) (a : Nat) : Nat := ((members s).filter fun x => f x == a).length

/-- `l` lists in ascending order the addresses of the groups of most members (02 R47). -/
def Largest (s : State) (f : Nat → Nat) (l : List Nat) : Prop :=
  l.Pairwise (· < ·) ∧ ∀ a, a ∈ l ↔ (∃ x ∈ members s, f x = a) ∧ ∀ y ∈ members s, groupSize s f (f y) ≤ groupSize s f a

/-- PathTie (02 R47). -/
def tie (s : State) : Nat :=
  ((crew s).seed ^^^ BitVec.ofNat 64 (s.convoy s.cur).pc ^^^
    BitVec.ofNat 64 (laneMask ((s.convoy s.cur).members.map (·.1)) * 2^32)).cpop.toNat

/-- Return address of ERET (10 R286). -/
def returnTo (t : Thread) (skip : Bool) : Nat :=
  (t.trpc + if skip then (if t.len8 then 8 else 4) else 0).toNat

/-- Common frame of an instruction that moves threads: memories are as they were, and every thread of another convoy. -/
structure Still (s t : State) : Prop where
  memory : ∀ a, Tab.get 0 t.mem a = Tab.get 0 s.mem a
  stage : ∀ a, Tab.get 0 t.stage a = Tab.get 0 s.stage a
  acc : ∀ a, Tab.get 0 t.acc a = Tab.get 0 s.acc a
  ob : ∀ a, Tab.get 0 t.ob a = Tab.get 0 s.ob a
  others : ∀ x, x ∉ members s → t.thread x = s.thread x

/-- The cross-lane instructions of 02 R59 among the lane instructions. -/
def crossLane : Instr → Bool
  | .shfl _ _ _ _ _ => true
  | .vote _ _ _ _ => true
  | .scan _ _ _ _ _ => true
  | .scanFadd _ _ _ _ => true
  | .red _ _ _ _ => true
  | .redFadd _ _ _ => true
  | _ => false

/-- Cause of an instruction that is an exception, and the code it carries (15 R423, 17 R499). -/
def softwareTrap : Instr → Option (Nat × Nat)
  | .trap c => some (0x090, c)
  | .brk => some (0x0A0, 0)
  | _ => none

/-! ### Fetching -/

/-- Bytes of memory as a number, little-endian. -/
def lineAt (s : State) (a n : Nat) : Nat := leNat (Tab.getRun 0 s.mem a n)

/-- The core TLB of convoy k maps a virtual address for a fetch, and `w` is the word fetched there, after which the state is `t` (07 R209; 14 R371): what
the instruction path holds, where memory has the same word or the path may keep an older one; else the word that the slice serves. -/
def FetchReads (src : FaultRec) (s t : State) (k va w : Nat) : Prop :=
  let c := s.convoy k
  let n := (s.crew c.crew).ctx
  va < 2^57 ∧ ∃ e pa, tlbFind (s.core c.core).tlb n (s.ctx n).vd va = some e ∧ entryOutcome e va false true = .ok pa ∧
    ((pathWord (s.core c.core) n va = some w ∧ (w = lineAt s pa 4 ∨ Config.fetchOld n va w (lineAt s pa 4) = true) ∧ t = s) ∨
     ((∀ old, pathWord (s.core c.core) n va = some old → old ≠ lineAt s pa 4 ∧ Config.fetchOld n va old (lineAt s pa 4) = false) ∧ usable pa = true ∧
      let r := sliceAccess s { pa, vd := (s.ctx n).vd, acct := n, crew := c.crew, ctx := [n], core := some c.core, free := true, src }
      r.2 = .ok ∧ w = lineAt r.1 pa 4 ∧ t = pathSet r.1 c.core n va w))

/-- The word, or the two words, of the instruction at the PC of convoy k, which has none in hand (14 R370, R373). -/
def FetchesWords (s t : State) (k w0 w1 : Nat) : Prop :=
  let pc := (s.convoy k).pc
  let src := threadRec s (s.convoy k).core (s.convoy k).crew (whoOf s ((s.convoy k).keys.headD 0)) pc pc 0
  s.inHand k = none ∧ ∃ u, FetchReads src s u k pc w0 ∧ ((lenOf w0 = 1 ∧ w1 = 0 ∧ t = u) ∨
    (lenOf w0 = 2 ∧ (u.convoy k).core = (s.convoy k).core ∧ (u.convoy k).crew = (s.convoy k).crew ∧
      (u.crew (u.convoy k).crew).ctx = (s.crew (s.convoy k).crew).ctx ∧ FetchReads src u t k (pc + 4) w1))

/-- The words that convoy k issues: those it has in hand, with nothing settled against them, or those it fetches; the state after it is `t`. -/
def Takes (s t : State) (k w0 w1 : Nat) : Prop :=
  (∃ h, s.inHand k = some h ∧ h.verdict = none ∧ h.w0 = w0 ∧ h.w1 = w1 ∧ t = s.setHand k none) ∨ FetchesWords s t k w0 w1

/-- They decode to `i` (14 R374). -/
def Fetches (s t : State) (k : Nat) (i : Instr) : Prop := ∃ w0 w1, Takes s t k w0 w1 ∧ decode w0 w1 = some i

end Sys2Proof.Claims

open Sys2Proof Sys2Proof.Machine Sys2Proof.Claims

/-! ### Lane instructions -/

/-- Elementwise integer instructions and ICMP: every element of the destination, in every active member. -/
def Obligations.IntegerElements : Prop :=
  ∀ (i : Instr) (p : IntOp) (s : State), intOp i = some p → Issues s 0 →
    ∃ t, exec i s = .next t ∧ ∀ x ∈ active s p.g, ∀ j, j < 64 / p.w →
      el p.w j ((t.thread x).reg p.d) =
        p.f p.w (el p.w j ((s.thread x).reg p.a)) (el p.w j (xB s x p.b)) (el p.w j ((s.thread x).reg p.d))

/-- Logic, moves, permutation and bit fields: every bit of the destination, in every active member. -/
def Obligations.RegisterBits : Prop :=
  ∀ (i : Instr) (p : RegOp) (s : State), regOp i = some p → Issues s p.toll →
    ∃ t, exec i s = .next t ∧ ∀ x ∈ active s p.g, ∀ n, n < 64 →
      ((t.thread x).reg p.d).getLsbD n = p.bit ((s.thread x).reg p.a) (xB s x p.b) ((s.thread x).reg p.d) n

/-- What every lane instruction leaves alone: inactive members and other threads wholly, of an active member all but its
destination and SRSEED under RSR, everything that `Kept` names; the convoy goes on. Its energy: the weight by toll class and active members,
scaled by the island's CF and rounded, is charged to the crew's context (09 R240, R241). -/
def Obligations.LaneFrame : Prop :=
  (∀ (i : Instr) (p : LaneOp) (s : State), laneForm i = some p → Issues s p.toll → p.ok s →
    ∃ t, exec i s = .next t ∧ Advanced i s t ∧ Kept s t ∧
      (∀ x, x ∉ active s p.g → t.thread x = s.thread x) ∧
      ∀ x ∈ active s p.g,
        bare (t.thread x) = bare (s.thread x) ∧
        (∀ r, some r ≠ p.d → (t.thread x).reg r = (s.thread x).reg r) ∧
        (∀ n, n < 8 → some n ≠ p.q → (t.thread x).pred n = (s.thread x).pred n) ∧
        ((∀ n, seedField i = some n → (crew s).mode n ≠ 5) → (t.thread x).srseed = (s.thread x).srseed)) ∧
  (∀ (i : Instr) (p : LaneOp) (s : State), laneForm i = some p → Issues s p.toll → p.ok s →
    ∃ t, exec i s = .next t ∧
      (t.acct (ctx s)).est = (s.acct (ctx s)).est + issueWeight s p.toll (active s p.g).length ∧
      (t.acct (ctx s)).acct = (s.acct (ctx s)).acct +
        (issueWeight s p.toll (active s p.g).length * (s.dom ((s.convoy s.cur).core / 2)).cf + 0x800) / 0x1000)

/-- FADD, FSUB, FMUL, FFMA, FFMS, FMIN, FMAX and FSGN: each element is the exact result rounded once, with the seed's steps. -/
def Obligations.FloatElements : Prop :=
  ∀ (i : Instr) (p : FloatOp) (s : State), floatOp i = some p → Issues s p.toll → Valid s p.n → Rounds s p.n →
    ∃ t, exec i s = .next t ∧ ∀ x ∈ active s p.g,
      let e := (crew s).fmt p.n
      let v (y : DWord) (j : Nat) : Val := decodeVal e (elem y e.width j)
      RoundedInto s p.n e (s.thread x).srseed
        (fun j => p.f ((crew s).mode p.n) (v ((s.thread x).reg p.a) j) (v (xB s x p.b) j) (v ((s.thread x).reg p.d) j))
        ((t.thread x).reg p.d) (t.thread x).srseed

/-- FCMP, FCLASS and FSPC (15 R427, R428, R434). An FSPC result that the bounds do not decide is open (log 11). -/
def Obligations.FloatTests : Prop :=
  (∀ (d a b c n : Nat) (s : State), c ≤ 6 → Issues s 1 → Valid s n →
    ∃ t, exec (.fcmp d a b c n) s = .next t ∧ ∀ x ∈ members s,
      let e := (crew s).fmt n
      ∀ j, j < count e.width →
        let u := decodeVal e (elem ((s.thread x).reg a) e.width j)
        let v := decodeVal e (elem (xB s x b) e.width j)
        let un := u = .nan ∨ v = .nan
        let lt := valLt u v = true
        let eq := ¬un ∧ ¬lt ∧ valLt v u = false
        elem ((t.thread x).reg d) e.width j = 2^e.width - 1 ∧
            (match c with | 0 => eq | 1 => un ∨ ¬eq | 2 => lt | 3 => lt ∨ eq | 4 => un | 5 => ¬un | _ => un ∨ lt) ∨
          elem ((t.thread x).reg d) e.width j = 0 ∧
            ¬(match c with | 0 => eq | 1 => un ∨ ¬eq | 2 => lt | 3 => lt ∨ eq | 4 => un | 5 => ¬un | _ => un ∨ lt)) ∧
  (∀ (d a e n : Nat) (s : State), Issues s 1 → Valid s n → e < count ((crew s).fmt n).width →
    ∃ t, exec (.fclass d a e n) s = .next t ∧ ∀ x ∈ members s,
      (t.thread x).reg d = BitVec.ofNat 64 (classMask ((crew s).fmt n) (elem ((s.thread x).reg a) ((crew s).fmt n).width e))) ∧
  (∀ (d a o n : Nat) (s : State), Issues s 2 → Valid s n → Rounds s n →
    ∃ t, exec (.fspc d a o n) s = .next t ∧ ∀ x ∈ members s,
      let e := (crew s).fmt n
      (∀ j v, j < count e.width → specialVal e o (decodeVal e (elem ((s.thread x).reg a) e.width j)) = some v →
        elem ((t.thread x).reg d) e.width j = encodeVal e (roundVal e ((crew s).mode n) ((crew s).sat n)
          (seedAfter ((crew s).mode n) (s.thread x).srseed (j + 1)).toNat v) % 2^e.width) ∧
      (t.thread x).srseed = seedAfter ((crew s).mode n) (s.thread x).srseed (count e.width))

/-- CVT, CVTI and CVTF over a register span, and FDOT's exact sums (15 R420, R421, R429; 04 R120). -/
def Obligations.Conversions : Prop :=
  (∀ (i : Instr) (s : State) (p : Conversion), conversion s i = some p → p.ok → Rounds s p.n → Span p.a p.p p.dst.width p.src.width →
    Issues s 1 → ∃ t, exec i s = .next t ∧ ∀ x ∈ active s p.g,
      RoundedInto s p.n p.dst (s.thread x).srseed
        (fun j => let m := p.p * count p.dst.width + j
          decodeVal p.src (elem ((s.thread x).reg (p.a + m / count p.src.width)) p.src.width (m % count p.src.width)))
        ((t.thread x).reg p.d) (t.thread x).srseed) ∧
  (∀ (d a b i n : Nat) (s : State), Issues s 2 → Valid s n → Valid s i → Rounds s n →
    DotWidths ((crew s).fmt i).width ((crew s).fmt n).width →
    ∃ t, exec (.fdot d a b i n) s = .next t ∧ ∀ x ∈ members s,
      let ed := (crew s).fmt n
      let ei := (crew s).fmt i
      let h := count ei.width / count ed.width
      RoundedInto s n ed (s.thread x).srseed
        (fun j => sumVals ((crew s).mode n) (decodeVal ed (elem ((s.thread x).reg d) ed.width j) ::
          (List.range h).map fun m =>
            (decodeVal ei (elem ((s.thread x).reg a) ei.width (j * h + m))).mul (decodeVal ei (elem (xB s x b) ei.width (j * h + m)))))
        ((t.thread x).reg d) (t.thread x).srseed)

/-- SHFL and VOTE over the members present (02 R67, R68; 17 R483, R484, R501). -/
def Obligations.ShuffleAndVote : Prop :=
  (∀ (d a b q m : Nat) (s : State), Issues s 1 → WholeIfDet s →
    ∃ t, exec (.shfl d a b q m) s = .next t ∧ ∀ x ∈ members s,
      let w := widthOf m
      let lane := ((s.thread x).reg a).toNat % 32
      let e := ((s.thread x).reg a).toNat / 32 % 64 % count w
      (∀ y, (s.convoy s.cur).inLane lane = some y →
        (∀ j, j < count w → el w j ((t.thread x).reg d) = el w ((e + j) % count w) (xB s y b)) ∧ (0 < q → q < 8 → (t.thread x).pred q = true)) ∧
      ((s.convoy s.cur).inLane lane = none → (t.thread x).reg d = 0 ∧ (0 < q → q < 8 → (t.thread x).pred q = false))) ∧
  (∀ (d b q m : Nat) (s : State), Issues s 1 → WholeIfDet s →
    ∃ t, exec (.vote d b q m) s = .next t ∧ ∀ x ∈ members s,
      let named := (List.range 32).filter fun n => (xB s x b).getLsbD n
      let present := named.filter fun n => ((s.convoy s.cur).inLane n).isSome
      let yes := present.filter fun n => match (s.convoy s.cur).inLane n with | some y => (s.thread y).pred q | none => false
      let r := (t.thread x).reg d
      (m = 0 → r.getLsbD 0 = !yes.isEmpty) ∧ (m = 1 → r.getLsbD 0 = (yes.length == present.length)) ∧
      (m = 2 → r.toNat % 2^32 = yes.length) ∧ (m ≤ 2 → r.getLsbD 32 = (present.length != named.length)) ∧
      (m = 3 → ∀ n, n < 32 → r.getLsbD n = yes.contains n ∧
        r.getLsbD (n + 32) = (named.contains n && !present.contains n)))

/-- SCAN and RED, integer and float: the combination over the members in ascending order (02 R69; 17 R476–R478). -/
def Obligations.ScanAndReduce : Prop :=
  ∀ (i : Instr) (s : State) (p : ScanOp), scanOpOf s i = some p → p.ok → Issues s 1 → WholeIfDet s →
    ∃ t, exec i s = .next t ∧ (∀ x, x ∉ members s → t.thread x = s.thread x) ∧ ∀ x ∈ members s, (t.thread x).srseed = (s.thread x).srseed ∧
      ∀ j, j < count p.w →
      let all := (members s).map fun y => elem ((s.thread y).reg p.a) p.w j
      let n := (members s).idxOf x
      elem ((t.thread x).reg p.d) p.w j =
        (if p.red then (combine p.one p.op all).getD 0
         else if p.exc then (combine p.one p.op (all.take n)).getD p.identity
         else (combine p.one p.op (all.take (n + 1))).getD 0) % 2^p.w

/-! ### Register files, group instructions -/

/-- The three register files. Predicates: QOP and MOVQ write qd, but q0 always reads 1; SEL and MOVQ to a register read one (16 R466; 17 R474,
R482). v registers: bits 63:60 are zero after 6-bit and 12-bit elements are written (03 R86). g registers: the scalar group instructions and FMTR write
gD, g16–g63, and no other; GRDL reads one lane, zero where it is absent (03 R88; 16 R437–R439). A word whose destination field names g0–g15 is no
instruction of a convoy. FMTW stores a legal entry with bits 3:0 clear, and faults with FORMAT_ILLEGAL on another (04 R105, R106). -/
def Obligations.RegisterFiles : Prop :=
  (∀ (d a b g m : Nat) (s : State), d < 8 → m ≤ 6 → Issues s 0 → ∃ t, exec (.qop d a b g m) s = .next t ∧
    ∀ x ∈ active s g, (t.thread x).pred d = (d == 0 ||
      [(s.thread x).pred a && (s.thread x).pred b, (s.thread x).pred a || (s.thread x).pred b,
       (s.thread x).pred a != (s.thread x).pred b, (s.thread x).pred a && !(s.thread x).pred b,
       !(s.thread x).pred a, true, false][m]?.getD false)) ∧
  (∀ (q a g : Nat) (s : State), q < 8 → Issues s 0 → ∃ t, exec (.movqToPredicate q a g) s = .next t ∧
    ∀ x ∈ active s g, (t.thread x).pred q = (q == 0 || (s.thread x).reg a != 0)) ∧
  (∀ (d q g : Nat) (s : State), Issues s 0 → ∃ t, exec (.movqToVector d q g) s = .next t ∧
    ∀ x ∈ active s g, (t.thread x).reg d = if (s.thread x).pred q then 1 else 0) ∧
  (∀ (d a b q : Nat) (s : State), Issues s 0 → ∃ t, exec (.sel d a b q) s = .next t ∧
    ∀ x ∈ members s, (t.thread x).reg d = if (s.thread x).pred q then (s.thread x).reg a else xB s x b) ∧
  (∀ (i : Instr) (p : LaneOp) (n d : Nat) (s : State), laneForm i = some p → entryWritten i = some n → p.d = some d → Issues s p.toll → p.ok s →
    ((crew s).fmt n).width = 6 ∨ ((crew s).fmt n).width = 12 →
    ∃ t, exec i s = .next t ∧ ∀ x ∈ active s p.g, ∀ b, 60 ≤ b → b < 64 → ((t.thread x).reg d).getLsbD b = false) ∧
  (∀ (i : Instr) (s : State) (d : Nat) (v : DWord), scalarOp s i = some (d, v) → 16 ≤ d → Issues s 0 →
    ∃ t, exec i s = .next t ∧ (∀ n, t.g s.cur n = if n = d then v else s.g s.cur n) ∧ GroupFrame i s t) ∧
  (∀ m d a b : Nat, groupMajor m = true → d < 16 → a < 64 → b < 8192 → decode (2^31 + m * 2^25 + d * 2^19 + a * 2^13 + b) 0 = none) ∧
  (∀ (d a n : Nat) (s : State), 16 ≤ d → Issues s 0 → WholeIfDet s →
    ∃ t, exec (.grdl d a n) s = .next t ∧ GroupFrame (.grdl d a n) s t ∧
      ∀ r, t.g s.cur r = if r = d then
          (match (s.convoy s.cur).inLane n with | some x => (s.thread x).reg a | none => 0)
        else s.g s.cur r) ∧
  (∀ (a n : Nat) (s : State), Issues s 0 → legalEntry (((s.g s.cur a).setWidth 32) &&& 0xFFFFFFF0) = true →
    ∃ t, exec (.fmtw a n) s = .next t ∧ Advanced (.fmtw a n) s t ∧ (∀ x, t.thread x = s.thread x) ∧
      (∀ m, Tab.get 0 (t.crew (crewKey s)).f m =
        if m = n then ((s.g s.cur a).setWidth 32) &&& 0xFFFFFFF0 else Tab.get 0 (crew s).f m) ∧
      { t.crew (crewKey s) with f := [] } = { crew s with f := [] } ∧
      (∀ c, c ≠ crewKey s → t.crew c = s.crew c) ∧ ∀ b, Tab.get 0 t.mem b = Tab.get 0 s.mem b) ∧
  (∀ (a n : Nat) (s : State), Issues s 0 → Handles s → legalEntry (((s.g s.cur a).setWidth 32) &&& 0xFFFFFFF0) = false →
    ∃ t, exec (.fmtw a n) s = .next t ∧ Trapped s t (.fmtw a n) 0x031 0 fun _ => 0)

/-! ### Control flow and exceptions -/

/-- A branch, call, jump or return whose members agree on the next address takes the convoy there; CALL leaves the return address
in v63 of every member (15 R411, R412; 16 R448, R449; 17 R480). Divergence (02 R46, R47): the largest group stays, chosen among equals by PathTie;
every other member is spilled at its next address. -/
def Obligations.Branches : Prop :=
  (∀ (i : Instr) (f : Nat → Nat) (s : State) (a : Nat), nextAddress s i = some f → Issues s 0 → Clear s →
    (∀ x ∈ members s, f x = a) → (fromRegister i = true → Usable a) →
    ∃ t, exec i s = .next t ∧ ContinuesAt s t a ∧ Kept s t ∧
      ∀ x, t.thread x = if isCall i ∧ x ∈ members s then (s.thread x).setReg 63 (BitVec.ofNat 64 ((s.convoy s.cur).pc + 4)) else s.thread x) ∧
  (∀ (i : Instr) (f : Nat → Nat) (s : State) (l : List Nat) (a : Nat), nextAddress s i = some f → Issues s 0 → Clear s →
    (fromRegister i = true → ∀ x ∈ members s, Usable (f x)) →
    Largest s f l → l[tie s % l.length]? = some a →
    Fits s (((members s).map f).filter (· != a)) → isCall i = false →
    ∃ t, exec i s = .next t ∧ { t.convoy s.cur with members := [], whole := false } =
        { s.convoy s.cur with members := [], whole := false, pc := a, hold := .none, checked := false, tolled := false, since := none } ∧
      (t.convoy s.cur).keys = (members s).filter (fun x => f x == a) ∧
      (∀ x ∈ members s, f x = a → t.thread x = s.thread x) ∧
      (∀ x ∈ members s, f x ≠ a → InLayby s t x (f x) ∧ { t.thread x with state := .spilled, pc := 0 } = { s.thread x with state := .spilled, pc := 0 }) ∧
      (∀ k, k ≠ s.cur → t.convoy k = s.convoy k) ∧ Still s t) ∧
  (∀ (i : Instr) (f : Nat → Nat) (s : State) (l : List Nat) (a : Nat), nextAddress s i = some f → Issues s 0 → Clear s →
    (fromRegister i = true → ∀ x ∈ members s, Usable (f x)) →
    Largest s f l → l[tie s % l.length]? = some a →
    ¬Fits s (((members s).map f).filter (· != a)) → isCall i = false →
    ∃ t, exec i s = .next t ∧ t = s.setConvoy s.cur { s.convoy s.cur with hold := .on i })

/-- TRAP and BRK enter the trap handler in every member (10 R284; 15 R423; 17 R499). In a run with no handler, or of a member in the
handler, they stop the context instead (10 R285, R287, R288): no convoy of the context issues again, and its live runs carry a code. TRAP of a member
in the handler gives the code in its TRCAUSE. -/
def Obligations.SoftwareTraps : Prop :=
  (∀ (i : Instr) (cause code : Nat) (s : State), softwareTrap i = some (cause, code) → Issues s 0 → Handles s →
    ∃ t, exec i s = .next t ∧ Trapped s t i cause code fun _ => 0) ∧
  (∀ (i : Instr) (cause code : Nat) (s : State) (x : Nat), softwareTrap i = some (cause, code) → Issues s 0 →
    (members s).find? (fun y => (s.thread y).inTrap || (run s).trap == 0) = some x →
    (s.ctx (ctx s)).stop = none → s.host.kept = [] →
    ∃ t, exec i s = .next t ∧ (t.convoy s.cur).members = [] ∧
      (t.ctx (ctx s)).stop = some (if cause = 0x090 ∧ (s.thread x).inTrap = true then (s.thread x).trcause.toNat % 0x1000 else 0xC00 + cause) ∧
      (∀ k ∈ t.issue, (t.crew (t.convoy k).crew).ctx ≠ ctx s) ∧
      (∀ p ∈ t.runs, p.2.ctx = ctx s → p.2.live = true → p.2.code ≠ none) ∧
      (∀ y ∈ members s, (s.thread y).inTrap = true → t.thread y = s.thread y))

/-- The checks of an instruction's issue, in their order, each fault taken by every member (04 R107; 02 R59; 08 R239; 14 R372, R374). -/
def Obligations.InstructionFaults : Prop :=
  (∀ (i : Instr) (p : LaneOp) (s : State), laneForm i = some p → p.ok s → members s ≠ [] → Handles s → (s.convoy s.cur).checked = false →
    (s.island ((s.convoy s.cur).core / 2)).pool < p.toll →
    ∃ t, exec i s = .next t ∧ Trapped s t i 0x040 0 fun _ => 0) ∧
  (∀ (i : Instr) (p : FloatOp) (s : State), floatOp i = some p → Issues s p.toll → Handles s →
    (¬Valid s p.n → ∃ t, exec i s = .next t ∧ Trapped s t i 0x030 0 fun _ => 0) ∧
    (Valid s p.n → ¬Rounds s p.n → ∃ t, exec i s = .next t ∧ Trapped s t i 0x031 0 fun _ => 0)) ∧
  (∀ (i : Instr) (p : LaneOp) (s : State), laneForm i = some p → crossLane i = true → Issues s 1 → Handles s → ¬WholeIfDet s →
    ∃ t, exec i s = .next t ∧ Trapped s t i 0x100 0 fun _ => 0) ∧
  (∀ (i : Instr) (f : Nat → Nat) (s : State), nextAddress s i = some f → fromRegister i = true → Issues s 0 → Handles s → Clear s →
    ((∀ x ∈ members s, f x % 4 ≠ 0) → ∃ t, exec i s = .next t ∧ Trapped s t i 0x011 0 f) ∧
    ((∀ x ∈ members s, f x % 4 = 0 ∧ 2^57 ≤ f x) → ∃ t, exec i s = .next t ∧ Trapped s t i 0x021 0 f))

/-- ERET returns every member from the handler (10 R286): INTRAP off, spilled at its return address. -/
def Obligations.ReturnFromTrap : Prop :=
  (∀ (x : Nat) (s : State), Issues s 0 → (∀ y ∈ members s, (s.thread y).inTrap = true ∧ Usable (returnTo (s.thread y) (x == 1))) →
    Fits s ((members s).map fun y => returnTo (s.thread y) (x == 1)) →
    ∃ t, exec (.eret x) s = .next t ∧ (t.convoy s.cur).members = [] ∧ Still s t ∧
      ∀ y ∈ members s, InLayby s t y (returnTo (s.thread y) (x == 1)) ∧
        t.thread y = { s.thread y with inTrap := false, state := .spilled, pc := BitVec.ofNat 64 (returnTo (s.thread y) (x == 1)) }) ∧
  (∀ (x : Nat) (s : State), Issues s 0 → Handles s → ∃ t, exec (.eret x) s = .next t ∧ Trapped s t (.eret x) 0x003 0 fun _ => 0)

namespace Sys2Proof.Claims

/-! ### Instructions that may be held -/

/-- The same state with convoy `k` as the one that executes. -/
def at_ (k : Nat) (s : State) : State := { s with cur := k }

/-- `i` issues for convoy k, or convoy k is held in `i` and the event `ev` evaluates it again; `R` holds afterwards in either case. -/
def Completes (i ev : Instr) (k : Nat) (s : State) (R : State → Prop) : Prop :=
  (s.cur = k → Issues s 0 → ∃ t, exec i s = .next t ∧ R t) ∧ ((s.convoy k).hold = .on i → ∃ t, exec ev s = .next t ∧ R t)

/-- A group instruction went on: the convoy k advanced, no thread changed, what `Kept` names is as it was. -/
def WentOn (i : Instr) (k : Nat) (s t : State) : Prop :=
  Advanced i (at_ k s) t ∧ (∀ x, t.thread x = s.thread x) ∧ Kept (at_ k s) t

/-- The same where other units changed too: convoy, threads, memory, stage memory, tile store and operand buffer. -/
def WentOnIn (i : Instr) (k : Nat) (s t : State) : Prop :=
  t.convoy k = { s.convoy k with pc := (s.convoy k).pc + byteLen i, hold := .none, checked := false, tolled := false, since := none } ∧
    (∀ x, t.thread x = s.thread x) ∧ (∀ a, Tab.get 0 t.mem a = Tab.get 0 s.mem a) ∧ (∀ a, Tab.get 0 t.acc a = Tab.get 0 s.acc a) ∧
    ∀ a, Tab.get 0 t.ob a = Tab.get 0 s.ob a

/-- Loads, stores, copies, tile operations that the members of convoy k wait for are complete (07 R197, R198). -/
abbrev Quiet (s : State) (k : Nat) (loads stores copies tiles : Bool) : Prop :=
  ∀ x ∈ (s.convoy k).keys, (loads = true → (s.thread x).ocl = 0) ∧ (stores = true → (s.thread x).ocs = 0) ∧
    (copies = true → (s.thread x).occ = 0) ∧ (tiles = true → (s.thread x).oct = 0)

/-- The last key given out before the release or fence of convoy k began: now, where none is under way. -/
def began (s : State) (k : Nat) : Nat := (s.convoy k).since.getD s.fresh

/-- The address unit of the convoy's core has performed every store issued before the release of convoy k began (07 R197). -/
abbrev Drained (s : State) (k : Nat) : Prop :=
  (∀ x ∈ s.flight.stores, x.core = (s.convoy k).core → began s k < if x.ofAtom = 0 then x.id else x.ofAtom) ∧
  (∀ e ∈ (s.core (s.convoy k).core).sideLog, began s k < e.id) ∧
  ∀ a ∈ s.flight.atoms, a.core = (s.convoy k).core → a.ret = true ∨ began s k < a.id

/-- The convoy waits inside the instruction; no thread, stage memory or memory has changed (02 R45). -/
def HeldAt (i : Instr) (k : Nat) (s t : State) : Prop :=
  t.convoy k = { s.convoy k with hold := .on i } ∧ (∀ j, j ≠ k → t.convoy j = s.convoy j) ∧ t.threads = s.threads ∧ t.stage = s.stage ∧ t.mem = s.mem

/-- Members that a SPAWN with selector predicate q selects (02 R62). -/
def selected (s : State) (k q : Nat) : List (Nat × Nat) :=
  (s.convoy k).members.filter fun m => (s.thread (tkey (s.convoy k).core (s.convoy k).quad m.1 m.2)).pred q

/-- Initial SRSEED of a coordinate (03 R97). -/
def seedOf (seed : DWord) (lane cohort crew : Nat) : Word :=
  let x := seed.extractLsb' 0 32 ^^^ seed.extractLsb' 32 32 ^^^ BitVec.ofNat 32 ((lane + cohort * 2^5 + crew * 2^12) * 0x9E3779B9)
  if x = 0 then 1 else x

/-- Crew of convoy k, and barrier n of it. -/
def crewAt (s : State) (k : Nat) : Crew := s.crew (s.convoy k).crew
def bar (s : State) (k n : Nat) : Barrier := Tab.get {} (crewAt s k).bars n

/-- Barriers that the footprint has (03 R89). -/
abbrev BarrierOf (s : State) (k n : Nat) : Prop := n < if (crewAt s k).foot = .half then 64 else 128

/-- The completion rule of a barrier (15 R404). -/
def settle (b : Barrier) : Barrier :=
  if b.armed = true ∧ b.arrived = b.expect ∧ b.tx = 0 ∧ b.ovf = false then { b with phase := !b.phase, arrived := 0 } else b

abbrev Int32 (x : Int) : Prop := -2^31 ≤ x ∧ x < 2^31

/-- After an update of barrier n of the crew of convoy k to `b`, completion included: no other barrier changed, and a completion
has released every convoy held in a BARW of the barrier (15 R404, R408). -/
def BarrierIs (s t : State) (k n : Nat) (b : Barrier) : Prop :=
  (∀ m, bar t k m = if m = n then settle b else bar s k m) ∧
  (settle b ≠ b → ∀ j a, j ≠ k → (s.convoy j).crew = (s.convoy k).crew → (s.convoy j).hold = .on (.barw n a) →
    (t.convoy j).hold = .barwDone (.barw n a) ∧ .barwRelease j ∈ t.due)

/-- Words of the context leave the TLBs in scope (06 R174). -/
def TlbGone (t : State) (sc core ctx : Nat) : Prop :=
  (∀ c, coreInScope sc core c = true → ∀ e ∈ (t.core c).tlb, e.ctx ≠ ctx) ∧
    ∀ i, sc ≠ 0 → coreInScope sc core (2 * i) = true → ∀ e ∈ (t.island i).tlb, e.ctx ≠ ctx

/-- Index of a coordinate in a signpost's order (02 R77): row by row, or band by band in a serpentine. -/
def signIndex (r : Run) (x y : Nat) : Nat :=
  if r.serp then
    let b := y / r.band
    b * r.band * r.spx + (if b % 2 = 0 then x else r.spx - 1 - x) * min r.band (r.spy - r.band * b) + y % r.band
  else y * r.spx + x

/-- A convoy's holding as TOLLS reads it (08 R232): its size, or the tokens it has, free and in hold windows, where they are more. -/
def held (s : State) (k : Nat) : Nat :=
  max (s.convoy k).tolls ((s.convoy k).free +
    (((s.island ((s.convoy k).core / 2)).windows.filter fun w => w.holder == some k).map (·.tokens)).sum)

/-- Grant of TCLAIM n (08 R232): within half the pool less the holdings of the ring's other convoys. -/
def grant (s : State) (k n : Nat) : Nat :=
  min n ((s.island ((s.convoy k).core / 2)).pool / 2 -
    ((s.convoys.filter fun p => p.1 != k && p.2.core / 2 == (s.convoy k).core / 2).map fun p => held s p.1).sum)

/-- Names of the thread-scope registers and what they read (03 R95). -/
def threadRegister (t : Thread) (lane : Nat) : Nat → Option DWord
  | 0x00 => some (BitVec.ofNat 64 lane)
  | 0x04 => some (BitVec.ofNat 64 t.cohort)
  | 0x07 => some (BitVec.ofNat 64 t.stage)
  | 0x22 => some (t.srseed.setWidth 64)
  | 0x30 => some t.trpc
  | 0x31 => some ((t.trcause &&& 0xFFFF0FFF).setWidth 64)
  | 0x32 => some t.traddr
  | 0x33 => some t.trval
  | 0x34 => some t.trlane
  | 0x40 => some (BitVec.ofNat 64 t.ocl)
  | 0x41 => some (BitVec.ofNat 64 t.ocs)
  | 0x42 => some (BitVec.ofNat 64 t.occ)
  | 0x43 => some (BitVec.ofNat 64 t.oct)
  | 0x44 => some (BitVec.ofNat 64 t.llat)
  | _ => none

/-- Frequency of an operating point in MHz, and its rail (08 R219). -/
def megahertz (p : Nat) : Nat :=
  ([600, 800, 1000, 1200, 1400, 1600, 1800, 2000, 2100, 2200, 2300, 2400, 2500, 2600, 2700, 2800])[p]?.getD 0

/-- The other registers (03 R95). -/
def groupRegister (s : State) (n : Nat) : Option DWord :=
  let c := s.convoy s.cur
  if 0x100 ≤ n ∧ n < 0x120 then some ((Tab.get 0 (crew s).k ((n - 0x100) / 2)).extractLsb' (64 * (n % 2)) 64)
  else if 0x120 ≤ n ∧ n < 0x130 then some (Tab.get 0 (crew s).w (n - 0x120))
  else match n with
    | 0x01 => some (BitVec.ofNat 64 c.quad)
    | 0x02 => some (BitVec.ofNat 64 c.core)
    | 0x03 => some (BitVec.ofNat 64 (c.core / 2))
    | 0x05 => some (BitVec.ofNat 64 (crew s).num)
    | 0x06 => some ((BitVec.ofNat 32 (run s).id).setWidth 64)
    | 0x08 => some (BitVec.ofNat 64 (run s).ncrew)
    | 0x10 => some (BitVec.ofNat 64 c.pc)
    | 0x20 => some (crew s).rsm
    | 0x21 => some (crew s).seed
    | 0x50 => some (BitVec.ofNat 64 (held s s.cur))
    | 0x51 => some (BitVec.ofInt 64 (s.acct (ctx s)).acct)
    | 0x52 =>
      let i := s.island (c.core / 2)
      some (BitVec.ofNat 64 (i.cur + 2^4 * i.rail + 2^8 * i.trim + 2^16 * megahertz i.cur))
    | _ => none

/-- What SRW stores in a thread-scope register (17 R488). -/
def threadWritten (t : Thread) (x : DWord) : Nat → Option Thread
  | 0x22 => some { t with srseed := if x.extractLsb' 0 32 = 0 then 1 else x.extractLsb' 0 32 }
  | 0x30 => some { t with trpc := x }
  | 0x31 => some { t with trcause := x.extractLsb' 0 32 }
  | 0x32 => some { t with traddr := x }
  | 0x33 => some { t with trval := x }
  | 0x34 => some { t with trlane := x &&& 0x1F1F }
  | _ => none

end Sys2Proof.Claims

/-! ### Leaving, creating and synchronising threads -/

/-- JOIN lets a full enough convoy through and parks the members of another in the layby behind it (02 R56, R57); EXIT ends the
convoy and leaves its rows exiting (02 R65). -/
def Obligations.JoinAndExit : Prop :=
  (∀ (n : Nat) (s : State), Issues s 0 → (if (run s).det = true then (s.convoy s.cur).whole = true else n ≤ (members s).length) →
    ∃ t, exec (.join n) s = .next t ∧ ContinuesAt s t ((s.convoy s.cur).pc + 4) ∧ Kept s t ∧ ∀ x, t.thread x = s.thread x) ∧
  (∀ (n : Nat) (s : State), Issues s 0 → ¬(if (run s).det = true then (s.convoy s.cur).whole = true else n ≤ (members s).length) →
    Fits s [(s.convoy s.cur).pc + 4] →
    ∃ t, exec (.join n) s = .next t ∧ (t.convoy s.cur).members = [] ∧ Still s t ∧
      (∀ x ∈ members s, InLayby s t x ((s.convoy s.cur).pc + 4) ∧
        t.thread x = { s.thread x with state := .spilled, pc := BitVec.ofNat 64 ((s.convoy s.cur).pc + 4) }) ∧
      ((run s).det = true → ∃ l ∈ t.laybys, l.crew = crewKey s ∧ l.addr = (s.convoy s.cur).pc + 4 ∧ l.junction = true)) ∧
  (∀ s : State, Issues s 0 →
    ∃ t, exec .exit s = .next t ∧ (t.convoy s.cur).members = [] ∧ Still s t ∧
      ∀ x ∈ members s, t.thread x = { s.thread x with state := .exiting } ∧ .rowFree x ∈ t.due)

/-- SYNCM parks every member in its cohort's record, or, with the last arrival, ends the episode (02 R71): each member stands parked in the
record of the mask or is spilled behind the instruction. -/
def Obligations.CohortSync : Prop :=
  ∀ (a : Nat) (s : State),
    let mask := (s.g s.cur a).toNat % 2^32
    let next := (s.convoy s.cur).pc + 4
    let record (s : State) (x : Nat) : SyncRec := Tab.get {} (s.crew (crewKey s)).syncs (s.thread x).cohort
    Issues s 0 → (∀ x ∈ members s, mask.testBit (x / 16 % 32) = true ∧ ((record s x).parked = [] ∨ (record s x).mask = mask)) →
    ∃ t, exec (.syncm a) s = .next t ∧ (t.convoy s.cur).members = [] ∧
      (∀ b, Tab.get 0 t.mem b = Tab.get 0 s.mem b) ∧
      ∀ x ∈ members s, { t.thread x with state := .parked, pc := 0 } = { s.thread x with state := .parked, pc := 0 } ∧
        let r := Tab.get {} (t.crew (crewKey s)).syncs (s.thread x).cohort
        ((t.thread x).state = .parked ∧ x ∈ r.parked ∧ r.mask = mask ∧ r.addr = next ∨
         (t.thread x).state = .spilled ∧ (t.thread x).pc = BitVec.ofNat 64 next ∧
           ∃ l ∈ t.laybys, l.crew = crewKey s ∧ l.addr = next ∧ x ∈ l.queue)

/-- NOP, YIELD, TFREE, and TCLAIM with a holding that covers the grant (08 R232, R233; 17 R502, R503).
The bound of the grant is the model's reading (log 48). -/
def Obligations.ConvoyHousekeeping : Prop :=
  (∀ s : State, Issues s 0 → ∃ t, exec .nop s = .next t ∧ WentOn .nop s.cur s t) ∧
  (∀ s : State, Issues s 0 → ∃ t, exec .yield s = .next t ∧
    t.convoy s.cur = { s.convoy s.cur with pc := (s.convoy s.cur).pc + 4, hold := .none, checked := false, tolled := false, since := none,
                                           age := ((s.island ((s.convoy s.cur).core / 2)).cycle : Int),
                                           notBefore := (s.island ((s.convoy s.cur).core / 2)).cycle + 1 } ∧
    (∀ k, k ≠ s.cur → t.convoy k = s.convoy k) ∧ (∀ x, t.thread x = s.thread x) ∧ Kept s t) ∧
  (∀ s : State, Issues s 0 →
    let n := (s.convoy s.cur).core / 2
    let stop := quadStop (s.convoy s.cur).core (s.convoy s.cur).quad
    ∃ t, exec .tfree s = .next t ∧
      t.convoy s.cur = { s.convoy s.cur with pc := (s.convoy s.cur).pc + 4, hold := .none, checked := false, tolled := false, since := none,
                                             tolls := 0, free := 0 } ∧
      (∀ x, t.thread x = s.thread x) ∧
      ((s.island n).debt = 0 → (s.island n).claims = [] →
        (t.island n).bins = (s.island n).bins.set stop ((s.island n).bins[stop]?.getD 0 + (s.convoy s.cur).free))) ∧
  (∀ (n : Nat) (s : State), Issues s 0 → grant s s.cur n ≤ held s s.cur →
    ∃ t, exec (.tclaim n) s = .next t ∧ (∀ x, t.thread x = s.thread x) ∧
      (t.convoy s.cur).tolls = grant s s.cur n ∧ (t.convoy s.cur).pc = (s.convoy s.cur).pc + byteLen (.tclaim n) ∧
      ((s.convoy s.cur).tolls ≠ grant s s.cur n → (t.convoy s.cur).youth = (s.island ((s.convoy s.cur).core / 2)).cycle) ∧
      (t.convoy s.cur).free = min (s.convoy s.cur).free (grant s s.cur n)) ∧
  (∀ (n : Nat) (s : State), Issues s 0 → held s s.cur < grant s s.cur n →
    ∃ t, exec (.tclaim n) s = .next t ∧ t.convoy s.cur = { s.convoy s.cur with hold := .on (.tclaim n) } ∧ (∀ x, t.thread x = s.thread x))

/-- BARI, BARA, BART and BARW on a barrier of the crew (03 R89; 15 R403–R408): the new barrier, completion included, and what a
completion releases. BARA waits for its members' loads and stores, BARW for a phase other than bit 0 of gA. -/
def Obligations.Barriers : Prop :=
  (∀ (n a c : Nat) (s : State), Issues s 0 → BarrierOf s s.cur n →
    let b := bar s s.cur n
    let e := (s.g s.cur a).toNat
    let x := (s.g s.cur c).toInt
    b.ovf = false → 1 ≤ e → e ≤ 4096 → Int32 x → (b.armed = true → b.arrived = 0 ∧ b.tx = 0) →
    ∃ t, exec (.bari n a c) s = .next t ∧ WentOnIn (.bari n a c) s.cur s t ∧
      BarrierIs s t s.cur n { b with expect := e, tx := x, arrived := 0, armed := true }) ∧
  (∀ (n a : Nat) (s : State), Issues s 0 → BarrierOf s s.cur n →
    let b := bar s s.cur n
    let x := (s.g s.cur a).toInt
    b.ovf = false → b.armed = true → Int32 x → Int32 (b.tx + x) →
    ∃ t, exec (.bart n a) s = .next t ∧ WentOnIn (.bart n a) s.cur s t ∧ BarrierIs s t s.cur n { b with tx := b.tx + x }) ∧
  (∀ (k n : Nat) (s : State), BarrierOf s k n → Quiet s k true true false false →
    ((crewAt s k).foot = .cluster → Drained s k) →
    let b := bar s k n
    b.ovf = false → b.armed = true → b.arrived + (s.convoy k).members.length ≤ b.expect →
    Completes (.bara n) (.baraArrive k) k s fun t =>
      WentOnIn (.bara n) k s t ∧ BarrierIs s t k n { b with arrived := b.arrived + (s.convoy k).members.length }) ∧
  (∀ (k n a : Nat) (s : State), BarrierOf s k n → Quiet s k true true false false →
    ((bar s k n).phase ≠ (s.g k a).getLsbD 0 →
      Completes (.barw n a) (.barwRelease k) k s fun t =>
        WentOnIn (.barw n a) k s t ∧ ((crewAt s k).foot = .cluster → (t.core (s.convoy k).core).l1 = [])) ∧
    ((s.convoy k).hold = .barwDone (.barw n a) → ∃ t, exec (.barwRelease k) s = .next t ∧ WentOnIn (.barw n a) k s t))

/-- MLPASS sends its pass, the signpost unit records the greatest value, MLWAIT goes on once the milestone has reached gA (16 R455–R458). -/
def Obligations.Milestones : Prop :=
  (∀ (a m : Nat) (s : State), Issues s 0 → Quiet s s.cur true true false false → Drained s s.cur →
    ∃ t, exec (.mlpass a m) s = .next t ∧ WentOnIn (.mlpass a m) s.cur s t ∧
      t.run (crew s).run = { run s with passes := (run s).passes ++ [(m, s.g s.cur a)] } ∧ .mlpassRecord (crew s).run ∈ t.due) ∧
  (∀ (n m : Nat) (x : DWord) (l : List (Nat × DWord)) (s : State), (s.run n).passes = (m, x) :: l →
    ∃ t, exec (.mlpassRecord n) s = .next t ∧ (t.run n).passes = l ∧
      (∀ j, Tab.get 0 (t.run n).miles j = if j = m ∧ (Tab.get 0 (s.run n).miles m).toNat < x.toNat then x else Tab.get 0 (s.run n).miles j) ∧
      (∀ k, (s.crew (s.convoy k).crew).run = n → (∃ a j, (s.convoy k).hold = .on (.mlwait a j)) → .mlwaitRelease k ∈ t.due) ∧
      ∀ a, Tab.get 0 t.mem a = Tab.get 0 s.mem a) ∧
  (∀ (k a m : Nat) (s : State), Quiet s k true true false false →
    (s.g k a).toNat ≤ (Tab.get 0 (s.run (crewAt s k).run).miles m).toNat →
    Completes (.mlwait a m) (.mlwaitRelease k) k s fun t => WentOnIn (.mlwait a m) k s t ∧ (t.core (s.convoy k).core).l1 = [])

/-- WAIT and the fences complete once what they wait for is done (06 R174; 07 R196–R200, R209): FENCE with acquire empties the L1,
TFENCE the TLBs in scope, IFENCE the instruction paths. -/
def Obligations.WaitAndFences : Prop :=
  (∀ (k l st c u : Nat) (s : State),
    (∀ x ∈ (s.convoy k).keys, (s.thread x).ocl ≤ l ∧ (s.thread x).ocs ≤ st ∧ (s.thread x).occ ≤ c ∧ (s.thread x).oct ≤ u) →
    Completes (.wait l st c u) (.waitRelease k) k s fun t => WentOn (.wait l st c u) k s t) ∧
  (∀ (k sc kinds dir : Nat) (s : State),
    Quiet s k (kinds.testBit 0) (kinds.testBit 1) (kinds.testBit 2) (kinds.testBit 3) → (sc = 0 ∨ dir < 2 ∨ Drained s k) →
    Completes (.fence sc kinds dir) (.fenceComplete k) k s fun t => WentOnIn (.fence sc kinds dir) k s t ∧
      (sc ≠ 0 → dir ≠ 2 → (t.core (s.convoy k).core).l1 = [] ∧ ∀ r ∈ t.flight.reqs, r.core = (s.convoy k).core → r.mark = 0)) ∧
  (∀ (k sc : Nat) (s : State), Quiet s k false true false false → inFlight s sc (s.convoy k).core (crewAt s k).ctx (began s k) = false →
    Completes (.tfence sc) (.tfenceComplete k) k s fun t => WentOnIn (.tfence sc) k s t ∧ TlbGone t sc (s.convoy k).core (crewAt s k).ctx) ∧
  (∀ (k sc : Nat) (s : State), Quiet s k false true false false →
    Completes (.ifence sc) (.ifenceComplete k) k s fun t => WentOnIn (.ifence sc) k s t ∧
      ∀ c, coreInScope sc (s.convoy k).core c = true → ∀ e ∈ (t.core c).ipath, e.1 ≠ (crewAt s k).ctx)

/-- TAKE waits for the signpost, which hands out the coordinates of the run in order, each once, and all ones after the last
(02 R77, R78; 17 R494). -/
def Obligations.Signpost : Prop :=
  (∀ (d : Nat) (s : State), Issues s 0 →
    ∃ t, exec (.take d) s = .next t ∧ t.convoy s.cur = { s.convoy s.cur with hold := .on (.take d) } ∧ .takeReturn s.cur ∈ t.due ∧
      (∀ x, t.thread x = s.thread x) ∧ Kept s t) ∧
  (∀ (d k : Nat) (s : State), (s.convoy k).hold = .on (.take d) → 16 ≤ d →
    let n := (crewAt s k).run
    let r := s.run n
    (r.serp = true → 1 ≤ r.band) →
    (r.next < r.spx * r.spy → ∃ t x y, exec (.takeReturn k) s = .next t ∧ x < r.spx ∧ y < r.spy ∧ signIndex r x y = r.next ∧
      t.g k d = BitVec.ofNat 64 (y * 2^32 + x) ∧ t.run n = { r with next := r.next + 1 } ∧
      (t.convoy k).pc = (s.convoy k).pc + byteLen (.take d) ∧ (t.convoy k).hold = .none ∧ ∀ z, t.thread z = s.thread z) ∧
    (r.spx * r.spy ≤ r.next → ∃ t, exec (.takeReturn k) s = .next t ∧ t.g k d = BitVec.allOnes 64 ∧ t.runs = s.runs ∧
      (t.convoy k).pc = (s.convoy k).pc + byteLen (.take d) ∧ (t.convoy k).hold = .none))

/-! ### Threads made, handoff queues -/

/-- SPAWN (02 R61, R62, R97, R101): with its release done, a free cohort number and a free row in each selected lane, every selected member
has a child in the lowest free row, spilled at the entry, with v0 from vA, the parent's stage, SRSEED of its coordinate, and all else zero; with no member
selected it goes on; else it is held and there is no child. SPAWN_COMPLETE evaluates a held SPAWN again. HPUT and HGET (02 R73, R75; 16 R441): the value at
the tail, or the value from the head; on a full or an empty queue, and where other convoys wait before it, the convoy is held in its place among them. BARI, BARA and BART fault with
BARRIER_OVERFLOW (15 R404–R407) on an operand out of range, a barrier that is not armed, an arrival beyond EXPECT, and while OVF is set; only BARI of a
barrier with OVF set changes it. -/
def Obligations.CrewCoordination : Prop :=
  (∀ (k e q a coh : Nat) (s : State) (row : Nat × Nat → Nat),
    let c := s.convoy k
    let sel := selected s k q
    let key (m : Nat × Nat) : Nat := tkey c.core c.quad m.1 m.2
    let child (m : Nat × Nat) : Nat := tkey c.core c.quad m.1 (row m)
    let entry := Tab.get 0 (run (at_ k s)).spawn e
    entry ≠ 0 → sel ≠ [] → (∀ m ∈ sel, (s.thread (key m)).ocl = 0 ∧ (s.thread (key m)).ocs = 0) →
    freeCohort s c.crew = some coh → (∀ m ∈ sel, freeRow s (crewAt s k) c.core c.quad m.1 = some (row m)) → (sel.map child).Nodup →
    Fits (at_ k s) [entry] →
    Completes (.spawn e q a) (.spawnComplete k) k s fun t => Advanced (.spawn e q a) (at_ k s) t ∧
      (∀ m ∈ sel, (∀ r, (t.thread (child m)).reg r = if r = 0 then (s.thread (key m)).reg a else 0) ∧
        { t.thread (child m) with v := [] } =
          { state := .spilled, pc := BitVec.ofNat 64 entry, crew := c.crew, cohort := coh, stage := (s.thread (key m)).stage,
            srseed := seedOf (crewAt s k).seed (child m / 16 % 32) coh (crewAt s k).num, gen := (s.thread (child m)).gen + 1 } ∧
        InLayby (at_ k s) t (child m) entry) ∧
      (∀ x, (∀ m ∈ sel, child m ≠ x) → t.thread x = s.thread x) ∧
      (∀ b, Tab.get 0 t.mem b = Tab.get 0 s.mem b)) ∧
  (∀ (k e q a : Nat) (s : State),
    let c := s.convoy k
    let entry := Tab.get 0 (run (at_ k s)).spawn e
    entry ≠ 0 →
    (selected s k q = [] → Completes (.spawn e q a) (.spawnComplete k) k s fun t => WentOn (.spawn e q a) k s t) ∧
    (selected s k q ≠ [] →
      (∃ m ∈ selected s k q, (s.thread (tkey c.core c.quad m.1 m.2)).ocl ≠ 0 ∨ (s.thread (tkey c.core c.quad m.1 m.2)).ocs ≠ 0) ∨
        freeCohort s c.crew = none ∨ (∃ m ∈ selected s k q, freeRow s (crewAt s k) c.core c.quad m.1 = none) ∨
        ¬Fits (at_ k s) [entry] →
      Completes (.spawn e q a) (.spawnComplete k) k s fun t =>
        t = s.setConvoy k { c with hold := .on (.spawn e q a), since := some (began s k) })) ∧
  (∀ (k a n : Nat) (s : State),
    let q : Handoff := Tab.get {} (crewAt s k).hq n
    let p := handoffPlace (crewAt s k) n (q.head + q.count)
    q.count < 64 → (q.waitPut = [] ∨ q.waitPut.head? = some k) → Quiet s k true true false false →
    Completes (.hput a n) (.hputPerform k) k s fun t =>
      WentOnIn (.hput a n) k s t ∧
      (∀ b, Tab.get 0 t.stage b = if p ≤ b ∧ b < p + 8 then (s.g k a).extractLsb' (8 * (b - p)) 8 else Tab.get 0 s.stage b) ∧
      Tab.get {} (crewAt t k).hq n = { q with count := q.count + 1, waitPut := q.waitPut.tail }) ∧
  (∀ (k d n : Nat) (s : State),
    let q : Handoff := Tab.get {} (crewAt s k).hq n
    let p := handoffPlace (crewAt s k) n q.head
    0 < q.count → (q.waitGet = [] ∨ q.waitGet.head? = some k) → 16 ≤ d → Quiet s k true true false false →
    Completes (.hget d n) (.hgetPerform k) k s fun t =>
      (t.convoy k).pc = (s.convoy k).pc + byteLen (.hget d n) ∧ (t.convoy k).hold = .none ∧ (∀ x, t.thread x = s.thread x) ∧
      (∀ b, Tab.get 0 t.stage b = Tab.get 0 s.stage b) ∧
      (∀ j, j < 8 → (t.g k d).extractLsb' (8 * j) 8 = Tab.get 0 s.stage (p + j)) ∧
      Tab.get {} (crewAt t k).hq n = { q with head := (q.head + 1) % 64, count := q.count - 1, waitGet := q.waitGet.tail }) ∧
  (∀ (k a n : Nat) (s : State),
    let q : Handoff := Tab.get {} (crewAt s k).hq n
    (Quiet s k true true false false → (64 ≤ q.count ∨ q.waitPut ≠ [] ∧ q.waitPut.head? ≠ some k) →
      Completes (.hput a n) (.hputPerform k) k s fun t => HeldAt (.hput a n) k s t ∧
        Tab.get {} (crewAt t k).hq n = { q with waitPut := if k ∈ q.waitPut then q.waitPut else q.waitPut ++ [k] }) ∧
    (¬Quiet s k true true false false → Completes (.hput a n) (.hputPerform k) k s fun t => HeldAt (.hput a n) k s t ∧ t.crews = s.crews)) ∧
  (∀ (k d n : Nat) (s : State),
    let q : Handoff := Tab.get {} (crewAt s k).hq n
    (Quiet s k true true false false → (q.count = 0 ∨ q.waitGet ≠ [] ∧ q.waitGet.head? ≠ some k) →
      Completes (.hget d n) (.hgetPerform k) k s fun t => HeldAt (.hget d n) k s t ∧
        Tab.get {} (crewAt t k).hq n = { q with waitGet := if k ∈ q.waitGet then q.waitGet else q.waitGet ++ [k] }) ∧
    (¬Quiet s k true true false false → Completes (.hget d n) (.hgetPerform k) k s fun t => HeldAt (.hget d n) k s t ∧ t.crews = s.crews)) ∧
  (∀ (n a c : Nat) (s : State), Issues s 0 → Handles s → BarrierOf s s.cur n →
    let b := bar s s.cur n
    let e := (s.g s.cur a).toNat
    let x := (s.g s.cur c).toInt
    (b.ovf = false → (e < 1 ∨ 4096 < e ∨ ¬Int32 x ∨ b.armed = true ∧ (b.arrived ≠ 0 ∨ b.tx ≠ 0)) →
      ∃ t, exec (.bari n a c) s = .next t ∧ Trapped s t (.bari n a c) 0x051 0 (fun _ => 0) ∧ t.crew (crewKey s) = crew s) ∧
    (b.ovf = true → ∃ t, exec (.bari n a c) s = .next t ∧ Trapped s t (.bari n a c) 0x051 0 (fun _ => 0) ∧
      ∀ m, (Tab.get {} (t.crew (crewKey s)).bars m : Barrier) =
        if m = n then { b with armed := false, arrived := 0, tx := 0, ovf := false } else bar s s.cur m)) ∧
  (∀ (n a : Nat) (s : State), Issues s 0 → Handles s → BarrierOf s s.cur n →
    let b := bar s s.cur n
    let x := (s.g s.cur a).toInt
    b.ovf = true ∨ b.armed = false ∨ ¬Int32 x ∨ ¬Int32 (b.tx + x) →
    ∃ t, exec (.bart n a) s = .next t ∧ Trapped s t (.bart n a) 0x051 0 (fun _ => 0) ∧ t.crew (crewKey s) = crew s) ∧
  (∀ (k n : Nat) (s : State), BarrierOf s k n → Quiet s k true true false false → ((crewAt s k).foot = .cluster → Drained s k) →
    Handles (at_ k s) →
    let b := bar s k n
    b.ovf = true ∨ b.armed = false ∨ b.expect < b.arrived + (s.convoy k).members.length →
    Completes (.bara n) (.baraArrive k) k s fun t => Trapped (at_ k s) t (.bara n) 0x051 0 (fun _ => 0) ∧ t.crew (s.convoy k).crew = crewAt s k)

/-! ### System registers -/

/-- SRR reads every register of 03 R95, SRW writes every writable one (17 R487, R488), and firmware's numbers fault (03 R94).
That ACCT reads before its own charge, and TRCAUSE takes bits 31:0, is the model's reading (log 46, 47). -/
def Obligations.SystemRegisters : Prop :=
  (∀ (d n : Nat) (s : State), Issues s 0 → (∀ x ∈ members s, (threadRegister (s.thread x) (x / 16 % 32) n).isSome) → members s ≠ [] →
    ∃ t, exec (.srr d n) s = .next t ∧ Advanced (.srr d n) s t ∧ Kept s t ∧ (∀ x, x ∉ members s → t.thread x = s.thread x) ∧
      ∀ x ∈ members s, some ((t.thread x).reg d) = threadRegister (s.thread x) (x / 16 % 32) n ∧
        { t.thread x with v := [] } = { s.thread x with v := [] } ∧ ∀ r, r ≠ d → (t.thread x).reg r = (s.thread x).reg r) ∧
  (∀ (d n : Nat) (s : State) (v : DWord), Issues s 0 → groupRegister s n = some v → 16 ≤ d →
    ∃ t, exec (.srr d n) s = .next t ∧ GroupFrame (.srr d n) s t ∧ ∀ r, t.g s.cur r = if r = d then v else s.g s.cur r) ∧
  (∀ (a n : Nat) (s : State), Issues s 0 → (threadWritten {} 0 n).isSome →
    ∃ t, exec (.srw a n) s = .next t ∧ Advanced (.srw a n) s t ∧ Kept s t ∧ (∀ x, x ∉ members s → t.thread x = s.thread x) ∧
      ∀ x ∈ members s, some (t.thread x) = threadWritten (s.thread x) ((s.thread x).reg a) n) ∧
  (∀ (a n : Nat) (s : State), Issues s 0 → n = 0x20 ∨ 0x100 ≤ n ∧ n < 0x120 ∨
      0x120 ≤ n ∧ n < 0x130 ∧ (Tab.get {} (crew s).latches (n - 0x120) : ALatch).state = .empty →
    ∃ t, exec (.srw a n) s = .next t ∧ WentOnIn (.srw a n) s.cur s t ∧
      (∀ m, m ≠ n → groupRegister (at_ s.cur t) m = groupRegister s m ∨ m = 0x10 ∨ m = 0x51) ∧
      groupRegister (at_ s.cur t) n =
        some (if n = 0x20 then s.g s.cur a &&& 0xFFFFFFFFF else if n < 0x120 then s.g s.cur a else s.g s.cur a &&& 0x7FFFFFFFFF)) ∧
  (∀ (d n : Nat) (s : State), Issues s 0 → Handles s → 0x1000 ≤ n → n < 0x2000 →
    (∃ t, exec (.srr d n) s = .next t ∧ Trapped s t (.srr d n) 0x003 0 fun _ => 0) ∧
    (∃ t, exec (.srw d n) s = .next t ∧ Trapped s t (.srw d n) 0x003 0 fun _ => 0)) ∧
  (∀ (a n : Nat) (s : State), Issues s 0 → Handles s → 0x120 ≤ n → n < 0x130 →
    (Tab.get {} (crew s).latches (n - 0x120) : ALatch).state ≠ .empty →
    ∃ t, exec (.srw a n) s = .next t ∧ Trapped s t (.srw a n) 0x071 0 fun _ => 0)

namespace Sys2Proof.Claims

/-! ### Memory accesses -/

/-- Buffer record kn of the crew. -/
def record (s : State) (k : Nat) : BitVec 128 := Tab.get 0 (crew s).k k

/-- Member x accesses nb bytes at `a`: in range, and aligned to the access's size, at most 16 (03 R92; 06 R154). -/
abbrev Accesses (s : State) (k i off nb align x a : Nat) : Prop :=
  elemAddr (record s k) (recLimit (record s k) (crew s)) ((s.thread x).reg i).toNat off nb = some a ∧ a % align = 0

/-- The record permits the access (03 R91). -/
abbrev RecordOk (s : State) (k : Nat) (write : Bool) : Prop := recInvalid (record s k) (crew s).cluster write = false

/-- Place in stage memory of an address of the record's space (03 R93). -/
def stageAt (s : State) (k a : Nat) : Nat := stagePlace (record s k) (crew s) (s.convoy s.cur).core a

/-- The core's TLB maps the 128-byte line, and its entry permits the access (06 R168, R172). -/
def Mapped (s : State) (write : Bool) (line pa : Nat) : Prop :=
  ∃ e, tlbFind (s.core (s.convoy s.cur).core).tlb (ctx s) (s.ctx (ctx s)).vd (128 * line) = some e ∧
    entryOutcome e (128 * line) write false = .ok pa

/-- Nothing holds an access to the line: no side-log entry of the context, no core-scope atomic of the core under way (06 R163, R179). -/
abbrev Open (s : State) (line pa : Nat) : Prop :=
  pendingSide s (ctx s) line = false ∧ l1AtomPending s (s.convoy s.cur).core (pa / 128) = false

/-- The memories are as they were. -/
def SameBytes (s t : State) : Prop :=
  (∀ a, Tab.get 0 t.mem a = Tab.get 0 s.mem a) ∧ (∀ a, Tab.get 0 t.stage a = Tab.get 0 s.stage a) ∧
    (∀ a, Tab.get 0 t.acc a = Tab.get 0 s.acc a) ∧ ∀ a, Tab.get 0 t.ob a = Tab.get 0 s.ob a

/-- Byte n of the data of a store of register v (17 R490). -/
def storeByte (t : Thread) (v n : Nat) : Byte := (t.reg (v + n / 8)).extractLsb' (8 * (n % 8)) 8

/-- Memory after bytes are written at physical addresses: the last one written at an address stands. -/
def wroteBytes (bytes : List (Nat × Byte)) (a : Nat) (old : Byte) : Byte :=
  ((bytes.filter fun b => b.1 == a).getLast?.map (·.2)).getD old

/-- Toll of LD and ST (17 R489). -/
def accessToll (w : Nat) : Nat := if 4 ≤ w then 1 else 0

/-- An atomic instruction: operation code, registers, width, scope, order, entry of AFADD, and whether it returns nothing (15 R396). -/
structure AtomicForm where
  op : Nat
  v : Nat
  i : Nat
  k : Nat
  sr : Nat
  w : Nat
  scope : Nat
  order : Nat
  f : Nat := 0
  n : Nat

def atomicForm : Instr → Option AtomicForm
  | .aadd v i k sr w sc o n => some { op := 0, v, i, k, sr, w, scope := sc, order := o, n }
  | .aand v i k sr w sc o n => some { op := 1, v, i, k, sr, w, scope := sc, order := o, n }
  | .aor v i k sr w sc o n => some { op := 2, v, i, k, sr, w, scope := sc, order := o, n }
  | .axor v i k sr w sc o n => some { op := 3, v, i, k, sr, w, scope := sc, order := o, n }
  | .amin v i k sr w sc o n => some { op := 4, v, i, k, sr, w, scope := sc, order := o, n }
  | .amax v i k sr w sc o n => some { op := 5, v, i, k, sr, w, scope := sc, order := o, n }
  | .aminu v i k sr w sc o n => some { op := 6, v, i, k, sr, w, scope := sc, order := o, n }
  | .amaxu v i k sr w sc o n => some { op := 7, v, i, k, sr, w, scope := sc, order := o, n }
  | .axchg v i k sr w sc o n => some { op := 8, v, i, k, sr, w, scope := sc, order := o, n }
  | .acas v i k sr w sc o n => some { op := 9, v, i, k, sr, w, scope := sc, order := o, n }
  | .afadd v i k sr w sc o f n => some { op := 10, v, i, k, sr, w, scope := sc, order := o, f, n }
  | _ => none

/-- Bytes of an atomic's operand. -/
def AtomicForm.bytes (p : AtomicForm) : Nat := if p.w = 1 then 8 else 4

/-- The value an atomic writes, at 32 or 64 bits; none where ACAS's comparison fails (15 R396). AFADD rounds in its entry, RSR as RNE. -/
def atomicValue (op : AtomOp) (w : Nat) (old x cmp : BitVec w) : Option (BitVec w) :=
  match op.aop with
  | 0 => some (old + x)
  | 1 => some (old &&& x)
  | 2 => some (old ||| x)
  | 3 => some (old ^^^ x)
  | 4 => some (if x.slt old then x else old)
  | 5 => some (if old.slt x then x else old)
  | 6 => some (if x.ult old then x else old)
  | 7 => some (if old.ult x then x else old)
  | 8 => some x
  | 9 => if old = cmp then some x else none
  | _ =>
    let f := Fmt.ofWord op.fmt
    let m := if op.rmode = 5 then 0 else op.rmode
    some (BitVec.ofNat w (encodeVal f (roundVal f m op.sat 0 (sumVals m [decodeVal f old.toNat, decodeVal f x.toNat]))))

/-- Little-endian operand of w bits at an address of a byte table (00 R5). -/
def operandAt (m : Tab Byte) (w a : Nat) : BitVec w := BitVec.ofNat w (leNat (Tab.getRun 0 m a (w / 8)))

/-- Byte `b` after an atomic of w bits at `a`: the new value, little-endian, where one is written. -/
def afterAtomic (m : Tab Byte) (op : AtomOp) (w a : Nat) (x cmp : DWord) (b : Nat) : Byte :=
  match atomicValue op w (operandAt m w a) (x.setWidth w) (cmp.setWidth w) with
  | some y => if a ≤ b ∧ b < a + w / 8 then y.extractLsb' (8 * (b - a)) 8 else Tab.get 0 m b
  | none => Tab.get 0 m b

/-- Width in bits of an atomic in flight. -/
def atomBits (op : AtomOp) : Nat := if op.w64 then 64 else 32

/-- Slice request of a load's, a store's and an atomic's line (06 R162). -/
def reqOf (s : State) (r : Req) : SliceReq :=
  { pa := r.pa, vd := r.vd, acct := r.ctx, crew := r.crew, ctx := [r.ctx], core := some r.core, pol := r.pol, cluster := some (r.core / 2),
    who := .access r.id, fill := if r.fetch = .here then .done else .ask r.id,
    src := match s.flight.loads.find? fun l => l.lines.any fun y => y.rid == r.id with
      | some l => threadRec s r.core r.crew l.who l.pc l.va l.w0
      | none => { code := 0, core := r.core, traddr := r.va } }
def reqOfStore (s : State) (x : Store) : SliceReq :=
  { pa := x.pa, kind := 1, vd := x.vd, acct := x.ctx, crew := x.crew, ctx := [x.ctx], core := some x.core, pol := x.pol, cluster := some (x.core / 2),
    who := .access x.id,
    src := match x.whos with
      | w :: _ => threadRec s x.core x.crew w x.pc x.va 0
      | [] => { code := 0, core := x.core, traddr := x.va } }
def reqOfAtom (s : State) (a : Atom) (q : AtomPart) : SliceReq :=
  { pa := q.addr, kind := 2, vd := a.vd, acct := a.ctx, crew := a.crew, ctx := [a.ctx], core := some a.core, pol := a.pol,
    cluster := some (a.core / 2), src := threadRec s a.core a.crew q.who a.pc q.va a.w0, who := .access a.id }

/-- No queue's FAULT comes from its kick word, so that no kick write walks the tables (12 R334). -/
abbrev NoRearm (s : State) : Prop := ∀ p ∈ s.queues, p.2.kickFault = false

/-- The 128 bytes of an L1 line as a byte table. -/
def lineTab (l : L1Line) : Tab Byte := (List.range 128).map fun i => (i, l.data[i]?.getD 0)

end Sys2Proof.Claims

/-! ### Memory accesses -/

/-- ElemAddr (03 R92): the index and offset name an element below EXTENT for the whole access, its address is BASE + e × STRIDE with the swizzled
bits, and the access ends inside the space. -/
def Obligations.ElementAddress : Prop :=
  ∀ (k : BitVec 128) (limit idx off nb : Nat),
    let e := idx + off
    let size := 2^recEsz k
    let span := max 1 ((nb + size - 1) / size)
    let b := recBase k + e * recStride k
    ∀ a, elemAddr k limit idx off nb = some a ↔ e + span ≤ recExtent k ∧ a + nb ≤ limit ∧
      ∀ n, a.testBit n = (b.testBit n != (decide (4 ≤ n ∧ n < 4 + recSw k) && b.testBit (n + recSs k)))

/-- LD from stage memory, and the out-of-range outcomes of every LD (06 R153–R156; 16 R452–R454): one load per member counted in OCL
with the bytes of its element, zeros for a suppressed member, a trap for a bad record, an element out of range or a misaligned address. -/
def Obligations.LoadIssue : Prop :=
  (∀ (v i k o w : Nat) (s : State) (a : Nat → Nat), Issues s (accessToll w) → RecordOk s k false → recSpace (record s k) ≠ 0 →
    (∀ x ∈ members s, (s.thread x).ocl < 63 ∧ Accesses s k i o (2^w) (min (2^w) 16) x (a x)) →
    ∃ t, exec (.ld v i k o w) s = .next t ∧ Advanced (.ld v i k o w) s t ∧ SameBytes s t ∧
      (∀ x, x ∉ members s → t.thread x = s.thread x) ∧
      ∀ x, (members s).count x = 1 → t.thread x = { s.thread x with ocl := (s.thread x).ocl + 1 } ∧
        ∃ l ∈ t.flight.loads, l.who = ⟨x, (s.thread x).gen⟩ ∧ l.first = v ∧ l.regs = lmRegs w ∧ .loadComplete l.id 0 ∈ t.due ∧
          ∀ n, n < 2^w → l.bytes[n]? = some (Tab.get 0 s.stage (stageAt s k (a x + n)))) ∧
  (∀ (v i k o w : Nat) (s : State), Issues s (accessToll w) → RecordOk s k false → (∀ x ∈ members s, (s.thread x).ocl < 63) →
    (∀ x ∈ members s, elemAddr (record s k) (recLimit (record s k) (crew s)) ((s.thread x).reg i).toNat o (2^w) = none) →
    (recOor (record s k) = true → ∃ t, exec (.ld v i k o w) s = .next t ∧ Advanced (.ld v i k o w) s t ∧ SameBytes s t ∧
      (∀ x, x ∉ members s → t.thread x = s.thread x) ∧
      ∀ x ∈ members s, (∀ r, (t.thread x).reg r = if v ≤ r ∧ r < v + lmRegs w then 0 else (s.thread x).reg r) ∧
        { t.thread x with v := [], llat := 0 } = { s.thread x with v := [], llat := 0 }) ∧
    (recOor (record s k) = false → Handles s → ∃ t, exec (.ld v i k o w) s = .next t ∧ Trapped s t (.ld v i k o w) 0x010 0 fun _ => 0)) ∧
  (∀ (v i k o w : Nat) (s : State) (a : Nat → Nat), Issues s (accessToll w) → Handles s →
    (¬RecordOk s k false → ∃ t, exec (.ld v i k o w) s = .next t ∧ Trapped s t (.ld v i k o w) 0x012 0 fun _ => 0) ∧
    (RecordOk s k false → (∀ x ∈ members s, (s.thread x).ocl < 63 ∧ a x % min (2^w) 16 ≠ 0 ∧
        elemAddr (record s k) (recLimit (record s k) (crew s)) ((s.thread x).reg i).toNat o (2^w) = some (a x)) →
      ∃ t, exec (.ld v i k o w) s = .next t ∧ Trapped s t (.ld v i k o w) 0x011 0 a))

/-- LD from memory with every line mapped and none in the L1 (06 R153, R155, R160): one load per member, and for every line of it
a request at the line's physical address, due at its slice, the host or the peer. -/
def Obligations.LoadLines : Prop :=
  ∀ (v i k o w : Nat) (s : State) (a pa : Nat → Nat), Issues s (accessToll w) → RecordOk s k false → recSpace (record s k) = 0 →
    (∀ x ∈ members s, (s.thread x).ocl < 63 ∧ Accesses s k i o (2^w) (min (2^w) 16) x (a x) ∧
      ∀ l ∈ spanLines (a x) (2^w), Mapped s false l (pa l) ∧ Open s l (pa l) ∧
        s.l1 (s.convoy s.cur).core (pa l / 128) (s.ctx (ctx s)).vd = none) →
    ∃ t, exec (.ld v i k o w) s = .next t ∧ Advanced (.ld v i k o w) s t ∧ SameBytes s t ∧
      (∀ x, x ∉ members s → t.thread x = s.thread x) ∧
      ∀ x, (members s).count x = 1 → t.thread x = { s.thread x with ocl := (s.thread x).ocl + 1 } ∧
        ∃ l ∈ t.flight.loads, l.who = ⟨x, (s.thread x).gen⟩ ∧ l.first = v ∧ l.regs = lmRegs w ∧ l.va = a x ∧ l.nbytes = 2^w ∧
          ∀ n ∈ spanLines (a x) (2^w), ∃ y ∈ l.lines, y.va = n ∧ ∃ r ∈ t.flight.reqs, r.id = y.rid ∧ r.pa = 128 * (pa n / 128) ∧
            r.core = (s.convoy s.cur).core ∧ .mscServe r.id ∈ t.due

/-- MSC_SERVE and LOAD_COMPLETE (06 R160, R162, R166; 07 R194, R195; 16 R452): a served request fixes its lines, with the words that the L1
holds valid, but under bypass policy; a load whose bytes are fixed writes its registers, but for one that a later load has written (16 R454), and
leaves OCL. Whether a write that came between wins is open (log 19); that streaming loads merge too is deduced (log 71). -/
def Obligations.LoadCompletion : Prop :=
  (∀ (id : Nat) (s : State) (r : Req), s.flight.reqs.find? (fun y => y.id == id) = some r → olderAt s r.core (placeOf r.pa) id = false →
    (usable r.pa = false → isPeer r.pa = false →
      ∃ t, exec (.mscServe id) s = .next t ∧ (∀ y ∈ t.flight.reqs, y.id ≠ id) ∧ SameBytes s t ∧
        ∀ l ∈ s.flight.loads, ∃ l' ∈ t.flight.loads, l'.id = l.id ∧
          ∀ y ∈ l.lines, y.rid = id → ∃ y' ∈ l'.lines, y'.va = y.va ∧ y'.data = Tab.getRun 0 s.mem r.pa 128) ∧
    (usable r.pa = true → (sliceAccess s (reqOf s r)).2 = .ok →
      let q := (sliceAccess s (reqOf s r)).1
      ∃ t, exec (.mscServe id) s = .next t ∧ (∀ y ∈ t.flight.reqs, y.id ≠ id) ∧ SameBytes q t ∧
        ∀ l ∈ q.flight.loads, ∃ l' ∈ t.flight.loads, l'.id = l.id ∧
          ∀ y ∈ l.lines, y.rid = id → ∃ y' ∈ l'.lines, y'.va = y.va ∧ y'.data.length = 128 ∧
            ∀ n, n < 128 → y'.data[n]? = some (match (if r.pol = 2 then none else q.l1 r.core (r.pa / 128) r.vd) with
              | some z => if z.valid.getLsbD (n / 4) then z.data[n]?.getD 0 else Tab.get 0 q.mem (r.pa + n)
              | none => Tab.get 0 q.mem (r.pa + n)))) ∧
  (∀ (id : Nat) (s : State) (l : Load), s.flight.loads.find? (fun y => y.id == id) = some l → l.ready = true → l.atom = false →
    (∀ y ∈ s.flight.loads, y.who = l.who → id ≤ y.id) → alive s l.who = true →
    let val (j : Nat) : DWord := BitVec.ofNat 64 (leNat ((l.bytes.drop (8 * j)).take 8))
    (∀ j x, j < l.regs → l.old[j]? = some (some x) → (s.thread l.who.key).reg (l.first + j) = x ∨ (s.thread l.who.key).reg (l.first + j) = val j) →
    ∃ t, exec (.loadComplete id 0) s = .next t ∧ SameBytes s t ∧ (∀ y ∈ t.flight.loads, y.id ≠ id) ∧
      (∀ x, x ≠ l.who.key → t.thread x = s.thread x) ∧
      { t.thread l.who.key with v := [] } =
        { s.thread l.who.key with v := [], ocl := (s.thread l.who.key).ocl - 1, llat := min (l.back.getD (s.cycle l.core) - l.issued) 0xFFFFFFFF } ∧
      ∀ r, (t.thread l.who.key).reg r =
        if l.first ≤ r ∧ r < l.first + l.regs ∧ (l.old[r - l.first]?).join.isSome then val (r - l.first) else (s.thread l.who.key).reg r)

/-- ST to stage memory: the bytes stand at once, the highest lane's where members overlap, and nothing else is written. ST to memory with every
line mapped: one store for each line, at its physical address, with the members' bytes, the highest lane's where they overlap, due at its place;
memory itself is written by STORE_PERFORMED (06 R155–R157; 07 R189; 17 R490). A line that is not present enters the side log with the merged
bytes, and asks for its page (06 R156, R179). A suppressed member writes and counts nothing; a bad record, an element out of range or a misaligned
address traps the members, with the first 64 bits of the data in TRVAL (06 R153, R154; 17 R491, R492), for a bad record as log 55 reads the rule. -/
def Obligations.Stores : Prop :=
  (∀ (v i k o w : Nat) (s : State) (a : Nat → Nat), Issues s (accessToll w) → RecordOk s k true → recSpace (record s k) ≠ 0 → w ≤ 6 →
    (∀ x ∈ members s, (s.thread x).ocs + (if 5 ≤ w then 2 else 1) ≤ 63 ∧ Accesses s k i o (2^w) (min (2^w) 16) x (a x)) →
    ∃ t, exec (.st v i k o w) s = .next t ∧ Advanced (.st v i k o w) s t ∧
      (∀ b, Tab.get 0 t.mem b = Tab.get 0 s.mem b) ∧
      (∀ l x m n, members s = l ++ x :: m → n < 2^w → (∀ y ∈ m, ¬(a y ≤ a x + n ∧ a x + n < a y + 2^w)) →
        Tab.get 0 t.stage (stageAt s k (a x + n)) = storeByte (s.thread x) v n) ∧
      (∀ b, (∀ x ∈ members s, ∀ n, n < 2^w → b ≠ stageAt s k (a x + n)) → Tab.get 0 t.stage b = Tab.get 0 s.stage b) ∧
      (∀ x, x ∉ members s → t.thread x = s.thread x) ∧
      ∀ x, (members s).count x = 1 → t.thread x = { s.thread x with ocs := (s.thread x).ocs + (spanLines (a x) (2^w)).length }) ∧
  (∀ (v i k o w : Nat) (s : State) (a pa : Nat → Nat), Issues s (accessToll w) → RecordOk s k true → recSpace (record s k) = 0 → w ≤ 6 →
    (∀ x ∈ members s, (s.thread x).ocs + (if 5 ≤ w then 2 else 1) ≤ 63 ∧ Accesses s k i o (2^w) (min (2^w) 16) x (a x) ∧
      ∀ l ∈ spanLines (a x) (2^w), Mapped s true l (pa l) ∧ Open s l (pa l)) →
    ∃ t, exec (.st v i k o w) s = .next t ∧ Advanced (.st v i k o w) s t ∧ SameBytes s t ∧
      (∀ x, x ∉ members s → t.thread x = s.thread x) ∧
      (∀ x, (members s).count x = 1 → t.thread x = { s.thread x with ocs := (s.thread x).ocs + (spanLines (a x) (2^w)).length }) ∧
      ∀ l x m n, members s = l ++ x :: m → n < 2^w → (∀ y ∈ m, ¬(a y ≤ a x + n ∧ a x + n < a y + 2^w)) →
        ∃ z ∈ t.flight.stores, z.pa = pa ((a x + n) / 128) ∧ z.stage = false ∧ .storePerformed z.id ∈ t.due ∧
          (z.pa + (a x + n) % 128, storeByte (s.thread x) v n) ∈ z.bytes) ∧
  (∀ (v i k o w : Nat) (s : State) (a : Nat → Nat), Issues s (accessToll w) → RecordOk s k true → recSpace (record s k) = 0 → w ≤ 6 →
    (∀ x ∈ members s, (s.thread x).ocs + (if 5 ≤ w then 2 else 1) ≤ 63 ∧ Accesses s k i o (2^w) (min (2^w) 16) x (a x) ∧
      ∀ l ∈ spanLines (a x) (2^w), ∃ e, tlbFind (s.core (s.convoy s.cur).core).tlb (ctx s) (s.ctx (ctx s)).vd (128 * l) = some e ∧
        entryOutcome e (128 * l) true false = .hold) →
    (s.core (s.convoy s.cur).core).sideLog.length + 2 * (members s).length ≤ 64 →
    ∃ t, exec (.st v i k o w) s = .next t ∧ (t.convoy s.cur).pc = (s.convoy s.cur).pc + byteLen (.st v i k o w) ∧ (t.convoy s.cur).hold = .none ∧
      t.flight.stores = s.flight.stores ∧ (∀ b, Tab.get 0 t.stage b = Tab.get 0 s.stage b) ∧ (∀ b, b < 2^48 → Tab.get 0 t.mem b = Tab.get 0 s.mem b) ∧
      (s.host.kept = [] → ∀ x ∈ members s, ∀ l ∈ spanLines (a x) (2^w), (128 * l / 4096, 1) ∈ (t.ctx (ctx s)).pages_) ∧
      (∀ x, (members s).count x = 1 → t.thread x = { s.thread x with ocs := (s.thread x).ocs + (spanLines (a x) (2^w)).length }) ∧
      ∀ l x m n, members s = l ++ x :: m → n < 2^w → (∀ y ∈ m, ¬(a y ≤ a x + n ∧ a x + n < a y + 2^w)) →
        ∃ z ∈ (t.core (s.convoy s.cur).core).sideLog, z.ctx = ctx s ∧ z.va = 128 * ((a x + n) / 128) ∧ ⟨x, (s.thread x).gen⟩ ∈ z.lanes ∧
          ((a x + n) % 128, storeByte (s.thread x) v n) ∈ z.bytes) ∧
  (∀ (v i k o w l : Nat) (s : State) (a : Nat → Nat), Issues s (accessToll w) → RecordOk s k true → recSpace (record s k) = 0 → w ≤ 6 → members s ≠ [] →
    (∀ x ∈ members s, (s.thread x).ocs + (if 5 ≤ w then 2 else 1) ≤ 63 ∧ Accesses s k i o (2^w) (min (2^w) 16) x (a x) ∧
      spanLines (a x) (2^w) = [l]) →
    let core := (s.convoy s.cur).core
    let r := translate (chargeIssue s s.cur (s.weights.ofMem (members s).length)) core (ctx s) (crewKey s) (128 * l) true false 0
    r.2 = .notPresent ∨ r.2 = .hold → (s.core core).sideLog.length < 64 → r.1.host.kept = [] →
    ∃ t, exec (.st v i k o w) s = .next t ∧ (t.convoy s.cur).pc = (r.1.convoy s.cur).pc + byteLen (.st v i k o w) ∧ (t.convoy s.cur).hold = .none ∧
      t.flight.stores = r.1.flight.stores ∧ (128 * l / 4096, 1) ∈ (t.ctx (ctx s)).pages_ ∧
      (∀ b, b < 2^48 → Tab.get 0 t.mem b = Tab.get 0 r.1.mem b) ∧ (∀ b, Tab.get 0 t.stage b = Tab.get 0 r.1.stage b) ∧
      (∀ x, (members s).count x = 1 → t.thread x = { r.1.thread x with ocs := (r.1.thread x).ocs + 1 }) ∧
      ∀ j x m n, members s = j ++ x :: m → n < 2^w → (∀ y ∈ m, ¬(a y ≤ a x + n ∧ a x + n < a y + 2^w)) →
        ∃ z ∈ (t.core core).sideLog, z.ctx = ctx s ∧ z.va = 128 * l ∧ ⟨x, (r.1.thread x).gen⟩ ∈ z.lanes ∧
          ((a x + n) % 128, storeByte (s.thread x) v n) ∈ z.bytes) ∧
  (∀ (v i k o w : Nat) (s : State), Issues s (accessToll w) → RecordOk s k true → (∀ x ∈ members s, (s.thread x).ocs + (if 5 ≤ w then 2 else 1) ≤ 63) →
    (∀ x ∈ members s, elemAddr (record s k) (recLimit (record s k) (crew s)) ((s.thread x).reg i).toNat o (2^w) = none) →
    recOor (record s k) = true → ∃ t, exec (.st v i k o w) s = .next t ∧ Advanced (.st v i k o w) s t ∧ SameBytes s t ∧
      (∀ x, t.thread x = s.thread x) ∧ t.flight.stores = s.flight.stores) ∧
  (∀ (v i k o w : Nat) (s : State), Issues s (accessToll w) → Handles s → ¬RecordOk s k true →
    ∃ t, exec (.st v i k o w) s = .next t ∧ TrappedWith s t (.st v i k o w) 0x012 0 (fun _ => 0)
      fun x => if w < 3 then ((s.thread x).reg v).extractLsb' 0 (8 * 2^w) |>.setWidth 64 else (s.thread x).reg v) ∧
  (∀ (v i k o w : Nat) (s : State) (a : Nat → Nat), Issues s (accessToll w) → Handles s → RecordOk s k true →
    (∀ x ∈ members s, (s.thread x).ocs + (if 5 ≤ w then 2 else 1) ≤ 63) →
    let data (x : Nat) : DWord := if w < 3 then ((s.thread x).reg v).extractLsb' 0 (8 * 2^w) |>.setWidth 64 else (s.thread x).reg v
    (recOor (record s k) = false →
      (∀ x ∈ members s, elemAddr (record s k) (recLimit (record s k) (crew s)) ((s.thread x).reg i).toNat o (2^w) = none) →
      ∃ t, exec (.st v i k o w) s = .next t ∧ TrappedWith s t (.st v i k o w) 0x010 0 (fun _ => 0) data) ∧
    ((∀ x ∈ members s, a x % min (2^w) 16 ≠ 0 ∧
        elemAddr (record s k) (recLimit (record s k) (crew s)) ((s.thread x).reg i).toNat o (2^w) = some (a x)) →
      ∃ t, exec (.st v i k o w) s = .next t ∧ TrappedWith s t (.st v i k o w) 0x011 0 a data))

/-- STORE_PERFORMED (06 R162; 07 R189, R195): the line's bytes stand in memory, in order at the place, and OCS falls where no older store
of the thread is open. SIDE_LOG_REPLAY of a page's one store to the host's memory, with nothing held behind it (06 R178, R179): its bytes stand in
memory and it has left the log. What counts as a kick is the model's reading (log 53); the order of events is that of log 1. -/
def Obligations.StorePerformed : Prop :=
  (∀ (id : Nat) (s : State) (x : Store), s.flight.stores.find? (fun y => y.id == id) = some x → x.stage = false →
    olderAt s x.core (placeOf x.pa) id = false →
    (usable x.pa = false → isPeer x.pa = false → ∃ t, exec (.storePerformed id) s = .next t ∧ (∀ y ∈ t.flight.stores, y.id ≠ id) ∧
      ∀ a, Tab.get 0 t.mem a = wroteBytes x.bytes a (Tab.get 0 s.mem a)) ∧
    (usable x.pa = true → (sliceAccess s (reqOfStore s x)).2 = .ok → NoRearm (sliceAccess s (reqOfStore s x)).1 → ∃ t, exec (.storePerformed id) s = .next t ∧
      (∀ y ∈ t.flight.stores, y.id ≠ id) ∧ ∀ a, Tab.get 0 t.mem a = wroteBytes x.bytes a (Tab.get 0 (sliceAccess s (reqOfStore s x)).1.mem a))) ∧
  (∀ (id : Nat) (s : State) (x : Store), s.flight.stores.find? (fun y => y.id == id) = some x → x.stage = true → s.flight.acks = [] →
    ∃ t, exec (.storePerformed id) s = .next t ∧ SameBytes s t ∧ (∀ y ∈ t.flight.stores, y.id ≠ id) ∧
      ∀ w ∈ x.whos, x.whos.count w = 1 → alive s w = true → (∀ n ∈ openStores t w, id < n) →
        (∀ w' ∈ x.whos, w'.key = w.key → alive s w' = true → w' = w) →
        t.thread w.key = { s.thread w.key with ocs := (s.thread w.key).ocs - 1 }) ∧
  (∀ (core cx page : Nat) (s : State) (e : SideEntry) (pa : Nat),
    (s.core core).sideLog.filter (fun x => x.ctx == cx && x.va / 4096 == page) = [e] → e.atom = none → e.pa = none → behindOther s core e = false →
    let r := walk s { ctx := cx, acct := cx, crew := e.crew, core := some core } e.va
    let q := r.1
    (∀ l ∈ q.flight.loads, l.ctx ≠ cx) → (∀ z ∈ q.flight.atoms, z.ctx ≠ cx) →
    walkOutcome r.2 e.va true false = .ok pa → usable pa = false → isPeer pa = false → olderAt q core (placeOf pa) e.id = false →
    ∃ t, exec (.sideLogReplay core cx page) s = .next t ∧ (∀ x ∈ (t.core core).sideLog, x.id ≠ e.id) ∧
      ∀ a, Tab.get 0 t.mem a = wroteBytes (e.bytes.map fun b => (pa + b.1, b.2)) a (Tab.get 0 q.mem a))

/-- The operations of every atomic on stage memory (15 R396–R401): issue puts one operation for each member in flight, operands latched, with
a load where a value returns; ATOMIC_PERFORMED of a lone member's operation writes the new value, or nothing where ACAS's comparison
fails, and returns the old one. -/
def Obligations.StageAtomics : Prop :=
  (∀ (i : Instr) (p : AtomicForm) (s : State) (a : Nat → Nat), atomicForm i = some p → Issues s 1 → RecordOk s p.k true →
    recSpace (record s p.k) ≠ 0 → (p.op = 10 → Valid s p.f ∧ Rounds s p.f ∧ ((crew s).fmt p.f).width = 8 * p.bytes ∧ (run s).det = false) →
    (2 ≤ p.order → Quiet s s.cur true true false false ∧ (p.scope = 0 ∨ Drained s s.cur)) →
    (∀ x ∈ members s, (s.thread x).ocl < 63 ∧ (s.thread x).ocs < 63 ∧ Accesses s p.k p.i 0 p.bytes p.bytes x (a x)) →
    ∃ t, exec i s = .next t ∧ SameBytes s t ∧ (t.convoy s.cur).pc = (s.convoy s.cur).pc + byteLen i ∧ (t.convoy s.cur).hold = .none ∧
      (t.convoy s.cur).members = (s.convoy s.cur).members ∧
      ((t.convoy s.cur).acq = if p.order = 1 ∨ p.order = 3 then some p.scope else (s.convoy s.cur).acq) ∧
      (∀ x, x ∉ members s → t.thread x = s.thread x) ∧
      (∀ x, (members s).count x = 1 → t.thread x =
        if p.n = 0 then { s.thread x with ocl := (s.thread x).ocl + 1 } else { s.thread x with ocs := (s.thread x).ocs + 1 }) ∧
      ∃ z ∈ t.flight.atoms, .atomicPerformed z.id ∈ t.due ∧ z.op.aop = p.op ∧ z.stage = true ∧ z.ret = (p.n == 0) ∧
        z.parts = (members s).map fun x => { who := ⟨x, (s.thread x).gen⟩, va := a x, addr := stageAt s p.k (a x),
                                             s := (s.thread x).reg p.sr, cmp := (s.thread x).reg p.v }) ∧
  (∀ (id : Nat) (s : State) (z : Atom) (q : AtomPart), s.flight.atoms.find? (fun y => y.id == id) = some z → z.stage = true →
    z.parts = [q] → z.deferred = [] →
    ∃ t, exec (.atomicPerformed id) s = .next t ∧ (∀ y ∈ t.flight.atoms, y.id ≠ id) ∧
      (∀ b, Tab.get 0 t.mem b = Tab.get 0 s.mem b) ∧
      (∀ b, Tab.get 0 t.stage b = afterAtomic s.stage z.op (atomBits z.op) q.addr q.s q.cmp b) ∧
      (z.ret = true → ∀ l, s.flight.loads.find? (fun y => y.atom && y.aid == z.id && y.who == q.who && y.value.isNone) = some l →
        ∃ l' ∈ t.flight.loads, l'.id = l.id ∧ l'.value = some ((operandAt s.stage (atomBits z.op) q.addr).setWidth 64) ∧
          .loadComplete l.id 0 ∈ t.due))

/-- Atomics on memory (06 R163, R165; 15 R397): members whose line is mapped send their operations to the line's place; a lone member's
operation at the host or, at cluster scope or wider, at its slice writes the new value; at core scope it acts in the L1. -/
def Obligations.MemoryAtomics : Prop :=
  (∀ (i : Instr) (p : AtomicForm) (s : State) (a pa : Nat → Nat), atomicForm i = some p → Issues s 1 → RecordOk s p.k true →
    recSpace (record s p.k) = 0 → (p.op = 10 → Valid s p.f ∧ Rounds s p.f ∧ ((crew s).fmt p.f).width = 8 * p.bytes ∧ (run s).det = false) →
    (2 ≤ p.order → Quiet s s.cur true true false false ∧ (p.scope = 0 ∨ Drained s s.cur)) →
    (∀ x ∈ members s, (s.thread x).ocl < 63 ∧ (s.thread x).ocs < 63 ∧ Accesses s p.k p.i 0 p.bytes p.bytes x (a x) ∧
      Mapped s true (a x / 128) (pa (a x / 128)) ∧ Open s (a x / 128) (pa (a x / 128))) →
    ∃ t, exec i s = .next t ∧ SameBytes s t ∧ (t.convoy s.cur).pc = (s.convoy s.cur).pc + byteLen i ∧
      (∀ x, x ∉ members s → t.thread x = s.thread x) ∧
      (∀ x, (members s).count x = 1 → t.thread x =
        if p.n = 0 then { s.thread x with ocl := (s.thread x).ocl + 1 } else { s.thread x with ocs := (s.thread x).ocs + 1 }) ∧
      ∃ z ∈ t.flight.atoms, .atomicPerformed z.id ∈ t.due ∧ z.op.aop = p.op ∧ z.scope = p.scope ∧ z.ret = (p.n == 0) ∧
        z.parts = (members s).map fun x => { who := ⟨x, (s.thread x).gen⟩, va := a x, addr := pa (a x / 128) + a x % 128,
                                                   s := (s.thread x).reg p.sr, cmp := (s.thread x).reg p.v }) ∧
  (∀ (id : Nat) (s : State) (z : Atom) (q : AtomPart), s.flight.atoms.find? (fun y => y.id == id) = some z → z.stage = false →
    z.parts = [q] → z.deferred = [] → olderAt s z.core (placeOf q.addr) id = false →
    (usable q.addr = false → isPeer q.addr = false → ∃ t, exec (.atomicPerformed id) s = .next t ∧ (∀ y ∈ t.flight.atoms, y.id ≠ id) ∧
      ∀ b, Tab.get 0 t.mem b = afterAtomic s.mem z.op (atomBits z.op) q.addr q.s q.cmp b) ∧
    (usable q.addr = true → z.scope ≠ 0 → (sliceAccess s (reqOfAtom s z q)).2 = .ok → NoRearm (sliceAccess s (reqOfAtom s z q)).1 →
      ∃ t, exec (.atomicPerformed id) s = .next t ∧ (∀ y ∈ t.flight.atoms, y.id ≠ id) ∧
        ∀ b, Tab.get 0 t.mem b = afterAtomic (sliceAccess s (reqOfAtom s z q)).1.mem z.op (atomBits z.op) q.addr q.s q.cmp b)) ∧
  (∀ (id : Nat) (s : State) (z : Atom) (q : AtomPart) (y : L1Line), s.flight.atoms.find? (fun y => y.id == id) = some z → z.stage = false →
    z.parts = [q] → z.deferred = [] → z.scope = 0 → usable q.addr = true → s.l1 z.core (q.addr / 128) z.vd = some y → y.valid = BitVec.allOnes 32 →
    ∃ t y', exec (.atomicPerformed id) s = .next t ∧ (∀ x ∈ t.flight.atoms, x.id ≠ id) ∧ (∀ b, Tab.get 0 t.mem b = Tab.get 0 s.mem b) ∧
      t.l1 z.core (q.addr / 128) z.vd = some y' ∧ y'.valid = y.valid ∧
      ∀ n, n < 128 → y'.data[n]? = some (afterAtomic (lineTab y) z.op (atomBits z.op) (q.addr % 128) q.s q.cmp n))

namespace Sys2Proof.Claims

/-! ### Matrix engine, copies, formation -/

def latch (s : State) (n : Nat) : ALatch := Tab.get {} (crew s).latches n
def lane (x : Nat) : Nat := x / 16 % 32

/-- A latch whose row `r`, word `j` is written (05 R128). -/
def rowWord (l : ALatch) (r j : Nat) : DWord := Tab.get 0 l.rows (8 * r + j)

/-- The entries that MSIGN uses are valid, the widths are engine widths, and the count is that of the width (05 R129, R130). -/
abbrev SignWidths (s : State) (n f sc : Nat) : Prop :=
  Valid s f ∧ matWidth ((crew s).fmt f).width = true ∧ n + 1 = 4 * matNW ((crew s).fmt f).width ∧
    (sc = 1 → Valid s (f + 1) ∧ ((crew s).fmt f).width ≤ 8 ∧ ((crew s).fmt (f + 1)).width = 8)

/-- The latch of waypoint w takes a deposit of entry f (05 R130, R131). -/
abbrev LatchTakes (s : State) (w n f sc : Nat) : Prop :=
  (latch s w).state = .empty ∨ (latch s w).state = .filling ∧ (latch s w).fmt = Tab.get 0 (crew s).f f ∧ (latch s w).scaled = (sc == 1) ∧
    (latch s w).regs = n + 1 ∧ (sc = 1 → (latch s w).sfmt = Tab.get 0 (crew s).f (f + 1))

/-- A multiply instruction: kind, destination, band register and whether it is used, .K, unit, barrier, rounding field, waypoints
and the engines that get an entry, each with its waypoint's place in the list (05 R136, R139, R140). -/
structure MatForm where
  kind : MKind
  d : Nat
  b : Nat
  ba : Nat
  keep : Nat
  u : Nat
  cmp : Nat
  bar : Nat
  rf : Nat
  wps : List Nat
  engines : Nat → List (Nat × Nat)

def matForm : Instr → Option MatForm
  | .mma d a b ba keep u cmp bar rf => some ⟨.mma, d, b, ba, keep, u, cmp, bar, rf, [a], fun c => [(c, a)]⟩
  | .mmab d a b ba keep u cmp bar rf =>
    some ⟨.mmab, d, b, ba, keep, u, cmp, bar, rf, [a, a + 1], fun c => [(2 * (c / 2), a), (2 * (c / 2) + 1, a + 1)]⟩
  | .mmaj d a b ba keep u cmp bar rf =>
    some ⟨.mmaj, d, b, ba, keep, u, cmp, bar, rf, [a], fun c => [(2 * (c / 2), a), (2 * (c / 2) + 1, a)]⟩
  | _ => none

/-- Band scales of a multiply's entry on an engine: gB[31:0], gB[63:32] on the odd engine of MMAB (05 R138, R139). -/
def bandsOf (s : State) (p : MatForm) (core : Nat) : Option Word :=
  if p.ba = 1 then some ((s.g s.cur p.b).extractLsb' (if p.kind = .mmab ∧ core % 2 = 1 then 32 else 0) 32) else none

/-- Room in a matrix queue, and in the members' OCT (05 R137, R141). -/
abbrev EngineRoom (s : State) (core : Nat) : Prop := (s.core core).mq.length < 16 ∧ ∀ x ∈ members s, (s.thread x).oct < 15

/-- Barrier of a completion is one of the crew's, where there is a completion (03 R89). -/
abbrev CmpOk (s : State) (cmp bar : Nat) : Prop := cmp = 1 → BarrierOf s s.cur bar

/-- A tile move: kind, registers, accumulator, entry (05 R147). -/
structure TileForm where
  kind : MKind
  d : Nat
  a : Nat
  acc : Nat
  c : Nat
  n : Nat
  cmp : Nat := 0
  bar : Nat := 0

def tileForm : Instr → Option TileForm
  | .tld d a acc c n => some { kind := .tld, d, a, acc, c, n }
  | .tst d a acc c n cmp bar => some { kind := .tst, d, a, acc, c, n, cmp, bar }
  | _ => none

/-- The core cycle in which what is done between two ring cycles falls: the one that comes (05 R141; 15 R404). -/
def cycleAt (s : State) (core : Nat) : Nat :=
  if (s.island (core / 2)).begun then (s.island (core / 2)).cycle + 1 else (s.island (core / 2)).cycle

/-- The oldest started entry of a core's matrix queue has had its latency (05 R141, R142). -/
def EntryDone (s : State) (core : Nat) (e : MEntry) : Prop :=
  (s.core core).mq.find? (fun x => x.started.isSome) = some e ∧ ∃ n, e.started = some n ∧ n + e.latency ≤ cycleAt s core

/-- The accumulator element that a multiply leaves (05 R122, R138, R140): one exact sum of the old element and K products, each with its block
and band scales, rounded once; RSR acts as RNE. -/
def product (s : State) (core : Nat) (e : MEntry) (i j : Nat) : Word :=
  let mode := if e.rmode = 5 then 0 else e.rmode
  let b := bColumn s core e j
  BitVec.ofNat 32 (encodeVal binary32 (roundVal binary32 mode e.sat 0 (sumVals mode
    (decodeVal binary32 (s.accAt core e.acc i j).toNat :: (List.range (matK e.width)).map fun k =>
      ((bandA e.bands i).mul b.2.2.2).mul
        (((aValue e.latch i k).1.mul (aValue e.latch i k).2).mul ((bValue s b.1 b.2.1 b.2.2.1 k).1.mul (bValue s b.1 b.2.1 b.2.2.1 k).2))))))

/-- The engines of a joint multiply, each with its entry (05 R140). -/
def jointHeads (s : State) (core : Nat) (e : MEntry) : List (Nat × MEntry) :=
  (opCores core e).filterMap fun c => ((s.core c).mq.find? fun x =>
    x.kind == .mmaj && x.joint == e.joint && (s.crew x.crew).run == (s.crew e.crew).run).map fun x => (c, x)

/-- Accumulator words outside one accumulator are as they were. -/
def OtherTiles (s t : State) (core acc : Nat) : Prop :=
  ∀ k, k < accKey core acc 0 0 ∨ accKey core acc 0 0 + 16384 ≤ k → Tab.get 0 t.acc k = Tab.get 0 s.acc k

/-- A copy's issue: record, stage address, index, count (14 R384; 15 R414). -/
structure CopyForm where
  gather : Bool
  c : Nat
  sr : Nat
  x : Nat
  dir : Nat
  k : Nat
  cmp : Nat
  bar : Nat

def copyForm : Instr → Option CopyForm
  | .cpy c s x dir k cmp bar => some ⟨false, c, s, x, dir, k, cmp, bar⟩
  | .cpyg c s x dir k cmp bar => some ⟨true, c, s, x, dir, k, cmp, bar⟩
  | _ => none

/-- Room in the copy queue and the members' OCC (15 R416). -/
abbrev CopyRoom (s : State) : Prop := (s.core (s.convoy s.cur).core).cq.length < 16 ∧ ∀ x ∈ members s, (s.thread x).occ < 15

/-- The checks of a copy's operands (06 R185; 15 R414). -/
abbrev CopyOk (s : State) (p : CopyForm) : Prop :=
  let rcd := record s p.k
  let n := (s.g s.cur p.c).toNat % 2^16 + 1
  let st := (s.g s.cur p.sr).toNat
  let ix := (s.g s.cur p.x).toNat
  let esz := 2^recEsz rcd
  RecordOk s p.k (p.dir == 1) ∧ recSpace rcd = 0 ∧ recBase rcd % min esz 16 = 0 ∧ recStride rcd % min esz 16 = 0 ∧ st % 16 = 0 ∧
    st + n * esz ≤ footWindow (crew s).foot ∧
    (p.gather = true → ix % 4 = 0 ∧ ix + 4 * n ≤ footWindow (crew s).foot) ∧
    (p.gather = false → recOor rcd = false → ix + n ≤ recExtent rcd)

/-- A started transfer of a core's copy queue that has had its time, at 128 bytes a cycle (15 R416). -/
def TransferDone (s : State) (core : Nat) (e : CEntry) : Prop :=
  (s.core core).cq.find? (fun x => x.started.isSome) = some e ∧ e.page = none ∧
    ∃ n, e.started = some n ∧ n + (e.bytes + 127) / 128 ≤ cycleAt s core

/-- Byte b of piece m of a transfer's source: as latched at its issue (07 R207), or as it stands where none was latched. -/
def sourceByte (e : CEntry) (m b : Nat) (now : Byte) : Byte :=
  match (e.source[m]?).getD none with
  | some l => l[b]?.getD 0
  | none => now

/-- What a transfer has latched of its source has the pieces' size. -/
abbrev Latched (e : CEntry) (size : Nat) : Prop := ∀ (m : Nat) (l : List Byte), e.source[m]? = some (some l) → l.length = size

/-- Bytes that a completion takes off its barrier's TXBYTES after the instructions of the cycle (15 R404). -/
def toBarrier (cmp : Bool) (crew bar bytes : Nat) : List (Nat × Nat × Nat) := if cmp then [(crew, bar, bytes)] else []

/-- A layby but for its queue and its age. -/
def tag (l : Layby) : Nat × Nat × Nat × Nat := (l.crew, l.core, l.quad, l.addr)

/-- Convoy `n` is new, of the threads `ks` in lanes ascending, at the layby's address, with g16–g63 zero (02 R52, R53, R57). -/
def FormedAs (s t : State) (n : Nat) (l : Layby) (ks : List Nat) : Prop :=
  (t.convoy n).crew = l.crew ∧ (t.convoy n).core = l.core ∧ (t.convoy n).quad = l.quad ∧ (t.convoy n).pc = l.addr ∧
    (t.convoy n).members = ks.map (fun x => (x / 16 % 32, x % 16)) ∧ (∀ r, 16 ≤ r → t.g n r = 0) ∧ (t.convoy n).hold = .none ∧
    (∀ x ∈ ks, t.thread x = { s.thread x with state := .inConvoy }) ∧ (∀ x, x ∉ ks → t.thread x = s.thread x)

end Sys2Proof.Claims

/-! ### Matrix engine -/

/-- MSIGN deposits the members' rows and block scales in the waypoint's latch, which is complete once all 32 lanes have signed (05 R128–R131). -/
def Obligations.MatrixSign : Prop :=
  ∀ (v w n f sc : Nat) (s : State), Issues s 0 → SignWidths s n f sc → LatchTakes s w n f sc → sc ≤ 1 →
    field (Tab.get 0 (crew s).w w).toNat 0 32 = 0xFFFFFFFF → ((members s).map lane).Nodup →
    (latch s w).signed.length + (members s).length ≤ 32 →
    (∀ x ∈ members s, (s.thread x).cohort = field (Tab.get 0 (crew s).w w).toNat 32 7 ∧ lane x ∉ (latch s w).signed) →
    ∃ t, exec (.msign v w n f sc) s = .next t ∧ Advanced (.msign v w n f sc) s t ∧ SameBytes s t ∧ (∀ x, t.thread x = s.thread x) ∧
      let l : ALatch := Tab.get {} (t.crew (crewKey s)).latches w
      let nw := matNW ((crew s).fmt f).width
      let nb := matK ((crew s).fmt f).width / 8
      l.signed = (latch s w).signed ++ (members s).map lane ∧ l.fmt = Tab.get 0 (crew s).f f ∧ l.scaled = (sc == 1) ∧
      l.state = (if l.signed.length = 32 then .complete else .filling) ∧
      (∀ x ∈ members s, ∀ i j, i < 4 → j < nw → rowWord l (4 * lane x + i) j = (s.thread x).reg (v + i * nw + j)) ∧
      (sc = 1 → ∀ x ∈ members s, ∀ i j, i < 4 → j < nb → Tab.get 0 l.scales (8 * (4 * lane x + i) + j) =
        ((s.thread x).reg (v + n + 1 + (i * nb + j) / 8)).extractLsb' (8 * ((i * nb + j) % 8)) 8) ∧
      ∀ m, m ≠ w → Tab.get {} (t.crew (crewKey s)).latches m = latch s m

/-- RESV makes a reservation of free units that its operand and scales fit, RELS ends the one that starts at its unit, and RELS of a waypoint
empties the latch (05 R131–R135). -/
def Obligations.Reservations : Prop :=
  (∀ (u c b bs sf n bl soff : Nat) (s : State), Issues s 0 → u + c + 1 ≤ (crew s).units → Valid s n → (bl ≠ 0 → Valid s sf) →
    let w := ((crew s).fmt n).width
    let l := if bl = 1 then 8 else if bl = 2 then 16 else if bl = 3 then 32 else 0
    matWidth w = true → 1024 * matNW w ≤ 4096 * (c + 1) → bl ≤ 3 →
    (bl ≠ 0 → matK w % l = 0 ∧ ((crew s).fmt sf).width = 8 ∧ 1024 * matNW w ≤ 128 * soff ∧ 128 * soff + 128 * matK w / l ≤ 4096 * (c + 1)) →
    (∀ r ∈ (crew s).resvs, r.core = (s.convoy s.cur).core → r.first + r.count ≤ u ∨ u + c + 1 ≤ r.first) →
    ∃ t, exec (.resv u c b bs sf n bl soff) s = .next t ∧ WentOnIn (.resv u c b bs sf n bl soff) s.cur s t ∧
      t.crew (crewKey s) = { crew s with resvs := (crew s).resvs ++
        [{ core := (s.convoy s.cur).core, first := u, count := c + 1, fmt := Tab.get 0 (crew s).f n,
           sfmt := if bl = 0 then 0 else Tab.get 0 (crew s).f sf, blk := l, soff := 128 * soff,
           band0 := if bs = 1 then (s.g s.cur b).extractLsb' 0 16 else 0x3F80,
           band1 := if bs = 1 then (s.g s.cur b).extractLsb' 16 16 else 0x3F80 }] }) ∧
  (∀ (u : Nat) (s : State), Issues s 0 → u < (crew s).units →
    (∃ r ∈ (crew s).resvs, r.core = (s.convoy s.cur).core ∧ r.first = u) →
    ∃ t, exec (.relsUnit u) s = .next t ∧ WentOnIn (.relsUnit u) s.cur s t ∧
      t.crew (crewKey s) = { crew s with resvs := (crew s).resvs.filter fun r => ¬(r.core = (s.convoy s.cur).core ∧ r.first = u) }) ∧
  (∀ (n : Nat) (s : State), Issues s 0 → ∃ t, exec (.relsWaypoint n) s = .next t ∧ WentOnIn (.relsWaypoint n) s.cur s t ∧
    ∀ m, Tab.get {} (t.crew (crewKey s)).latches m = if m = n then {} else latch s m)

/-- MMA, MMAB and MMAJ queue one entry on each engine of the form, with accumulator, waypoint's latch, reservation, bands and rounding latched
(05 R136–R141); each member's OCT counts it, and the latches empty without .K. -/
def Obligations.MultiplyIssue : Prop :=
  ∀ (i : Instr) (p : MatForm) (r : Resv) (s : State), matForm i = some p → Issues s 0 → p.d < (crew s).accs → p.u < (crew s).units →
    CmpOk s p.cmp p.bar → (p.kind ≠ .mma → (crew s).foot = .cluster) → (p.kind = .mmaj → (s.ctx (ctx s)).joint = true) → Rounds s p.rf →
    (crew s).resvs.find? (fun x => x.core == (s.convoy s.cur).core && x.first == p.u) = some r →
    (∀ w ∈ p.wps, (latch s w).state = .complete ∧ (Fmt.ofWord (latch s w).fmt).width = (Fmt.ofWord r.fmt).width) →
    matToll (Fmt.ofWord r.fmt).width ≤ (s.island ((s.convoy s.cur).core / 2)).pool →
    (∀ q ∈ p.engines (s.convoy s.cur).core, EngineRoom s q.1) →
    ∃ t, exec i s = .next t ∧ Advanced i s t ∧ SameBytes s t ∧
      (∀ x, t.thread x = if x ∈ members s then { s.thread x with oct := (s.thread x).oct + 1 } else s.thread x) ∧
      (∀ m, Tab.get {} (t.crew (crewKey s)).latches m = if m ∈ p.wps ∧ p.keep ≠ 1 then {} else latch s m) ∧
      ∀ q ∈ p.engines (s.convoy s.cur).core, ∃ e, (t.core q.1).mq = (s.core q.1).mq ++ [e] ∧
        e.kind = p.kind ∧ e.acc = (crew s).acc0 + p.d ∧ e.latch = latch s q.2 ∧ e.resv = r ∧ e.bands = bandsOf s p q.1 ∧
        e.rmode = (crew s).mode p.rf ∧ e.sat = (crew s).sat p.rf ∧ e.cmp = (p.cmp == 1) ∧ e.bar = p.bar ∧ e.crew = crewKey s ∧
        e.started = none ∧ e.members = (members s).map fun x => ⟨x, (s.thread x).gen⟩

/-- TZERO, TLD and TST queue one entry on the core's engine (05 R146–R148): rows, columns, entry and rounding latched, TST's register data read
at issue, OCT counted, and the seed stepped for every element under RSR. -/
def Obligations.TileIssue : Prop :=
  (∀ (d : Nat) (s : State), Issues s 0 → d < (crew s).accs → EngineRoom s (s.convoy s.cur).core →
    ∃ t e, exec (.tzero d) s = .next t ∧ Advanced (.tzero d) s t ∧ SameBytes s t ∧
      (∀ x, t.thread x = if x ∈ members s then { s.thread x with oct := (s.thread x).oct + 1 } else s.thread x) ∧
      (t.core (s.convoy s.cur).core).mq = (s.core (s.convoy s.cur).core).mq ++ [e] ∧ e.kind = .tzero ∧ e.acc = (crew s).acc0 + d ∧
      e.started = none) ∧
  (∀ (i : Instr) (p : TileForm) (s : State), tileForm i = some p → Issues s 0 → p.acc < (crew s).accs → CmpOk s p.cmp p.bar →
    Valid s p.n → Rounds s p.n → 4 ≤ (s.island ((s.convoy s.cur).core / 2)).pool → EngineRoom s (s.convoy s.cur).core →
    let g := (s.g s.cur p.a).toNat
    let n := count ((crew s).fmt p.n).width
    (∀ x ∈ members s, field g 0 7 + lane x ≤ 127) → field g 8 7 + (p.c + 1) * n ≤ 128 →
    ∃ t e, exec i s = .next t ∧ Advanced i s t ∧ SameBytes s t ∧
      (∀ x, t.thread x = if x ∈ members s then
          { s.thread x with oct := (s.thread x).oct + 1, tlds := (s.thread x).tlds + (if p.kind = .tld then 1 else 0),
                            srseed := seedAfter ((crew s).mode p.n) (s.thread x).srseed ((p.c + 1) * n) }
        else s.thread x) ∧
      (t.core (s.convoy s.cur).core).mq = (s.core (s.convoy s.cur).core).mq ++ [e] ∧
      e.kind = p.kind ∧ e.acc = (crew s).acc0 + p.acc ∧ e.fmt = Tab.get 0 (crew s).f p.n ∧ e.regs = p.c + 1 ∧ e.first = p.d ∧
      e.row0 = field g 0 7 ∧ e.col0 = field g 8 7 ∧ e.rmode = (crew s).mode p.n ∧ e.sat = (crew s).sat p.n ∧ e.cmp = (p.cmp == 1) ∧
      e.bar = p.bar ∧ e.members = ((members s).map fun x => ⟨x, (s.thread x).gen⟩) ∧
      (p.c < 64 → ((members s).map lane).Nodup → ∀ x ∈ members s, ∀ j, j ≤ p.c →
        Tab.get 0 e.data (64 * lane x + j) = (s.thread x).reg (p.d + j)) ∧
      (((members s).map lane).Nodup → ∀ x ∈ members s, Tab.get 0 e.draws (lane x) = (s.thread x).srseed))

/-- MATRIX_ENTRY_START and MATRIX_ENTRY_COMPLETE (05 R122, R138–R142, R146, R148; 08 R230; 16 R462): the head entry of every engine of the
operation starts in this cycle once its toll is paid; TZERO clears the accumulator, a multiply leaves each element's rounded exact sum
(a joint one on all its engines), TST stores rounded elements, TLD loads them; the entry leaves the queue.
An entry has its whole effect at its completion (log 51); each engine of a joint operation multiplies in its own entry's input width (log 66). TST and TLD
are stated of an entry with one member. -/
def Obligations.MatrixCompletion : Prop :=
  (∀ (core : Nat) (s : State) (e : MEntry), mStartable s core (s.cycle core) = some e → (e.toll = 0 ∨ e.paid = true) →
    (∀ c ∈ opCores core e, partOf s e c (s.cycle c) = true) →
    ∃ t, exec (.matrixEntryStart core) s = .next t ∧ SameBytes s t ∧ (∀ x, t.thread x = s.thread x) ∧
      ∀ c ∈ opCores core e, ∀ h, mqHead (s.core c) = some h →
        (t.core c).mq = (s.core c).mq.map fun y => if y.seq = h.seq then { y with started := some (s.cycle c) } else y) ∧
  (∀ (core : Nat) (s : State) (e : MEntry), EntryDone s core e → e.kind = .tzero →
    ∃ t, exec (.matrixEntryComplete core) s = .next t ∧ OtherTiles s t core e.acc ∧ (∀ x ∈ (t.core core).mq, x.seq ≠ e.seq) ∧
      (∀ a, Tab.get 0 t.mem a = Tab.get 0 s.mem a) ∧ ∀ i j, i < 128 → j < 128 → t.accAt core e.acc i j = 0) ∧
  (∀ (core : Nat) (s : State) (e : MEntry), EntryDone s core e → e.kind = .mma ∨ e.kind = .mmab →
    ∃ t, exec (.matrixEntryComplete core) s = .next t ∧ OtherTiles s t core e.acc ∧ (∀ x ∈ (t.core core).mq, x.seq ≠ e.seq) ∧
      (∀ a, Tab.get 0 t.mem a = Tab.get 0 s.mem a) ∧ t.barBytes = s.barBytes ++ toBarrier e.cmp e.crew e.bar 65536 ∧
      ∀ i j, i < 128 → j < 128 → t.accAt core e.acc i j = product s core e i j) ∧
  (∀ (core : Nat) (s : State) (e : MEntry), EntryDone s core e → e.kind = .mmaj → (∀ p ∈ jointHeads s core e, p.2.acc < 8) →
    ∃ t, exec (.matrixEntryComplete core) s = .next t ∧
      ∀ p ∈ jointHeads s core e, (∀ x ∈ (t.core p.1).mq, x.seq ≠ p.2.seq) ∧
        ∀ i j, i < 128 → j < 128 → t.accAt p.1 p.2.acc i j = product s p.1 p.2 i j) ∧
  (∀ (core : Nat) (s : State) (e : MEntry) (w : Who), EntryDone s core e → e.kind = .tst → e.members = [w] →
    let f := Fmt.ofWord e.fmt
    e.row0 + lane w.key < 128 → e.col0 + e.regs * count f.width ≤ 128 → f.width ≠ 0 →
    ∃ t, exec (.matrixEntryComplete core) s = .next t ∧ OtherTiles s t core e.acc ∧ (∀ x ∈ (t.core core).mq, x.seq ≠ e.seq) ∧
      ∀ i j, i < 128 → j < 128 → t.accAt core e.acc i j =
        if i = e.row0 + lane w.key ∧ e.col0 ≤ j ∧ j < e.col0 + e.regs * count f.width then
          let m := j - e.col0
          BitVec.ofNat 32 (encodeVal binary32 (roundVal binary32 e.rmode e.sat
            (seedAfter e.rmode (Tab.get 0 e.draws (lane w.key)) (m + 1)).toNat
            (decodeVal f (elem (Tab.get 0 e.data (64 * lane w.key + m / count f.width)) f.width (m % count f.width)))))
        else s.accAt core e.acc i j) ∧
  (∀ (core : Nat) (s : State) (e : MEntry) (w : Who), EntryDone s core e → e.kind = .tld → e.members = [w] → alive s w = true →
    let f := Fmt.ofWord e.fmt
    (∀ j, j < e.regs → (s.thread w.key).reg (e.first + j) = Tab.get 0 e.data (64 * lane w.key + j)) →
    ∃ t, exec (.matrixEntryComplete core) s = .next t ∧ (∀ k, Tab.get 0 t.acc k = Tab.get 0 s.acc k) ∧
      (∀ x ∈ (t.core core).mq, x.seq ≠ e.seq) ∧ (∀ x, x ≠ w.key → t.thread x = s.thread x) ∧
      (t.thread w.key).oct = (s.thread w.key).oct - 1 ∧ (t.thread w.key).tlds = (s.thread w.key).tlds - 1 ∧
      (∀ r, r < e.first ∨ e.first + e.regs ≤ r → (t.thread w.key).reg r = (s.thread w.key).reg r) ∧
      ∀ j n, j < e.regs → n < count f.width →
        elem ((t.thread w.key).reg (e.first + j)) f.width n =
          encodeVal f (roundVal f e.rmode e.sat
            (seedAfter e.rmode (Tab.get 0 e.draws (lane w.key)) (j * count f.width + n + 1)).toNat
            (decodeVal binary32 (s.accAt core e.acc (e.row0 + lane w.key) (e.col0 + j * count f.width + n)).toNat)) % 2^f.width)

/-! ### Copies -/

/-- CPY, CPYG and CPYT queue one transfer with its record, addresses and count latched (05 R149; 15 R414, R416), counted in OCC; where no copy of
the crew is queued, a CPY or CPYG out of the window latches its bytes at issue (07 R207). -/
def Obligations.CopyIssue : Prop :=
  (∀ (i : Instr) (p : CopyForm) (s : State), copyForm i = some p → Issues s 0 → CmpOk s p.cmp p.bar → CopyOk s p →
    4 ≤ (s.island ((s.convoy s.cur).core / 2)).pool → CopyRoom s →
    ∃ t e, exec i s = .next t ∧ Advanced i s t ∧ SameBytes s t ∧
      (∀ x, t.thread x = if x ∈ members s then { s.thread x with occ := (s.thread x).occ + 1 } else s.thread x) ∧
      (t.core (s.convoy s.cur).core).cq = (s.core (s.convoy s.cur).core).cq ++ [e] ∧
      e.kind = (if p.gather then .cpyg else .cpy) ∧ e.rcd = record s p.k ∧ e.out = (p.dir == 1) ∧ e.stage = (s.g s.cur p.sr).toNat ∧
      e.idx = (s.g s.cur p.x).toNat ∧ e.n = (s.g s.cur p.c).toNat % 2^16 + 1 ∧ e.cmp = (p.cmp == 1) ∧ e.bar = p.bar ∧ e.started = none ∧
      (p.dir = 1 → (∀ c ∈ (crew s).cores, (s.core c).cq = []) → ∀ m, m < e.n → e.source[m]? =
        some (some (Tab.getRun 0 s.stage ((crew s).stage0 + e.stage + m * 2^recEsz e.rcd) (2^recEsz e.rcd))))) ∧
  (∀ (u a tgt dir cmp bar len row : Nat) (s : State), Issues s 0 → CmpOk s cmp bar → 4 ≤ (s.island ((s.convoy s.cur).core / 2)).pool → CopyRoom s →
    let n := 128 * (len + 1)
    let g := (s.g s.cur a).toNat
    (tgt = 1 → u < (crew s).accs) → (tgt ≠ 1 → 4096 * u + n ≤ 4096 * (crew s).units) →
    (tgt = 0 → ∀ m, m < (n + 4095) / 4096 → ∃ r ∈ (crew s).resvs, r.core = (s.convoy s.cur).core ∧ r.first ≤ u + m ∧ u + m < r.first + r.count) →
    g % 128 = 0 → g + n ≤ footWindow (crew s).foot →
    ∃ t e, exec (.cpyt u a tgt dir cmp bar len row) s = .next t ∧ Advanced (.cpyt u a tgt dir cmp bar len row) s t ∧ SameBytes s t ∧
      (∀ x, t.thread x = if x ∈ members s then { s.thread x with occ := (s.thread x).occ + 1 } else s.thread x) ∧
      (t.core (s.convoy s.cur).core).cq = (s.core (s.convoy s.cur).core).cq ++ [e] ∧
      e.kind = .cpyt ∧ e.out = (dir == 1) ∧ e.stage = g ∧ e.n = n ∧ e.tile = (tgt == 1) ∧ e.target = u ∧ e.row0 = row ∧
      e.cmp = (cmp == 1) ∧ e.bar = bar ∧ e.started = none)

/-- COPY_START and COPY_COMPLETE (05 R149; 06 R183; 15 R415–R417): a paid transfer starts; CPYT moves its bytes between the window and the tile store
or operand buffer; a CPY into the window whose lines are mapped to the host's memory leaves each element there, as of the issue where it was latched; the
transfer then leaves the queue, and takes its bytes off its barrier after the instructions of the cycle (15 R404). A transfer has its effect at its completion, element by element (log 51). -/
def Obligations.CopyCompletion : Prop :=
  (∀ (core : Nat) (s : State) (e : CEntry), cStartable s core = some e → e.paid = true →
    ∃ t, exec (.copyStart core) s = .next t ∧ SameBytes s t ∧ (∀ x, t.thread x = s.thread x) ∧
      (t.core core).cq = (s.core core).cq.map fun x => if x.seq = e.seq then { e with started := some (s.cycle core) } else x) ∧
  (∀ (core : Nat) (s : State) (e : CEntry), TransferDone s core e → e.kind = .cpyt → Latched e e.n →
    let st := (s.crew e.crew).stage0 + e.stage
    let acc := accKey core ((s.crew e.crew).acc0 + e.target) e.row0 0
    let ob := obKey core ((s.crew e.crew).unit0 + e.target) 0
    ∃ t, exec (.copyComplete core) s = .next t ∧ (∀ x ∈ (t.core core).cq, x.seq ≠ e.seq) ∧ (∀ a, Tab.get 0 t.mem a = Tab.get 0 s.mem a) ∧
      (e.tile = false → e.out = true → ∀ b, Tab.get 0 t.stage b = if st ≤ b ∧ b < st + e.n then Tab.get 0 s.ob (ob + (b - st)) else Tab.get 0 s.stage b) ∧
      (e.tile = false → e.out = false → ∀ b, Tab.get 0 t.ob b =
        if ob ≤ b ∧ b < ob + e.n then sourceByte e 0 (b - ob) (Tab.get 0 s.stage (st + (b - ob))) else Tab.get 0 s.ob b) ∧
      t.barBytes = s.barBytes ++ toBarrier e.cmp e.crew e.bar e.n ∧
      (e.tile = true → e.out = true → e.n % 4 = 0 → ∀ b, Tab.get 0 t.stage b =
        if st ≤ b ∧ b < st + e.n then (Tab.get 0 s.acc (acc + (b - st) / 4)).extractLsb' (8 * ((b - st) % 4)) 8 else Tab.get 0 s.stage b) ∧
      (e.tile = true → e.out = false → ∀ k, Tab.get 0 t.acc k =
        if acc ≤ k ∧ k < acc + e.n / 4 then BitVec.ofNat 32 (leNat ((List.range 4).map fun i =>
          sourceByte e 0 (4 * (k - acc) + i) (Tab.get 0 s.stage (st + 4 * (k - acc) + i)))) else Tab.get 0 s.acc k)) ∧
  (∀ (core : Nat) (s : State) (e : CEntry) (a pa : Nat → Nat), TransferDone s core e → e.kind = .cpy → e.out = false → e.moved = 0 → e.off = 0 →
    Latched e (2^recEsz e.rcd) →
    let esz := 2^recEsz e.rcd
    let st := (s.crew e.crew).stage0 + e.stage
    (∀ m, m < e.n → elemAddr e.rcd (2^57) (e.idx + m) 0 esz = some (a m) ∧ ∀ b, b < esz →
      (∃ x, tlbFind (s.core core).tlb e.ctx (s.ctx e.ctx).vd (a m + b) = some x ∧ entryOutcome x (a m + b) false false = .ok (pa (a m + b))) ∧
      usable (pa (a m + b)) = false ∧ isPeer (pa (a m + b)) = false ∧
      ∀ c, c ≤ b → (a m + b) / 128 = (a m + c) / 128 → pa (a m + b) = pa (a m + c) + (b - c)) →
    ∃ t, exec (.copyComplete core) s = .next t ∧ (∀ x ∈ (t.core core).cq, x.seq ≠ e.seq) ∧
      (∀ b, Tab.get 0 t.mem b = Tab.get 0 s.mem b) ∧
      (∀ m b, m < e.n → b < esz → Tab.get 0 t.stage (st + m * esz + b) = sourceByte e m b (Tab.get 0 s.mem (pa (a m + b)))) ∧
      ∀ b, b < st ∨ st + e.n * esz ≤ b → Tab.get 0 t.stage b = Tab.get 0 s.stage b)

/-! ### Formation and rows -/

/-- FORMER (02 R52, R53, R57): the earliest overdue layby is formed, else the one of lowest address that is ready or holds a whole cohort; the
convoy takes the head of each lane, or the cohort, and the layby loses them. FORMATION_WAIT_EXPIRY gives the former its turn. ROW_FREE (02 R65, R66): the row of an
exiting thread with no load and no TLD left is free; with the crew's last row its out-regions are to be written back. A former that has formed
in a core cycle does not form again in it. -/
def Obligations.Formation : Prop :=
  (∀ (core quad slot : Nat) (s : State) (l : Layby),
    let k := tableCrew s core slot
    let ready := readyLaybys s k core quad
    let overdue := ready.filter fun x => decide ((s.crewRun k).wait + 64 ≤ x.age)
    k ≠ 0 → (s.crew k).phase = .running → (s.ctx (s.crew k).ctx).stop = none → (s.core core).gated = false →
    Tab.get 0 (s.core core).formed (2 * quad + slot) ≠ s.cycle core + 1 →
    (if overdue = [] then l ∈ ready ++ cohortLaybys s k core quad ∧ ∀ x ∈ ready ++ cohortLaybys s k core quad, x = l ∨ l.addr < x.addr
     else l ∈ overdue ∧ ∀ x ∈ overdue, x = l ∨ l.created < x.created ∨ l.created = x.created ∧ l.addr < x.addr) →
    ∃ t, exec (.former core quad slot) s = .next t ∧ SameBytes s t ∧
      (l.junction = false → FormedAs s t (s.fresh + 1) l l.heads ∧ ∀ x ∈ t.laybys, tag x = tag l → ∀ y ∈ l.heads, y ∉ x.queue) ∧
      (l.junction = true → overdue = [] → ∀ c, (wholeCohorts s l).head? = some c →
        FormedAs s t (s.fresh + 1) l (byLane (living s l.crew c)) ∧ (t.convoy (s.fresh + 1)).whole = true)) ∧
  (∀ (core quad slot : Nat) (s : State), Tab.get 0 (s.core core).formed (2 * quad + slot) = s.cycle core + 1 →
    exec (.former core quad slot) s = .next s) ∧
  (∀ (core quad slot addr : Nat) (s : State) (l : Layby), s.layby? (tableCrew s core slot) core quad addr = some l →
    (s.crewRun (tableCrew s core slot)).wait ≤ l.age →
    ∃ t, exec (.formationWaitExpiry core quad slot addr) s = .next t ∧ .former core quad slot ∈ t.due ∧ { t with due := [] } = { s with due := [] }) ∧
  (∀ (x : Nat) (s : State), (s.thread x).state = .exiting → (s.thread x).ocl = 0 → (s.thread x).tlds = 0 →
    (Tab.get {} (s.crew (s.thread x).crew).syncs (s.thread x).cohort : SyncRec).parked = [] →
    ∃ t, exec (.rowFree x) s = .next t ∧ t.thread x = { gen := (s.thread x).gen } ∧ (∀ y, y ≠ x → t.thread y = s.thread y) ∧
      (∀ a, Tab.get 0 t.mem a = Tab.get 0 s.mem a) ∧
      (crewThreads (s.setThread x { gen := (s.thread x).gen }) (s.thread x).crew = [] →
        (s.crew (s.thread x).crew).phase = .running ∨ (s.crew (s.thread x).crew).phase = .leaving →
        (t.crew (s.thread x).crew).phase = .writingBack ∧ .regionWriteback (s.thread x).crew ∈ t.due))

namespace Sys2Proof.Claims

/-! ### Firmware processors and rings -/

/-- Processor n, standing as `p`, has written x to register rd and gone on behind its word; the others are as they were (13 R353). -/
def FwWent (p : FwProc) (s t : State) (n d : Nat) (x : DWord) : Prop :=
  t.proc n = { p.setReg d x with pc := p.pc + 4 } ∧ ∀ m, m ≠ n → t.proc m = s.proc m

/-- Processor n has taken an exception (13 R353); what becomes of mstatus is RISC-V's (log 7). -/
def FwTrapped (s t : State) (n cause : Nat) (val : DWord) : Prop :=
  t.proc n = { s.proc n with mepc := BitVec.ofNat 64 (s.proc n).pc, mcause := BitVec.ofNat 64 cause, mtval := val,
                             mstatus := ((s.proc n).trap cause val).mstatus, pc := (s.proc n).mtvec.toNat / 4 * 4 } ∧ ∀ m, m ≠ n → t.proc m = s.proc m

/-- What XSWAIT leaves when it returns (13 R357): the selected signals are cleared in the same step. -/
def woken (p : FwProc) (mask : DWord) : FwProc := { p with pending := p.pending &&& ~~~mask, waiting := none }

/-- Exceptions of the five instructions: cause and the register that mtval holds (13 R355). -/
def fwFault (s : State) (n : Nat) : Instr → Option (Nat × Nat)
  | .xrfetch b a _ =>
    let q := s.queue ((s.proc n).reg a).toNat
    if 4096 ≤ ((s.proc n).reg a).toNat ∨ 8 ≤ n ∨ ((s.proc n).reg a).toNat / 64 % 8 ≠ n ∨ q.en = false ∨ ((s.proc n).reg b).toNat % 128 ≠ 0 ∨
        0x40000 < ((s.proc n).reg b).toNat + 128 then some (25, a) else none
  | .xswait _ a _ => if (s.proc n).reg a &&& ~~~(allowedSignals n) ≠ 0 then some (27, a) else none
  | .xdisp a _ =>
    if ((s.proc n).reg a).toNat % 64 ≠ 0 ∨ 0x40000 < ((s.proc n).reg a).toNat + 64 ∨
        orderBad (Tab.getRun 0 (s.proc n).sram ((s.proc n).reg a).toNat 64) = true then some (26, a) else none
  | .xmeas a _ => if runsDomain n ((s.proc n).reg a).toNat then none else some (28, a)
  | _ => none

/-- No token of the ring is on its way: no demand collected, no claim, no window, no debt. -/
abbrev Resting (i : Island) : Prop :=
  i.state = .enabled ∧ i.claims = [] ∧ i.windows = [] ∧ i.coll = List.replicate 10 0 ∧ i.debt = 0 ∧ i.bins.length = 10

/-- Sum of a list of token counts, and the count at a stop. -/
def sum (l : List Nat) : Nat := l.foldl (· + ·) 0
def nth (l : List Nat) (n : Nat) : Nat := l[n]?.getD 0

/-- The bins after they have moved one stop on (08 R216 step 1). -/
def movedOn (l : List Nat) : List Nat := l[9]?.getD 0 :: l.take 9

/-- An enabled island in whose ring no claim, window or debt stands, where one core works for crew x and the other is gated, and where nothing else is
under way. -/
structure AtWork (s : State) (core x : Nat) : Prop where
  state : (s.island (core / 2)).state = .enabled
  begun : (s.island (core / 2)).begun = true
  claims : (s.island (core / 2)).claims = []
  windows : (s.island (core / 2)).windows = []
  begins : (s.island (core / 2)).begins = []
  debt : (s.island (core / 2)).debt = 0
  bins : (s.island (core / 2)).bins.length = 10
  coll : (s.island (core / 2)).coll.length = 10
  laybys : s.laybys = []
  flight : s.flight = {}
  issue : s.issue = []
  crew : x ≠ 0 ∧ (s.crew x).phase = .running ∧ (s.crew x).syncs = [] ∧ (s.ctx (s.crew x).ctx).stop = none ∧ (s.lease core (s.crew x).ctx).refused = false
  slots : (s.core core).slot0 = x ∧ (s.core core).slot1 = x
  here : (s.core core).gated = false ∧ (s.core core).bad = [] ∧ (s.core core).sideLog = []
  there : (s.core (2 * (core / 2) + (1 - core % 2))).gated = true
  copies : ∀ c, (s.core c).cq = []

/-- All tokens but those of one stop's collector, and of free holdings, stand in the bins (08 R215). -/
abbrev HoldsAll (i : Island) (stop free : Nat) : Prop :=
  i.coll = (List.replicate 10 0).set stop (nth i.coll stop) ∧ sum i.bins + nth i.coll stop + free = i.pool

/-- Ready convoys of a quad, oldest first, that pay from the quad's collector: their toll is not covered by their holding (08 R228, R229). -/
def wide (s : State) (isOpen : Bool) (l : List Cand) : List Cand :=
  l.filter fun c => (c.toll != 0 && !(decide (c.toll ≤ (s.convoy c.key).free) && !isOpen)) || c.need != 0

/-- The payer: the oldest of them with PAID clear, else the oldest, every PAID flag of the quad being cleared (08 R228). -/
def payer (s : State) (isOpen : Bool) (l : List Cand) : Option Cand :=
  ((wide s isOpen l).find? fun c => !(s.convoy c.key).paid) <|> (wide s isOpen l).head?

end Sys2Proof.Claims

/-! ### Firmware processors -/

/-- XBFEXT, XRFETCH, XSWAIT with its return, XDISP and XMEAS: the register each writes, what it does besides, and where it traps (13 R353–R357);
an uncorrectable word of a processor's SRAM halts it and confines to the device (13 R351).
Trap addresses, mtval and pc of the processors follow log 7; XRFETCH of an absent page follows log 36; an order that its context engine can
carry out at once, one outside the SRAM being no order (log 85); the energy measured so far in the present interval is a free value (log 76). -/
def Obligations.FirmwareInstructions : Prop :=
  (∀ (l p a d n : Nat) (s : State), s.cur = 1000000 + n →
    ∃ t x, exec (.xbfext l p a d) s = .next t ∧ FwWent (s.proc n) s t n d x ∧
      ∀ b, b < 64 → x.getLsbD b = (decide (b ≤ l) && ((s.proc n).reg a).getLsbD (p + b))) ∧
  (∀ (b a d n : Nat) (s : State) (bytes : List Byte), s.cur = 1000000 + n → fwFault s n (.xrfetch b a d) = none →
    let q := s.queue ((s.proc n).reg a).toNat
    let buf := ((s.proc n).reg b).toNat
    let r := vRead s q.ctx (q.base + 128 * (q.head.toNat % (16 * 2^q.size))) 128
    r.2 = .ok bytes →
    ∃ t, exec (.xrfetch b a d) s = .next t ∧
      (∀ x, Tab.get 0 (t.proc n).sram x = if buf ≤ x ∧ x < buf + bytes.length then bytes[x - buf]?.getD 0 else Tab.get 0 (r.1.proc n).sram x) ∧
      (t.proc n).pc = (r.1.proc n).pc + 4 ∧
      (d ≠ 0 → (t.proc n).reg d =
        if fieldAt bytes 0 4 ≠ q.head.toNat then 1 else if crc32c (bytes.drop 8) = fieldAt bytes 4 4 then 0 else 2)) ∧
  (∀ (b a d n : Nat) (s : State), s.cur = 1000000 + n → fwFault s n (.xswait b a d) = none →
    let p := s.proc n
    ((p.pending &&& p.reg a ≠ 0 ∨ p.reg b = 0) →
      ∃ t, exec (.xswait b a d) s = .next t ∧ FwWent (woken p (p.reg a)) s t n d (p.pending &&& p.reg a)) ∧
    (¬(p.pending &&& p.reg a ≠ 0 ∨ p.reg b = 0) →
      ∃ t, exec (.xswait b a d) s = .next t ∧ t.proc n = { p with waiting := some (d, p.reg a, p.reg b) } ∧ ∀ m, m ≠ n → t.proc m = s.proc m)) ∧
  (∀ (d n : Nat) (mask time : DWord) (s : State), (s.proc n).waiting = some (d, mask, time) → (s.proc n).safe = false →
    ((s.proc n).pending &&& mask ≠ 0 ∨ time ≠ BitVec.allOnes 64) →
    ∃ t, exec (.xswaitReturn n) s = .next t ∧ FwWent (woken (s.proc n) mask) s t n d ((s.proc n).pending &&& mask)) ∧
  (∀ (a d n : Nat) (s : State), s.cur = 1000000 + n → fwFault s n (.xdisp a d) = none →
    let o := orderOf (Tab.getRun 0 (s.proc n).sram ((s.proc n).reg a).toNat 64)
    ((s.island (o.core / 2)).state = .retired ∨ (s.island (o.core / 2)).state = .poweredDown →
      ∃ t, exec (.xdisp a d) s = .next t ∧ FwWent (s.proc n) s t n d 2) ∧
    ((s.island (o.core / 2)).state = .enabled → o.kind = 2 → ∀ k, orderedCrew s o = some k → o.core ∈ (s.crew k).cores →
      ∃ t, exec (.xdisp a d) s = .next t ∧ FwWent (s.proc n) s t n d 0 ∧ .streamOut k ∈ t.due) ∧
    ((s.island (o.core / 2)).state = .enabled → o.kind ≠ 2 → slotsTaken s o false = true →
      ∃ t, exec (.xdisp a d) s = .next t ∧ FwWent (s.proc n) s t n d 1) ∧
    ((s.island (o.core / 2)).state = .enabled → o.kind = 1 → (s.ctx o.ctx).used = true → (s.ctx o.ctx).stop = none → ∀ k,
      orderedCrew s o = some k → (s.crew k).phase = .saved → o.suits (s.crew k).foot = true → slotsTaken s o (s.crew k).cluster = false →
      (o.slot < 2 → o.slot = (s.crew k).slot) →
      ∃ t, exec (.xdisp a d) s = .next t ∧ (d ≠ 0 → (t.proc n).reg d = 0) ∧ (t.core o.core).crewAt (o.slot % 2) = k ∧
        (t.crew k).core = o.core ∧ ((t.crew k).phase = .running ∨ (t.crew k).phase = .staging)) ∧
    ((s.island (o.core / 2)).state = .enabled → o.kind = 0 → (s.ctx o.ctx).used = true → (s.ctx o.ctx).stop = none → slotsTaken s o false = false → ∀ g,
      let r := readDesc s o.ctx { seq := 0, desc := o.desc }
      r.2 = .inr g → o.suits g.2.foot = true → slotsTaken r.1 o (g.2.foot == .cluster) = false → orderFits r.1 o g.2.foot = true →
      ∃ t k, exec (.xdisp a d) s = .next t ∧ (d ≠ 0 → (t.proc n).reg d = 0) ∧ (∀ c ∈ (t.crew k).cores, (t.core c).crewAt (o.slot % 2) = k) ∧
        (t.crew k).core = o.core ∧ (t.crew k).phase = .staging ∧ (t.crew k).ctx = o.ctx ∧ (t.crew k).num = o.crew ∧ .crewStart k ∈ t.due)) ∧
  (∀ (a d n : Nat) (s : State), s.cur = 1000000 + n → fwFault s n (.xmeas a d) = none →
    let m := ((s.proc n).reg a).toNat
    let now := 64 * Config.measured m s.fresh
    ∃ t, exec (.xmeas a d) s = .next t ∧ FwWent (s.proc n) s t n d (BitVec.ofNat 64 ((s.dom m).integral / 64 * 64 + now)) ∧
      ∀ k, t.dom k = if k = m then { s.dom m with integral := 0, read := (s.dom m).read + now } else s.dom k) ∧
  (∀ (i : Instr) (n cause r : Nat) (s : State), s.cur = 1000000 + n → fwFault s n i = some (cause, r) →
    ∃ t, exec i s = .next t ∧ FwTrapped s t n cause ((s.proc n).reg r)) ∧
  (∀ (n : Nat) (s : State), ∃ t, exec (.fwSramUncorrectable n) s = .next t ∧ (t.proc n).halted = true ∧ t.host.failed = true ∧
    t.sealing.incidents = s.sealing.incidents + 1 ∧ ∀ k, k < 4096 → (t.queue k).state ≠ .running)

/-! ### The Turnpike -/

/-- A ring's cycle moves every bin one stop on (08 R215, R216); CLAIM_OPEN, HOLD_WINDOW_END and TCLAIM_COMPLETE move tokens as R224, R225, R232 and R235
say; SPILL_RETRY lets a held instruction issue again (02 R49); powering an island up puts its pool at stop 0 (08 R217); clocks gate (00 R9).
The order of claims and the shrinking of a holding are the model's reading (log 37, 48). -/
def Obligations.RingEvents : Prop :=
  (∀ (isl : Nat) (s : State), Resting (s.island isl) → s.convoys = [] → (s.core (2 * isl)).gated = true → (s.core (2 * isl + 1)).gated = true →
    (s.island isl).bins.foldl (· + ·) 0 = (s.island isl).pool →
    let i := s.island isl
    ∃ t, exec (.ringCycle isl) s = .next t ∧ SameBytes s t ∧ (∀ x, t.thread x = s.thread x) ∧ (t.dom isl).count = ((s.dom isl).count + 1) % 65536 ∧
      t.island isl = { i with begun := true, begins := [], cycle := if i.begun then i.cycle + 1 else i.cycle,
                              bins := if i.begun then i.bins[9]?.getD 0 :: i.bins.take 9 else i.bins }) ∧
  (∀ (isl stop : Nat) (d : Dem) (s : State),
    let i := s.island isl
    (demandsOf s isl).find? (fun x => x.stop == stop) = some d → Tab.get 0 i.begins stop ≠ 0 → Tab.get 0 i.begins stop + 20 ≤ i.cycle + 1 →
    i.claims = [] → i.coll = List.replicate 10 0 → d.need i.coll ≠ 0 → youngest s isl = none →
    ∃ t, exec (.claimOpen isl stop) s = .next t ∧
      (t.island isl).claims = [{ stop, opened := i.cycle, remaining := d.need i.coll, pair := d.pair, each := d.each }]) ∧
  (∀ (isl : Nat) (w : Window) (s : State),
    let i := s.island isl
    i.windows.filter (fun x => decide (x.ends ≤ i.cycle)) = [w] → w.holder = none → i.claims = [] →
    ∃ t, exec (.holdWindowEnd isl) s = .next t ∧
      t.island isl = { i with windows := i.windows.erase w, debt := i.debt - min w.tokens i.debt,
                              bins := i.bins.set w.stop (i.bins[w.stop]?.getD 0 + (w.tokens - min w.tokens i.debt)) }) ∧
  (∀ (k n : Nat) (s : State),
    let c := s.convoy k
    let i := s.island (c.core / 2)
    let stop := quadStop c.core c.quad
    let x := grant s k n - held s k
    c.hold = .on (.tclaim n) → c.reclaim = 0 → 0 < x → x ≤ i.coll[stop]?.getD 0 →
    ∃ t, exec (.tclaimComplete k) s = .next t ∧
      t.convoy k = { c with tolls := grant s k n, free := c.free + x, youth := i.cycle, pc := c.pc + byteLen (.tclaim n),
                              hold := .none, checked := false, tolled := false, since := none } ∧
      (t.island (c.core / 2)).coll = i.coll.set stop (i.coll[stop]?.getD 0 - x)) ∧
  (∀ (k : Nat) (i : Instr) (s : State), (s.convoy k).hold = .on i → waitsForRoom i = true → goesOn s k i = true →
    ∃ t, exec (.spillRetry k) s = .next t ∧ t.convoy k = { s.convoy k with hold := .none } ∧ k ∈ t.issue) ∧
  (∀ (isl : Nat) (s : State), (s.island isl).state = .poweredDown →
    ∃ t, exec (.islandPowerUp isl) s = .next t ∧ (t.island isl).state = .enabled ∧ (t.island isl).cycle = 0 ∧ (t.island isl).begun = false ∧ (t.island isl).debt = 0 ∧
      (t.island isl).bins = (s.island isl).poolEntry (s.island isl).cur :: List.replicate 9 0 ∧
      ∀ k, k ≠ isl → t.island k = s.island k) ∧
  (∀ (isl : Nat) (s : State), (s.island isl).state = .enabled →
    (∀ c, c = 2 * isl ∨ c = 2 * isl + 1 → (s.core c).slot0 = 0 ∧ (s.core c).slot1 = 0) →
    ∃ t, exec (.islandPowerDown isl) s = .next t ∧ (t.island isl).state = .poweredDown ∧ (t.island isl).bins = List.replicate 10 0 ∧
      (t.island isl).pool = 0 ∧ ∀ k, k ≠ isl → t.island k = s.island k) ∧
  (∀ (core : Nat) (s : State),
    (∃ t, exec (.coreClockGate core) s = .next t ∧ ∀ k, t.core k = if k = core then { s.core core with gated := true } else s.core k) ∧
    ∃ t, exec (.coreClockUngate core) s = .next t ∧ ∀ k, t.core k = if k = core then { s.core core with gated := false } else s.core k)

/-- The rest of a ring's cycle. The mint adds what a pool has risen by at stop 0 and takes up a debt of what it has fallen by, which it pays there
(08 R220). A stop collects up to its target from the bin at it, and without a demand gives its collector back; with a claim open only the oldest claim's
stop collects (08 R227). A quad issues up to two lane instructions and a group instruction, oldest first; of those that pay from the collector only the
payer, which holds a PAID flag then (08 R228), while a holding that covers its toll pays for its convoy where no claim is open (08 R229). So in a whole
cycle of the ring a convoy's toll, or the toll of an engine's head entry (08 R230), is collected, and once it is there starts its hold window (08 R222, R224). -/
def Obligations.RingArbitration : Prop :=
  (∀ (isl : Nat) (s : State),
    let i := s.island isl
    let owed := i.debt + ((sum i.bins - i.debt) - i.pool)
    let bin := nth (movedOn i.bins) 0 + (i.pool - (sum i.bins - i.debt))
    i.state = .enabled → i.begun = true → i.claims = [] → i.windows = [] → i.coll = List.replicate 10 0 → i.bins.length = 10 → s.convoys = [] →
    (s.core (2 * isl)).gated = true → (s.core (2 * isl + 1)).gated = true →
    ∃ t, exec (.ringCycle isl) s = .next t ∧ (t.island isl).bins = (movedOn i.bins).set 0 (bin - min owed bin) ∧ (t.island isl).debt = owed - min owed bin) ∧
  (∀ (ds : List Dem) (i : Island), i.claims = [] → i.debt = 0 → (∀ d ∈ ds, d.pair = none ∧ d.stop < 10) → (ds.map Dem.stop).Nodup →
    i.coll.length = 10 → i.bins.length = 10 → ∀ st, st < 10 →
    (∀ d ∈ ds, d.stop = st →
      let bin := nth i.bins st + (nth i.coll st - d.target)
      let x := min (d.target - nth i.coll st) bin
      nth (collect ds i).coll st = min (nth i.coll st) d.target + x ∧ nth (collect ds i).bins st = bin - x) ∧
    ((∀ d ∈ ds, d.stop ≠ st) → nth (collect ds i).coll st = 0 ∧ nth (collect ds i).bins st = nth i.bins st + nth i.coll st)) ∧
  (∀ (ds : List Dem) (i : Island) (c : Claim) (d : Dem), i.claims = [c] → c.pair = none → d ∈ ds → d.stop = c.stop → nth i.coll c.stop < d.target →
    (∀ d ∈ ds, d.pair = none ∧ d.stop < 10 ∧ nth i.coll d.stop ≤ d.target) → (ds.map Dem.stop).Nodup →
    (∀ st, st < 10 → (∀ d ∈ ds, d.stop ≠ st) → nth i.coll st = 0) → i.coll.length = 10 → i.bins.length = 10 →
    let x := min (d.target - nth i.coll c.stop) (nth i.bins c.stop)
    (collect ds i).coll = i.coll.set c.stop (nth i.coll c.stop + x) ∧ (collect ds i).bins = i.bins.set c.stop (nth i.bins c.stop - x)) ∧
  (∀ (isl core quad : Nat) (s : State),
    let cs := ready s core quad
    let stop := quadStop core quad
    let isOpen := !(s.island isl).claims.isEmpty
    let have_ := nth (s.island isl).coll stop
    let free (c : Cand) : Prop := c.toll ≤ (s.convoy c.key).free ∧ isOpen = false
    let pays (c : Cand) : Prop := c.toll = 0 ∨ free c ∨ (payer s isOpen cs = some c ∧ c.toll ≤ have_)
    let t := arbitrate s isl core quad
    (cs.map Cand.key).Nodup → (∀ c ∈ cs, c.toll = 0 ∨ c.need = 0) →
    ∃ l, List.Sublist l cs ∧ t.issue = s.issue ++ l.map Cand.key ∧ (l.filter fun c => c.lane).length ≤ 2 ∧ (l.filter fun c => !c.lane).length ≤ 1 ∧
      (∀ c ∈ l, c.need = 0 ∧ pays c) ∧
      (∀ c ∈ cs, c.need = 0 → pays c → c ∉ l → (l.filter fun x => x.lane == c.lane).length = if c.lane then 2 else 1) ∧
      (∀ c ∈ l, c.toll ≠ 0 → (t.convoy c.key).tolled = true ∧
        (free c → (t.convoy c.key).free = (s.convoy c.key).free - c.toll) ∧ (¬free c → (t.convoy c.key).paid = true)) ∧
      (∀ c ∈ cs, payer s isOpen cs = some c → c.need ≠ 0 → c.need ≤ have_ → .tclaimComplete c.key ∈ t.due) ∧
      (∀ c ∈ l, c.toll ≠ 0 → ∃ w ∈ (t.island isl).windows, w.stop = stop ∧ w.tokens = c.toll ∧
        w.ends = (s.island isl).cycle + (if c.toll = 1 then 4 else 6) ∧ (free c → w.holder = some c.key) ∧ (¬free c → w.holder = none)) ∧
      ((∀ c ∈ l, c.toll = 0 ∨ free c) → (t.island isl).coll = (s.island isl).coll) ∧
      (∀ c ∈ l, c.toll ≠ 0 → ¬free c → (t.island isl).coll = (s.island isl).coll.set stop (have_ - c.toll))) ∧
  (∀ (core x k : Nat) (c : Convoy) (h : InHand) (i : Instr) (s : State), AtWork s core x → s.convoys = [(k, c)] → (s.core core).mq = [] →
    c.core = core → c.quad < 4 → c.crew = x → c.members ≠ [] → c.hold = .none → c.acq = none → c.reclaim = 0 → c.tolled = false → c.checked = true →
    c.notBefore ≤ s.cycle core + 1 → s.inHand k = some h → h.instr = some i → h.verdict = none → quadToll i ≠ 0 →
    (∀ u n, passedOver u n i = false) →
    let isl := core / 2
    let r := s.island isl
    let stop := quadStop core c.quad
    let bins := movedOn r.bins
    let ends := r.cycle + 1 + (if quadToll i = 1 then 4 else 6)
    quadToll i ≤ r.pool → HoldsAll r stop c.free →
    (c.free < quadToll i → max c.tolls c.free ≤ r.pool / 2 → nth r.coll stop ≤ quadToll i →
      let got := nth r.coll stop + min (quadToll i - nth r.coll stop) (nth bins stop)
      ∃ t, exec (.ringCycle isl) s = .next t ∧ (t.island isl).bins = bins.set stop (nth bins stop - (got - nth r.coll stop)) ∧
        (quadToll i ≤ got → k ∈ t.issue ∧ t.convoy k = { c with paid := true, tolled := true } ∧
          (t.island isl).windows = [{ stop, ends, tokens := quadToll i }] ∧ (t.island isl).coll = List.replicate 10 0) ∧
        (got < quadToll i → k ∉ t.issue ∧ t.convoy k = { c with paid := false } ∧ (t.island isl).windows = [] ∧ nth (t.island isl).coll stop = got)) ∧
    (quadToll i ≤ c.free → max c.tolls c.free ≤ r.pool / 2 → nth r.coll stop = 0 →
      ∃ t, exec (.ringCycle isl) s = .next t ∧ (t.island isl).bins = bins ∧ k ∈ t.issue ∧
        t.convoy k = { c with free := c.free - quadToll i, tolled := true, paid := false } ∧
        (t.island isl).windows = [{ stop, ends, tokens := quadToll i, holder := some k }] ∧ (t.island isl).coll = List.replicate 10 0)) ∧
  (∀ (core x : Nat) (e : MEntry) (s : State), AtWork s core x → s.convoys = [] → mStartable s core (s.cycle core + 1) = some e → isPair e.kind = false →
    e.toll ≠ 0 → e.paid = false →
    let isl := core / 2
    let r := s.island isl
    let stop := portStop core
    let bins := movedOn r.bins
    e.toll ≤ r.pool → HoldsAll r stop 0 → nth r.coll stop ≤ e.toll →
    let got := nth r.coll stop + min (e.toll - nth r.coll stop) (nth bins stop)
    ∃ t, exec (.ringCycle isl) s = .next t ∧ (t.island isl).bins = bins.set stop (nth bins stop - (got - nth r.coll stop)) ∧
      (e.toll ≤ got → .matrixEntryStart core ∈ t.due ∧ (t.island isl).windows = [{ stop, ends := r.cycle + 1 + e.window, tokens := e.toll }] ∧
        (t.core core).mq = (s.core core).mq.map (fun y => if y.seq = e.seq then { y with paid := true } else y)) ∧
      (got < e.toll → (t.core core).mq = (s.core core).mq ∧ (t.island isl).windows = [] ∧ nth (t.island isl).coll stop = got))

namespace Sys2Proof.Claims

/-! ### Queues and runs -/

/-- A kick value that is taken (12 R334): bits 62:32 zero, TAIL within the rings' slots of HEAD; the VD is not locked (12 R331). -/
abbrev KickTaken (s : State) (vd q val : Nat) : Prop :=
  val / 2^32 % 2^31 = 0 ∧ (BitVec.ofNat 32 val - (s.queue (64 * vd + q)).head).toNat ≤ 16 * 2^(s.queue (64 * vd + q)).size ∧
    (s.vd ((64 * vd + q) / 64)).tstate ≠ .locked

/-- What a record write gives its queue besides EN (12 R333). -/
def recordGives (q : Queue) (val : Nat) : Queue :=
  { q with base := val % 2^64, size := val / 2^64 % 2^4, vector := val / 2^72 % 2^6, ien := val.testBit 78, ctx := val / 2^96 % 2^32,
           cbase := val / 2^128 % 2^64, kickva := val / 2^192 % 2^64 }

/-- A read of the slot at HEAD that gives a packet to take: marked with HEAD, intact, well formed, a launch (12 R335–R337). -/
abbrev SlotGives (s : State) (key : Nat) (p : List Byte) : Prop :=
  let q := s.queue key
  let r := vRead s q.ctx (q.base + 128 * (q.head.toNat % (16 * 2^q.size))) 128
  r.2 = .ok p ∧ fieldAt p 0 4 = q.head.toNat ∧ crc32c (p.drop 8) = fieldAt p 4 4 ∧ packetBad p = false ∧ fieldAt p 8 1 = 1 ∧
    (r.1.ctx (r.1.queue key).ctx).stop = none

/-- The packet stands at the queue's tail as a pending run, and HEAD has moved (10 R269, R271). -/
def Admitted (s t : State) (key : Nat) (p : List Byte) : Prop :=
  (t.queue key).head = (s.queue key).head + 1 ∧ (t.queue key).tries = 0 ∧ ∃ e, (t.queue key).pend = (s.queue key).pend ++ [e] ∧
    e.seq = fieldAt p 0 4 ∧ e.desc = fieldAt p 16 8 ∧ e.cevAddr = fieldAt p 24 8 ∧ e.runid = fieldAt p 104 4 ∧
    (e.ready = true ↔ e.waits = [])

/-- State after the slot's read. -/
def afterRead (s : State) (key : Nat) : State :=
  (vRead s (s.queue key).ctx ((s.queue key).base + 128 * ((s.queue key).head.toNat % (16 * 2^(s.queue key).size))) 128).1

/-- Slots of a core that a crew does not stand in. -/
def NotOn (t : State) (core crew : Nat) : Prop := (t.core core).slot0 ≠ crew ∧ (t.core core).slot1 ≠ crew

end Sys2Proof.Claims

/-! ### Queues -/

/-- KICK and REARM (12 R334), QUEUE_DRAIN and QUEUE_RESUME (10 R268, R270), QUEUE_ENABLE and QUEUE_DISABLE (12 R333), REGISTER_WRITE of the mailbox
(12 R325, R326), FETCH_SLOT, FETCH_RETRY and EVENT_WAIT_EVAL (12 R336, R337; 10 R271).
RESUME during a drain or after a device fault is the model's reading (log 25), as is what a write of less than the whole request leaves (log 28); the order
of arrival is a key of the model (log 2). An enable with a kick word in memory is left out. -/
def Obligations.QueueEvents : Prop :=
  (∀ (vd q val : Nat) (s : State), KickTaken s vd q val →
    let key := 64 * vd + q
    (val.testBit 63 = false → ∃ t, exec (.kick vd q val) s = .next t ∧ .fetchSlot (key / 64) (key % 64) ∈ t.due ∧
      ∀ k, t.queue k = if k = key then { s.queue key with tail := BitVec.ofNat 32 val } else s.queue k) ∧
    (val.testBit 63 = true → (s.queue key).kickFault = false → ∃ t, exec (.rearm vd q val) s = .next t ∧
      .fetchSlot (key / 64) (key % 64) ∈ t.due ∧
      ∀ k, t.queue k = if k = key then { s.queue key with tail := BitVec.ofNat 32 val, fault := 0 } else s.queue k)) ∧
  (∀ (vd q val : Nat) (s : State),
    let key := 64 * vd + q
    let x := s.queue key
    let y := { x with prio := val % 8, pw := if val / 2^8 % 2^8 = 0 then x.pw else val / 2^8 % 2^8 }
    (val.testBit 18 = true → val.testBit 19 = false → x.state = .running → ∃ t, exec (.queueDrain vd q val) s = .next t ∧
      ∀ k, t.queue k = if k = key then { y with state := if x.active = 0 ∧ x.pend = [] then .drained else .draining } else s.queue k) ∧
    (val.testBit 19 = true → val.testBit 18 = false → drainStands s (key / 64) = false → ∃ t, exec (.queueResume vd q val) s = .next t ∧
      ∀ k, t.queue k = if k = key then { y with state := .running } else s.queue k)) ∧
  (∀ (vd q val : Nat) (s : State),
    let key := 64 * vd + q
    let x := s.queue key
    let y := recordGives x val
    (s.vd (key / 64)).locked = false → val.testBit 79 = true → x.en = false → y.size ≤ 12 → y.base % 4096 = 0 → y.cbase % 4096 = 0 → y.kickva = 0 →
    (s.ctx y.ctx).used = true → (s.ctx y.ctx).vd = key / 64 → drainStands s (key / 64) = false →
    ∃ t, exec (.queueEnable vd q val) s = .next t ∧ .fetchSlot (key / 64) (key % 64) ∈ t.due ∧
      (∀ k, k ≠ key → t.queue k = s.queue k) ∧
        { t.queue key with waitPage := none, tries := 0 } =
          { y with en := true, head := 1, tail := 1, fault := 0, kickFault := false, kickPa := none, waitPage := none, tries := 0 }) ∧
  (∀ (vd q val : Nat) (s : State), (s.vd ((64 * vd + q) / 64)).locked = false → val.testBit 79 = false → (s.queue (64 * vd + q)).en = true →
    ∃ t, exec (.queueDisable vd q val) s = .next t ∧
      ∀ k, t.queue k = if k = 64 * vd + q then { s.queue (64 * vd + q) with en := false } else s.queue k) ∧
  (∀ (off size val : Nat) (s : State), off + size ≤ 64 →
    ∃ t, exec (.registerWrite 0 off size val) s = .next t ∧ { t with host := s.host } = s ∧
      (∀ i, i < 64 → t.host.req[i]?.getD 0 = if off ≤ i ∧ i < off + size then BitVec.ofNat 8 (val / 2^(8 * (i - off))) else s.host.req[i]?.getD 0) ∧
      t.host.req.length = 64 ∧ { t.host with req := [] } = { s.host with req := [] }) ∧
  (∀ (size val : Nat) (s : State), 0 < size → val % 2 = 1 → s.host.doorbell = false →
    ∃ t, exec (.registerWrite 0 0x40 size val) s = .next t ∧ t.host = { s.host with doorbell := true } ∧ mailEvent s ∈ t.due) ∧
  (∀ (vd q : Nat) (s : State) (p : List Byte), mayFetch s (64 * vd + q) = true → SlotGives s (64 * vd + q) p →
    ((s.queue (64 * vd + q)).tries = 0 → (s.queue (64 * vd + q)).state = .running →
      ∃ t, exec (.fetchSlot vd q) s = .next t ∧ Admitted (afterRead s (64 * vd + q)) t (64 * vd + q) p) ∧
    (0 < (s.queue (64 * vd + q)).tries →
      ∃ t, exec (.fetchRetry vd q) s = .next t ∧ Admitted (afterRead s (64 * vd + q)) t (64 * vd + q) p)) ∧
  (∀ (part key : Nat) (s u : State) (e : Pending), queuesOfPart s part = [key] → (s.queue key).pend = [e] → e.ready = false →
    (s.ctx (s.queue key).ctx).stop = none → pageWaits s (s.queue key).ctx e = false → evalWaits (s.queue key).ctx e.waits s = (u, .met) →
    ∃ t, exec (.eventWaitEval part) s = .next t ∧ .dispatch (s.ctx (s.queue key).ctx).part ∈ t.due ∧
      (t.queue key).pend = (u.queue key).pend.map fun x => if x.seq = e.seq then { x with ready := true, readyAt := u.key, page := none } else x)

/-! ### Runs and crews -/

/-- DISPATCH of a chosen run takes its places (10 R273, R277); CREW_START starts its cohorts (02 R39, R40); REGION_WRITEBACK and RUN_COMPLETE end
crews and runs (02 R66; 06 R188; 10 R272). The keys of runs and crews are the model's numbering (log 2). -/
def Obligations.RunEvents : Prop :=
  (∀ (part : Nat) (s : State) (c : DCand) (e : Pending) (run : Run) (proto : Crew) (b i : Nat) (l : List Pending),
    ordersOf s part = [] → bestCand (dispatchCands s part) = some c → c.isNew = true → (s.queue c.what).pend = e :: l → e.got = some (run, proto) →
    let places := placesOf s part run.foot
    places ≠ [] → (∀ p ∈ places, (freeSlot s p run.foot none).isSome) → freeRange s (s.queue c.what).ctx (places.length * imageSize run.foot) = some b →
    freeIndex s (s.queue c.what).ctx = some i →
    ∃ t, exec (.dispatch part) s = .next t ∧ (t.queue c.what).pend = l ∧ (t.queue c.what).active = (s.queue c.what).active + 1 ∧
      (t.run (s.fresh + 1)).live = true ∧ (t.run (s.fresh + 1)).id = e.runid ∧ (t.run (s.fresh + 1)).ctx = (s.queue c.what).ctx ∧
      (t.run (s.fresh + 1)).ncrew = places.length ∧ (t.run (s.fresh + 1)).base = b ∧
      ∀ j p, places[j]? = some p → ∃ k, (t.crew k).phase = .staging ∧ (t.crew k).run = s.fresh + 1 ∧ (t.crew k).num = j ∧ (t.crew k).core = p ∧
        .crewStart k ∈ t.due) ∧
  (∀ (k : Nat) (s : State) (row : Nat → Nat),
    let cr := s.crew k
    let r := s.run cr.run
    cr.phase = .staging → (s.ctx cr.ctx).stop = none → r.regions = [] → cr.foot ≠ .cluster → r.counts = [32, 0, 0, 0] →
    (∀ lane, lane < 32 → freeRow s cr cr.core 0 lane = some (row lane) ∧ row lane < 16) →
    ∃ t, exec (.crewStart k) s = .next t ∧ (t.crew k).phase = .running ∧
      (t.convoy (s.fresh + 1)).crew = k ∧ (t.convoy (s.fresh + 1)).pc = r.entries[0]?.getD 0 ∧ (t.convoy (s.fresh + 1)).whole = true ∧
      (t.convoy (s.fresh + 1)).members = (List.range 32).map (fun lane => (lane, row lane)) ∧
      ∀ lane, lane < 32 →
        let x := t.thread (tkey cr.core 0 lane (row lane))
        x.state = .inConvoy ∧ x.crew = k ∧ x.cohort = 0 ∧ x.stage = 0 ∧ (∀ n, x.reg n = 0) ∧ x.srseed = srSeed cr.seed lane 0 cr.num) ∧
  (∀ (k : Nat) (s : State), (s.crew k).phase = .writingBack → workDone s k = true → (s.ctx (s.crew k).ctx).stop = none → k ≠ 0 →
    (s.run (s.crew k).run).regions = [] →
    ∃ t, exec (.regionWriteback k) s = .next t ∧ ((t.crew k).phase = .ended ∨ (t.crew k).phase = .none) ∧ (∀ c ∈ (s.crew k).cores, NotOn t c k) ∧
      ((s.run (s.crew k).run).live = true → .runComplete (s.crew k).run ∈ t.due)) ∧
  (∀ (k : Nat) (s : State),
    let r := s.run k
    r.live = true → r.code = none → (∀ p ∈ s.crews, p.2.run = k → p.2.phase = .ended ∨ p.2.phase = .none) → r.cevAddr = 0 → r.ordered = false →
    ∃ t, exec (.runComplete k) s = .next t ∧ (t.run k).live = false ∧ (t.run k).code = some 0 ∧
      (t.queue (64 * r.vd + r.queue)).active = (s.queue (64 * r.vd + r.queue)).active - 1 ∧ .dispatch r.part ∈ t.due)

/-- STREAM_OUT and STREAM_IN move a crew out of and into slots (10 R278–R281); RESELECT and RESIDENCY_TIMEOUT choose what runs (09 R254; 10 R278);
LEASE_ANSWER grants (09 R250). -/
def Obligations.ResidencyEvents : Prop :=
  (∀ (k : Nat) (s : State), (s.crew k).phase = .running ∨ (s.crew k).phase = .staging →
    ∃ t, exec (.streamOut k) s = .next t ∧ t.crew k = { s.crew k with phase := .leaving } ∧ .streamOut k ∈ t.due ∧
      (∀ j ∈ t.issue, (s.convoy j).crew ≠ k) ∧ (∀ x, t.thread x = s.thread x)) ∧
  (∀ (k : Nat) (s : State), (s.crew k).phase = .leaving → (s.ctx (s.crew k).ctx).stop = none → drained s k = true → k ≠ 0 →
    (∀ c ∈ (s.crew k).cores, (s.lease c (s.crew k).ctx).asked = false) →
    ∃ t, exec (.streamOut k) s = .next t ∧ (t.crew k).phase = .saved ∧ ∀ c ∈ (s.crew k).cores, NotOn t c k) ∧
  (∀ (k core slot : Nat) (s : State), (s.crew k).phase = .saved → (s.ctx (s.crew k).ctx).stop = none → offers s k core slot = true → slot < 2 →
    ∃ t, exec (.streamIn k core slot) s = .next t ∧ (t.crew k).core = core ∧ ((t.crew k).phase = .running ∨ (t.crew k).phase = .staging) ∧
      (t.core core).crewAt slot = k) ∧
  (∀ (core : Nat) (s : State),
    let c := s.core core
    let same := c.crewAt c.running ≠ 0 ∧ c.crewAt (1 - c.running) ≠ 0 ∧ (s.crew (c.crewAt c.running)).ctx = (s.crew (c.crewAt (1 - c.running))).ctx
    ¬same → eligible s core (1 - c.running) = true → eligible s core c.running = false →
    ∃ t, exec (.reselect core) s = .next t ∧ (t.core core).running = 1 - c.running ∧ (t.core core).selected = s.cycle core) ∧
  (∀ (core n : Nat) (s : State), s.resident core n = true → waiterFor s (s.ctx n).part core n (residentPrio s core n) = true →
    ∃ t, exec (.residencyTimeout core n) s = .next t ∧ { t with due := [] } = { s with due := [] } ∧
      ∀ k ∈ s.crewsOf n, core ∈ (s.crew k).cores → .streamOut k ∈ t.due) ∧
  (∀ (core n : Nat) (s : State),
    let l := s.lease core n
    let x := s.ctx n
    let g : Int := if x.cap = 0 then 0 else max 0 (min x.level 0x1000000)
    l.asked = true → s.resident core n = true →
    ∃ t, exec (.leaseAnswer core n) s = .next t ∧ t.lease core n = { rem := l.rem + g, asked := false, refused := decide (g = 0) } ∧
      t.ctx n = { x with level := x.level - g })

namespace Sys2Proof.Claims

/-! ### Energy, refresh, seals -/

/-- CF after an interval (09 R245): scaled by M ÷ E, rounded to nearest, within 0x0800 and 0x2000. -/
def nextCf (cf e m : Nat) : Nat := max 0x800 (min 0x2000 ((2 * cf * m + e) / (2 * e)))

/-- A queue's deficit at the end of a window in which the limit binds (09 R260). -/
def risen (s : State) (k : Nat) : Nat := (s.queue k).deficit + (s.queue k).energy * 256 / (s.queue k).pw

/-- Dispatch from queue j is paused before that from queue k: the larger deficit, then the lower PW, then the higher number (09 R260). -/
def pausesFirst (s : State) (j k : Nat) : Bool :=
  decide (risen s k < risen s j ∨ risen s k = risen s j ∧ ((s.queue j).pw < (s.queue k).pw ∨ (s.queue j).pw = (s.queue k).pw ∧ k < j))

/-- The island whose limit point is lowered (09 R258 item 3): of the partition whose queues hold the largest deficit, the lowest-numbered at the highest
point. -/
def LimitFalls (s : State) (isl : Nat) : Prop :=
  ∃ p k, (s.part p).used = true ∧ k ∈ queuesOfPart s p ∧ 0 < (s.queue k).deficit ∧
    (∀ x ∈ s.parts, x.2.used = true → x.1 ≠ p → ∀ j ∈ queuesOfPart s x.1, (s.queue j).deficit < (s.queue k).deficit) ∧
    (s.part p).clusters.Pairwise (· < ·) ∧ isl ∈ (s.part p).clusters ∧ s.clocked isl = true ∧
    ∀ c ∈ (s.part p).clusters, s.clocked c = true → (s.island c).cur < (s.island isl).cur ∨ (s.island c).cur = (s.island isl).cur ∧ isl ≤ c

/-- A demand as the rack takes it (09 R263). -/
def demandOf (d : Nat) : Nat := max 1200 (min 3000 d)

/-- The tile and slot of a reseal's next step, in a state where its work is a fill and a write-back (11 R306). -/
abbrev ResealsNext (s : State) (slot slice l : Nat) : Prop :=
  (s.keySlot slot).reseal = true ∧ slice ∉ (s.keySlot slot).doneSlices ∧ nextLocal s slot slice (Tab.get 0 (s.keySlot slot).cursor slice) = some l ∧
    s.mscTile? (tileAt slice l) = none ∧ fillCheck s (tileAt slice l) = .ok ∧ isMetaTile (tileAt slice l) = false ∧
    s.slotOfTile (tileAt slice l) = slot ∧ (s.tileMeta (tileAt slice l)).gen ≠ (s.keySlot slot).cur

/-- Bank n of a pseudo-channel is free in a controller cycle. -/
abbrev BankFree (p : PChan) (bank cycle : Nat) : Prop := Tab.get 0 p.bankFree bank ≤ cycle

/-- First cycle from which a pseudo-channel with nothing queued or in flight is idle (11 R316). -/
def idleStart (p : PChan) : Nat := match p.lastBusy with | some b => b + 512 | none => 0

/-- No request queued or in flight for the past 512 cycles (11 R316). -/
abbrev Idle (p : PChan) (cycle : Nat) : Prop := p.queue = [] ∧ p.active = [] ∧ idleStart p ≤ cycle

/-- A pseudo-channel in which no transfer, no REFab and no REFpb of an earlier due event is outstanding in a cycle. -/
abbrev Settled (p : PChan) (cycle : Nat) : Prop := p.pending = [] ∧ p.refab = none ∧ ∀ a ∈ p.active, cycle < a.2

/-- The events of a controller that say what refresh does up to a cycle. -/
def refreshEvents (pc cycle : Nat) : List Instr :=
  [.refreshDue pc cycle, .pseudoChannelIdle pc cycle, .refpbIssue pc cycle, .refabIssue pc cycle, .refabEnd pc cycle]

end Sys2Proof.Claims

/-! ### Energy and power -/

/-- CORRECT settles a domain's interval (09 R245): with no charge the measured energy is the idle account's; with one account's charges the whole
residual is its; CF follows M ÷ E, and an island then applies the sustained limit (01 R26). POOL_TABLE_WRITE (08 R218), BUDGET_WINDOW (09 R259), POINT_REQUEST, POINT_CHANGE_COMPLETE (09 R256, R257).
Steps that R255, R258 and R261 leave open follow log 4, 21 and 38; where an interval stands in the model's cycles and what is read of it within is log 76,
that waiting requests are tried again in the next window is log 12, and that a CORRECT at another time does nothing is log 15. -/
def Obligations.EnergyEvents : Prop :=
  (∀ (dom m : Nat) (s : State), (∀ p ∈ s.ctxs, p.2.destroyed = false) →
    (dom < 256 ∧ (s.dom dom).count = 65535 ∨ 256 ≤ dom ∧ dom < 288 ∧ s.msc.cycle % 65536 = 65535) →
    let x := s.dom dom
    let y (t : State) (cf : Nat) (before : List Nat) : Prop :=
      t.dom dom = { x with cf, e := 0, part := [], integral := x.integral + (m - x.read), read := 0, before } ∧
        (dom < 256 → (t.island dom).inForce = s.power.suslim)
    (x.e = 0 → ∃ t, exec (.correct dom m) s = .next t ∧ y t x.cf (x.part.map (·.1)) ∧
      ∀ a, t.acct a = if a = idleAccount s dom then { s.acct a with acct := (s.acct a).acct + m } else s.acct a) ∧
    (∀ a, x.part = [(a, x.e)] → 0 < x.e → ∃ t, exec (.correct dom m) s = .next t ∧ y t (nextCf x.cf x.e m) [a] ∧
      (a < 0x10000 → (t.ctx a).level = (s.ctx a).level - ((m : Int) - x.e)) ∧
      ∀ b, t.acct b = if b = a then { s.acct a with acct := (s.acct a).acct + ((m : Int) - x.e), meas := (s.acct a).meas + m } else s.acct b)) ∧
  (∀ (dom m : Nat) (s : State), (dom < 256 → (s.dom dom).count ≠ 65535) → (256 ≤ dom → s.msc.cycle % 65536 ≠ 65535) →
    exec (.correct dom m) s = .next s) ∧
  (∀ (c p v : Nat) (s : State), ∃ t, exec (.poolTableWrite c p v) s = .next t ∧
    (∀ n, (t.island c).poolEntry n = if n = p % 16 then v % 256 else (s.island c).poolEntry n) ∧ ∀ k, k ≠ c → t.island k = s.island k) ∧
  (∀ (slice : Nat) (s : State), ∃ t, exec (.budgetWindow slice) s = .next t ∧
    (∀ k, Tab.get 0 t.msc.used k = if k / 256 = slice then 0 else Tab.get 0 s.msc.used k) ∧
    (∀ r ∈ s.flight.reqs, r.id ∈ Tab.get [] s.msc.waiting slice → .mscServe r.id ∈ t.due) ∧ Tab.get [] t.msc.waiting slice = []) ∧
  (∀ (vd cluster val p : Nat) (s : State), (s.vd vd).part = some p → cluster ∈ (s.part p).clusters → (s.island cluster).allow.getLsbD (val % 16) = true →
    let i := s.island cluster
    let aim := ({ i with req := val % 16 } : Island).target
    ∃ t, exec (.pointRequest vd cluster val) s = .next t ∧ (t.island cluster).req = val % 16 ∧ (t.island cluster).cur = i.cur ∧
      (i.changing = false → aim ≠ i.cur → (t.island cluster).changing = true ∧ (t.island cluster).goal = aim ∧ .pointChangeComplete cluster ∈ t.due ∧
        (t.island cluster).rail = if i.cur < aim then pointRail aim else i.rail) ∧
      ∀ k, k ≠ cluster → t.island k = s.island k) ∧
  (∀ (isl : Nat) (s : State), (s.island isl).changing = true →
    let i := s.island isl
    ∃ t, exec (.pointChangeComplete isl) s = .next t ∧ (t.island isl).cur = i.goal ∧
      (i.goal < i.cur → t.island isl = { i with cur := i.goal } ∧ .pointChangeComplete isl ∈ t.due) ∧
      (i.goal = i.cur → (t.island isl).changing = false → (t.island isl).rail = pointRail i.goal) ∧
      ((t.island isl).changing = false → (t.island isl).target = (t.island isl).cur) ∧ ∀ k, k ≠ isl → t.island k = s.island k)

/-- LIMIT_BIND_CHANGE, POOL_HALVE, POOL_RESTORE (09 R258), DISPATCH_WINDOW (09 R260), PLOBRIT_EPOCH, BUDGET_MESSAGE, SILENT_MEMBER (09
R263–R265). Steps that R258 and R259 leave open follow log 38; the limit that holds while the islands' limits differ is log 75. -/
def Obligations.LimitEvents : Prop :=
  (∀ (watts : Nat) (s : State), ∃ t, exec (.limitBindChange watts) s = .next t ∧
    let binds := decide (97 * limitInForce s < 100 * watts)
    t.power = { s.power with binding := binds, bound := s.power.bound || binds, watts } ∧
    (100 * watts ≤ 97 * limitInForce s → t.msc.budgets = [] ∧ ∀ c, (t.island c).limit = 15)) ∧
  (∀ (watts : Nat) (s : State), 3400 < watts → s.power.halved = false →
    ∃ t, exec (.poolHalve watts) s = .next t ∧ t.power.halved = true ∧
      ∀ c, c < 256 → (t.island c).cur = (s.island c).cur ∧
        ∀ p, (t.island c).poolEntry p = if p = (s.island c).cur then (s.island c).poolEntry p / 2 else (s.island c).poolEntry p) ∧
  (∀ (watts : Nat) (s : State), watts < 3200 → s.power.halved = true →
    ∃ t, exec (.poolRestore watts) s = .next t ∧ t.power.halved = false ∧
      ∀ c p v, c < 256 → (s.island c).halved = some (p, v) → (t.island c).halved = none ∧
        ∀ n, (t.island c).poolEntry n = if n = p then v else (s.island c).poolEntry n) ∧
  (∀ (watts slice key : Nat) (s : State), 97 * limitInForce s < 100 * watts → slice < 16 → key / 256 = slice → (s.msc.lastUsed.map (·.1)).Nodup →
    Tab.get 0 s.msc.lastUsed key ≠ 0 → (∀ k, k / 256 = slice → k ≠ key → Tab.get 0 s.msc.lastUsed k < Tab.get 0 s.msc.lastUsed key) →
    ∃ t, exec (.limitBindChange watts) s = .next t ∧
      (Tab.get 0xFFFF s.msc.budgets key ≠ 0 → (Tab.get 0xFFFF t.msc.budgets key : Nat) < Tab.get 0xFFFF s.msc.budgets key) ∧
      ∀ k, k / 256 = slice → k ≠ key → (Tab.get 0xFFFF t.msc.budgets k : Nat) = Tab.get 0xFFFF s.msc.budgets k) ∧
  (∀ (isl m : Nat) (s : State), isl < 256 → (s.dom isl).count = 65535 → s.power.binding = true → s.power.windows ≠ 0 → LimitFalls s isl →
    ∃ t, exec (.correct isl m) s = .next t ∧ (t.island isl).limit = (s.island isl).limit - 1) ∧
  (∀ (isl m : Nat) (s : State), isl < 256 → (s.dom isl).count = 65535 → s.power.binding = false ∨ s.power.windows = 0 →
    ∃ t, exec (.correct isl m) s = .next t ∧ (t.island isl).limit = (s.island isl).limit) ∧
  (∀ s : State, (s.power.bound = false → ∃ t, exec .dispatchWindow s = .next t ∧ t.power = { s.power with windows := 0 } ∧
      ∀ k, t.queue k = { s.queue k with deficit := 0, energy := 0, paused := false }) ∧
    (s.power.bound = true → ∃ t, exec .dispatchWindow s = .next t ∧ t.power = { s.power with windows := s.power.windows + 1, bound := s.power.binding } ∧
      ∀ k, { t.queue k with paused := false } = { s.queue k with paused := false, deficit := risen s k, energy := 0 })) ∧
  (∀ s : State, s.power.bound = true → (s.queues.map (·.1)).Nodup → ∃ t, exec .dispatchWindow s = .next t ∧
    let l := (s.queues.map (·.1)).filter fun k => (s.ctx (s.queue k).ctx).used
    ∀ k ∈ s.queues.map (·.1),
      ((t.queue k).paused = true ↔ k ∈ l ∧ (l.filter fun j => pausesFirst s j k).length < min (s.power.windows + 1) (l.length - 1))) ∧
  (∀ (demand : Nat) (s : State), ∃ t, exec (.plobritEpoch demand) s = .next t ∧ t.power.epoch = s.power.epoch + 1 ∧
    t.power.demand = demandOf demand ∧
    (∀ n r, s.power.nextRack = some (n, r) → n ≤ s.power.epoch + 1 → t.power.rack = r ∧ t.power.nextRack = none) ∧
    (s.power.nextRack = none → t.power.rack = s.power.rack) ∧
    (s.power.rack.cap = 0 → t.fabric = s.fabric ∧ (s.power.nextRack = none → t.power.suslim = s.power.suslim))) ∧
  (∀ (demand pkg d w : Nat) (m : Member) (s : State), s.power.nextRack = none → s.power.conservative = false → s.power.members = [(pkg, m)] →
    m.upTo s.power.epoch = some { epoch := s.power.epoch, demand := d, weight := w } →
    let p := s.power
    ∃ t, exec (.plobritEpoch demand) s = .next t ∧
      (0 < p.rack.cap → p.rack.cap < 2400 → t.power.suslim = 1200 ∧ t.power.undersized = true) ∧
      (2400 ≤ p.rack.cap → p.demand + d ≤ p.rack.cap → 1200 ≤ p.demand → 1200 ≤ d → 0 < p.rack.weight → 0 < w →
        t.power.suslim = p.demand / 25 * 25 ∧ t.power.undersized = false)) ∧
  (∀ (pkg epoch demand weight : Nat) (s : State), 0 < weight → (∀ b ∈ (Tab.get {} s.power.members pkg : Member).msgs, b.epoch ≤ epoch) →
    ∃ t, exec (.budgetMessage pkg epoch demand weight s.power.rack.group) s = .next t ∧ pkg ∉ t.power.silent ∧
      (Tab.get {} t.power.members pkg : Member).upTo epoch = some { epoch, demand := demandOf demand, weight } ∧
      ∀ n, n ≠ pkg → (Tab.get {} t.power.members n : Member) = Tab.get {} s.power.members n) ∧
  (∀ (pkg epoch demand weight group : Nat) (s : State), group ≠ s.power.rack.group → exec (.budgetMessage pkg epoch demand weight group) s = .next s) ∧
  (∀ (pkg : Nat) (m : Member) (b : Budget) (s : State), s.power.members = [(pkg, m)] → m.upTo s.power.epoch = some b → 3 ≤ m.missed →
    s.power.rack.cap ≠ 0 →
    let p := s.power
    ∃ t, exec (.silentMember pkg) s = .next t ∧ pkg ∈ t.power.silent ∧ t.power.conservative = true ∧
      t.power.suslim = max 1200 (min (if p.alloc = 0 then p.suslim else p.alloc) (p.rack.cap * p.rack.weight / (p.rack.weight + b.weight) / 25 * 25)))

/-! ### HBM4E -/

/-- Transfers and refreshes of a pseudo-channel (11 R314–R316): an activate of the oldest transfer whose bank is free; due events every 341 cycles, idle or
busy; a forced REFab; owed refreshes once the pseudo-channel is idle; the end of a REFab. A controller's cycle is an argument of its events, and every
event brings the refresh of its pseudo-channel up to that cycle (log 41); a forced refresh counts when it issues (log 43). -/
def Obligations.RefreshEvents : Prop :=
  (∀ (pc cycle : Nat) (x : Transfer) (s : State),
    let p := (s.pchan pc).reach cycle
    let free := cycle + (if x.write then 124 else 104)
    p.post ≠ 8 → p.refab = none → p.busFree ≤ cycle + 40 → p.queue.find? (fun y => decide (Tab.get 0 p.bankFree (bankOf y.tile) ≤ cycle)) = some x →
    ∃ t, exec (.transferActivate pc cycle) s = .next t ∧ (∀ k, k ≠ pc → t.pchan k = s.pchan k) ∧
      (t.pchan pc).queue = p.queue.erase x ∧ (t.pchan pc).busFree = cycle + 104 ∧ (t.pchan pc).active = p.active ++ [(x.tile, free)] ∧
      (t.pchan pc).lastBusy = some cycle ∧ ∀ b, Tab.get 0 (t.pchan pc).bankFree b = if b = bankOf x.tile then free else Tab.get 0 p.bankFree b) ∧
  (∀ (pc bank cycle : Nat) (a : Nat × Nat) (s : State), (s.pchan pc).active.find? (fun x => bankOf x.1 == bank && decide (x.2 ≤ cycle)) = some a →
    ∃ t, exec (.tileTransferComplete pc bank cycle) s = .next t ∧
      t.pchan pc = { s.pchan pc with active := (s.pchan pc).active.erase a, lastBusy := some (max ((s.pchan pc).lastBusy.getD 0) a.2) }) ∧
  (∀ (pc : Nat) (s : State),
    let p := s.pchan pc
    let due := p.lastDue + 341
    Settled p due → ∀ i ∈ refreshEvents pc due,
    (¬Idle p due → p.post < 7 → ∃ t, exec i s = .next t ∧ t.pchan pc = { p with lastDue := due, post := p.post + 1 }) ∧
    (¬Idle p due → p.post = 7 → p.active ≠ [] → ∃ t, exec i s = .next t ∧ t.pchan pc = { p with lastDue := due, post := 8, rose := due }) ∧
    (¬Idle p due → p.post = 7 → p.active = [] → (∀ b, b < 16 → BankFree p b due) →
      ∃ t, exec i s = .next t ∧ (t.pchan pc).post = 0 ∧ (t.pchan pc).forced = p.forced + 1 ∧ (t.pchan pc).refab = some (due + 490) ∧
        ∀ b, b < 16 → Tab.get 0 (t.pchan pc).bankFree b = due + 490) ∧
    (Idle p due → p.post = 0 → BankFree p p.next due → ∃ t, exec i s = .next t ∧ (t.pchan pc).pending = [] ∧ (t.pchan pc).post = 0 ∧
      (t.pchan pc).next = (p.next + 1) % 16 ∧ ∀ b, Tab.get 0 (t.pchan pc).bankFree b = if b = p.next then due + 224 else Tab.get 0 p.bankFree b) ∧
    (Idle p due → p.post = 0 → ¬BankFree p p.next due → ∃ t, exec i s = .next t ∧ t.pchan pc = { p with lastDue := due, pending := [due] })) ∧
  (∀ (pc cycle : Nat) (s : State),
    let p := s.pchan pc
    let first := max (idleStart p) (Tab.get 0 p.bankFree p.next)
    cycle < p.lastDue + 341 → Settled p cycle → Idle p cycle → 0 < p.post → p.post < 8 → p.next < 16 → first ≤ cycle → ∀ i ∈ refreshEvents pc cycle,
    ∃ t, exec i s = .next t ∧ (t.pchan pc).post < p.post ∧ Tab.get 0 (t.pchan pc).bankFree p.next = first + 224 ∧ (t.pchan pc).forced = p.forced) ∧
  (∀ (pc cycle e : Nat) (s : State),
    let p := s.pchan pc
    p.refab = some e → e ≤ cycle → cycle < p.lastDue + 341 → p.pending = [] → p.post = 0 → (∀ a ∈ p.active, cycle < a.2) →
    ∀ i ∈ refreshEvents pc cycle, ∃ t, exec i s = .next t ∧ t.pchan pc = { p with refab := none }) ∧
  (∀ (pc cycle e : Nat) (s : State),
    let p := s.pchan pc
    p.refab = some e → cycle < e → cycle < p.lastDue + 341 → (∀ a ∈ p.active, cycle < a.2) →
    ∀ i ∈ refreshEvents pc cycle, ∃ t, exec i s = .next t ∧ t.pchan pc = p)

/-! ### Seals, scrubs, retirement -/

/-- Reseal steps and their end (11 R306), patrol scrubs (11 R319) of a slice's tiles (06 R151), the soft-error window (11 R318), retirement of clusters (01 R16; 12 R330) and frames
(11 R311, R318), and the wear monitors (11 R320). When a frame is named and retired follows log 44. -/
def Obligations.SealingEvents : Prop :=
  (∀ (slot slice l : Nat) (s : State), ResealsNext s slot slice l →
    ∃ t, exec (.resealTile slot slice) s = .next t ∧ t.tileMeta (tileAt slice l) = { version := 0, gen := (s.keySlot slot).cur } ∧
      Tab.get 0 (t.keySlot slot).cursor slice = l + 1 ∧ .resealTile slot slice ∈ t.due ∧
      (∀ b, b / 2048 ≠ tileAt slice l ∨ (s.tileMeta (tileAt slice l)).raw = none → Tab.get 0 t.mem b = Tab.get 0 s.mem b)) ∧
  (∀ (slot slice : Nat) (s : State), (s.keySlot slot).reseal = true → slice ∉ (s.keySlot slot).doneSlices →
    nextLocal s slot slice (Tab.get 0 (s.keySlot slot).cursor slice) = none →
    ∃ t, exec (.resealTile slot slice) s = .next t ∧ t.keySlot slot = { s.keySlot slot with doneSlices := (s.keySlot slot).doneSlices ++ [slice] } ∧
      ((s.keySlot slot).doneSlices.length = 15 → .resealEnd slot ∈ t.due)) ∧
  (∀ (slot : Nat) (s : State), (s.keySlot slot).reseal = true → (s.keySlot slot).doneSlices.length = 16 → (∀ p ∈ s.msc.tiles, p.2.stalled = false) →
    ∃ t, exec (.resealEnd slot) s = .next t ∧ (t.keySlot slot).prev = none ∧ (t.keySlot slot).reseal = false ∧
      (t.keySlot slot).cur = (s.keySlot slot).cur) ∧
  (∀ (slice : Nat) (s : State), ∃ t, exec (.scrubPassStart slice) s = .next t ∧
    ∀ k, (Tab.get {} t.scrub k : Scrub) = if k = slice then { on := true, next := 0 } else Tab.get {} s.scrub k) ∧
  (∀ (slice : Nat) (s : State),
    let p : Scrub := Tab.get {} s.scrub slice
    let x := tileAt slice p.next
    p.on = true → (s.tileMeta x).errs = [] → x / 2 < 2^40 → s.poisoned x = false →
    (∃ t, exec (.scrubTile slice 0) s = .next t ∧ (Tab.get {} t.scrub slice : Scrub).next = p.next + 1 ∧ t.sealing = s.sealing ∧ t.mem = s.mem) ∧
    (∃ t, exec (.scrubTile slice 1) s = .next t ∧ (Tab.get {} t.scrub slice : Scrub).next = p.next + 1 ∧ t.mem = s.mem ∧
      Tab.get 0 t.sealing.corrBursts (homeSlice x) = Tab.get 0 s.sealing.corrBursts (homeSlice x) + 1 ∧
      Tab.get 0 t.sealing.corrected (x / 2) = Tab.get 0 s.sealing.corrected (x / 2) + 1) ∧
    (s.mscTile? x = none → (s.sealing.poison.filter fun q => homeSlice q.1 == homeSlice x).length < 4096 →
      ∃ t, exec (.scrubTile slice 2) s = .next t ∧ (Tab.get {} t.scrub slice : Scrub).next = p.next + 1 ∧
        (t.poisonOf x).incident = s.sealing.incidents + 1 ∧ t.sealing.incidents = s.sealing.incidents + 1 ∧
        ((s.ownerOf (x / 2)).owner = 0 → t.host.failed = true))) ∧
  (∀ (slice l : Nat), slice < 16 → l < 2^28 → homeSlice (tileAt slice l) = slice ∧ localTile (tileAt slice l) = l) ∧
  (∀ s : State, ∃ t, exec .softErrorWindow s = .next t ∧
    t.sealing = { s.sealing with window := s.sealing.window + 1, corrected := [], corrBursts := [], uncorrEvents := [] } ∧ ∀ c, (t.island c).corr = 0) ∧
  (∀ (c : Nat) (s : State), (s.island c).state = .marked → (∀ k, k = 2 * c ∨ k = 2 * c + 1 → (s.core k).slot0 = 0 ∧ (s.core k).slot1 = 0) →
    ∃ t, exec (.clusterRetire c) s = .next t ∧ (t.island c).state = .retired ∧ (t.island c).pool = 0 ∧ (t.island c).bins = List.replicate 10 0 ∧
      ∀ k, k ≠ c → t.island k = s.island k) ∧
  (∀ (c hours : Nat) (s : State),
    ∃ t, exec (.wearMonitorUpdate c hours) s = .next t ∧ (t.island c).life = hours % 2^32 ∧
      (hours % 2^32 < 168 → (s.island c).state = .enabled → (t.island c).state = .marked ∧ .clusterRetire c ∈ t.due)) ∧
  (∀ (f : Nat) (s : State), (s.poisoned (2 * f) = true ∨ s.poisoned (2 * f + 1) = true ∨ f ∈ s.sealing.migrate) →
    frameInFlight s f = false →
    ∃ t, exec (.poisonedFrameRetire f) s = .next t ∧ (t.ownerOf f).owner = 0 ∧ f ∈ t.sealing.retired ∧
      t.poisoned (2 * f) = false ∧ t.poisoned (2 * f + 1) = false ∧ f ∉ t.sealing.migrate)

namespace Sys2Proof.Claims

/-! ### The host, security, fabric -/

/-- The mailbox holds event i's command, not malformed, and none of its reasons applies (12 R326). -/
abbrev Asks (s : State) (i : Instr) (used : List (Nat × Nat)) (reasons : List (Bool × Nat)) : Prop :=
  s.host.doorbell = true ∧ mailEvent s = i ∧ mailMalformed s used = false ∧ firstReason reasons = none

/-- The request's field of n bytes at byte `lo`. -/
def ask (s : State) (lo n : Nat) : Nat := reqField s lo n

/-- The command was carried out: STATUS 0 with the tag, the result padded with zeros, the doorbell clear (12 R326). -/
def Answered (s t : State) (result : List Byte) : Prop :=
  t.host.doorbell = false ∧ t.host.status = BitVec.ofNat 64 (2^16 * ask s 2 2) ∧ t.host.result = sized 56 result

/-- The command was refused with a reason, and nothing else changed (12 R326). -/
def Refused (s t : State) (reason : Nat) : Prop :=
  { t with host := s.host } = s ∧ t.host = { s.host with doorbell := false, status := BitVec.ofNat 64 (1 + 2^16 * ask s 2 2 + 2^32 * reason),
                                                         result := List.replicate 56 0 }

/-- No new context may have the number: one has it, or its account is still open (12 R328). -/
def taken (s : State) (n : Nat) : Bool := (s.ctx n).used || (s.ctx n).destroyed

/-- What speaks against a context record, lowest reason first; `new` for a create (10 R266; 12 R328). -/
def againstRecord (s : State) (new : Bool) : List (Bool × Nat) :=
  let n := ask s 4 4
  let save := ask s 16 8
  let last := save + 4096 * ask s 24 3
  let vd := ask s 27 1
  let part := (s.vd vd).part
  let cs := (s.part (part.getD 0)).clusters
  [(decide (ask s 8 8 % 4096 ≠ 0 ∨ 2^52 ≤ ask s 8 8 ∨ save % 4096 ≠ 0 ∨ ask s 24 3 < 9 ∨ 63 < vd ∨ 1 < ask s 28 1), 1),
   (decide (0x013D80000000 < last) || (s.sealing.owners.any fun f => decide (save / 4096 ≤ f.1 ∧ f.1 < last / 4096 ∧ f.2.owner ≠ 0)) ||
      part.isNone ||
      (ask s 28 1 == 1 && !cs.any fun c => decide (c % 4 = 0 ∧ c + 1 ∈ cs ∧ c + 2 ∈ cs ∧ c + 3 ∈ cs)) ||
      (!new && (s.ctx n).used && s.cores.any fun c => s.resident c.1 n), 2),
   (decide (new = false ∧ ((s.ctx n).used = false ∨ (s.ctx n).vd ≠ vd)), 3),
   (new && (List.range 65535).all fun i => taken s (i + 1), 4)]

/-- What speaks against a verdict on a page (12 R327). -/
def againstPage (s : State) : List (Bool × Nat) :=
  [(decide (ask s 8 8 % 4096 ≠ 0 ∨ 1 < ask s 16 1), 1), (!(s.ctx (ask s 4 4)).used, 3)]

/-- What speaks against command 0x03 (12 R327): SHARE 0, a CAP above 2^62. -/
def againstBucket (s : State) : List (Bool × Nat) :=
  [(decide (3 < ask s 8 1 ∨ (ask s 8 1).testBit 0 = true ∧ 2^62 < ask s 16 8 ∨ (ask s 8 1).testBit 1 = true ∧ ask s 24 1 = 0), 1),
   (!(s.ctx (ask s 4 4)).used, 3)]

/-- What speaks against a meter record (12 R327). -/
def againstRecordRequest (s : State) : List (Bool × Nat) :=
  [(decide (ask s 16 8 % 64 ≠ 0 ∨ 2^48 ≤ ask s 16 8 ∨ ask s 4 4 = 0xFFFFFFFF ∧ (2 < ask s 8 1 ∨ ask s 8 1 ≠ 2 ∧ 63 < ask s 9 1)), 1),
   (decide (ask s 4 4 ≠ 0xFFFFFFFF ∧ (s.ctx (ask s 4 4)).used = false ∨
      ask s 4 4 = 0xFFFFFFFF ∧ ask s 8 1 = 1 ∧ (s.part (ask s 9 1)).used = false), 3)]

/-- Parameters and reasons of the commands that do nothing where they are refused. -/
def commandForm (s : State) : Instr → Option (List (Nat × Nat) × List (Bool × Nat))
  | .contextCreate => some (recordParams, againstRecord s true)
  | .contextRewrite => some (recordParams, againstRecord s false)
  | .contextDestroy => some ([(4, 4)], [((s.ctx (ask s 4 4)).used && contextBusy s (ask s 4 4), 2), (!(s.ctx (ask s 4 4)).used, 3)])
  | .bucketDeposit => some ([(4, 12)], [(decide (ask s 8 8 = 0 ∨ 2^62 < ask s 8 8), 1), (!(s.ctx (ask s 4 4)).used, 3)])
  | .bucketCapWrite => some (bucketParams, againstBucket s)
  | .bucketShareWrite => some (bucketParams, againstBucket s)
  | .bucketRead => some (bucketParams, againstBucket s)
  | .meterRecordRequest => some ([(4, 6), (12, 12)], againstRecordRequest s)
  | .streamOutOrder => some ([(4, 6)], [(decide (511 < ask s 8 2 ∧ ask s 8 2 ≠ 0xFFFF), 1), (!(s.ctx (ask s 4 4)).used, 3)])
  | .setAllow => some ([(4, 4)], [(decide (255 < ask s 4 2) || decide (ask s 6 2 = 0), 1)])
  | .vdDrainSet => some (drainParams, drainReasons s)
  | .vdDrainClear => some (drainParams, drainReasons s)
  | .deviceDrainSet => some (drainParams, drainReasons s)
  | .deviceDrainClear => some (drainParams, drainReasons s)
  | .pageResume => some (pageParams, againstPage s)
  | .pageInvalid => some (pageParams, againstPage s)
  | .vdAttach => some ([(4, 2)], attachReasons s true)
  | .vdDetach => some ([(4, 2)], attachReasons s false)
  | .eventRingEnable => some (ringParams, ringReasons s)
  | .eventRingDisable => some (ringParams, ringReasons s)
  | _ => none

/-- An event with this body has been written to the event ring's next slot, if that is free, else it is kept, where no other event is (12 R329). -/
def EventWritten (s t : State) (type : Nat) (body : List Byte) : Prop :=
  let h := s.host
  let seq := h.evSeq + 1
  let slot := seq % (16 * 2^h.ringSize)
  let a := hostPa (h.ringBase + 256 * slot)
  if h.ringOn = true ∧ Tab.get 0 h.slots slot ≤ h.evack then
    t.host.kept = [] ∧ t.host.evSeq = seq ∧ t.host.msix = (if h.evSeq ≤ h.evack then (0, h.ringVector) :: h.msix else h.msix) ∧
      lineAt t a 8 = seq % 2^32 + 2^32 * type ∧ lineAt t (a + 8) 8 = h.uptime % 2^64 ∧
      (∀ i, i < 240 → Tab.get 0 t.mem (a + 16 + i) = body[i]?.getD 0) ∧ ∀ b, b < a ∨ a + 256 ≤ b → Tab.get 0 t.mem b = Tab.get 0 s.mem b
  else
    t.host.kept = [{ type, time := h.uptime, body }] ∧ t.host.evSeq = h.evSeq ∧ ∀ b, Tab.get 0 t.mem b = Tab.get 0 s.mem b

/-- The record of a fault with no core, crew, thread or address: code, FLAGS bit 1, VD and context (10 R287). -/
def loneFault (code n vd : Nat) : List Byte :=
  leBytes code 2 ++ leBytes 2 2 ++ leBytes vd 2 ++ leBytes 0xFFFF 2 ++ leBytes n 4 ++ leBytes 0 4 ++ List.replicate 8 0xFF ++ List.replicate 40 0

/-- Memory after n bytes of `val` are written at `a`. -/
def written (s : State) (a n val b : Nat) : Byte :=
  if a ≤ b ∧ b < a + n then BitVec.ofNat 8 (val / 2^(8 * (b - a))) else Tab.get 0 s.mem b

end Sys2Proof.Claims

/-! ### The mailbox -/

/-- Commands of the PF mailbox about contexts (12 R326–R328; 09 R247–R249, R261; 10 R266, R282; 06 R186, R187): what each does where it is not
refused, and the answer to one that is, with the lowest reason that applies. Reasons that R326–R328 do not name follow log 22; that the answer to
command 0x03 holds SHARE in one byte and no DRY is log 80. -/
def Obligations.ContextCommands : Prop :=
  (∀ (i : Instr) (s : State) (p : List (Nat × Nat) × List (Bool × Nat)) (r : Nat), commandForm s i = some p → s.host.doorbell = true → mailEvent s = i →
    (if mailMalformed s p.1 = true then r = 1 else firstReason p.2 = some r) → ∃ t, exec i s = .next t ∧ Refused s t r) ∧
  (∀ (n : Nat) (s : State), Asks s .contextCreate recordParams (againstRecord s true) → 0 < n → n < 65536 → taken s n = false →
    (∀ m, 0 < m → m < n → taken s m = true) →
    ∃ t, exec .contextCreate s = .next t ∧ Answered s t (leBytes n 4) ∧ (t.ctx n).used = true ∧ (t.ctx n).root = ask s 8 8 ∧
      (t.ctx n).save = ask s 16 8 ∧ (t.ctx n).pages = ask s 24 3 ∧ (t.ctx n).vd = ask s 27 1 ∧ (t.ctx n).joint = (ask s 28 1 == 1) ∧
      (t.ctx n).level = 0 ∧ (t.ctx n).cap = 0 ∧ (t.ctx n).share = 16 ∧ t.acct n = {} ∧ ∀ m, m ≠ n → t.ctx m = s.ctx m) ∧
  (∀ s : State, Asks s .contextRewrite recordParams (againstRecord s false) →
    ∃ t, exec .contextRewrite s = .next t ∧ Answered s t (leBytes (ask s 4 4) 4) ∧ ∀ m, t.ctx m = if m = ask s 4 4 then
      { s.ctx m with root := ask s 8 8, save := ask s 16 8, pages := ask s 24 3, vd := ask s 27 1, joint := ask s 28 1 == 1 } else s.ctx m) ∧
  (∀ s : State, Asks s .contextDestroy [(4, 4)] [((s.ctx (ask s 4 4)).used && contextBusy s (ask s 4 4), 2), (!(s.ctx (ask s 4 4)).used, 3)] →
    ∃ t, exec .contextDestroy s = .next t ∧ Answered s t [] ∧
      ∀ m, t.ctx m = if m = ask s 4 4 then { s.ctx m with used := false, destroyed := true } else s.ctx m) ∧
  (∀ s : State, Asks s .bucketDeposit [(4, 12)] [(decide (ask s 8 8 = 0 ∨ 2^62 < ask s 8 8), 1), (!(s.ctx (ask s 4 4)).used, 3)] →
    let x := s.ctx (ask s 4 4)
    ∃ t, exec .bucketDeposit s = .next t ∧ (∀ m, t.ctx m = if m = ask s 4 4 then { x with level := min (x.level + ask s 8 8) x.cap } else s.ctx m) ∧
      Answered s t (leBytes (max 0 (x.level + ask s 8 8 - x.cap)).toNat 8 ++ int64Bytes (min (x.level + ask s 8 8) x.cap))) ∧
  (∀ (i : Instr) (s : State), i = .bucketCapWrite ∨ i = .bucketShareWrite ∨ i = .bucketRead →
    Asks s i bucketParams (againstBucket s) →
    let x := s.ctx (ask s 4 4)
    let cap := if (ask s 8 1).testBit 0 then ask s 16 8 else x.cap
    let level := if (ask s 8 1).testBit 0 then min x.level cap else x.level
    let share := if (ask s 8 1).testBit 1 then ask s 24 1 else x.share
    ∃ t, exec i s = .next t ∧ Answered s t (int64Bytes level ++ leBytes cap 8 ++ leBytes share 1) ∧
      ∀ m, t.ctx m = if m = ask s 4 4 then { x with cap, level, share } else s.ctx m) ∧
  (∀ s : State, ask s 4 4 ≠ 0xFFFFFFFF → Asks s .meterRecordRequest [(4, 6), (12, 12)] (againstRecordRequest s) →
    let a := hostPa (ask s 16 8)
    let n := ask s 4 4
    ∃ t, exec .meterRecordRequest s = .next t ∧ Answered s t (leBytes ((s.acct n).seq + 1) 8) ∧
      (∀ m, t.acct m = if m = n then { s.acct n with seq := (s.acct n).seq + 1 } else s.acct m) ∧
      (∀ b, b < a ∨ a + 192 ≤ b → Tab.get 0 t.mem b = Tab.get 0 s.mem b) ∧ lineAt t a 1 = 1 ∧ lineAt t (a + 1) 1 = (if n < 0x10000 then 0 else 2) ∧
      lineAt t (a + 4) 4 = (if n < 0x10000 then n else 0xFFFFFFFF) ∧ lineAt t (a + 8) 8 = ((s.acct n).seq + 1) % 2^64 ∧
      lineAt t (a + 24) 8 = (s.acct n).est / 4000 % 2^64 ∧ lineAt t (a + 44) 4 = ask s 12 4) ∧
  (∀ s : State, ask s 4 4 = 0xFFFFFFFF → Asks s .meterRecordRequest [(4, 6), (12, 12)] (againstRecordRequest s) →
    let a := hostPa (ask s 16 8)
    let n := if ask s 8 1 = 0 then vdAccount (ask s 9 1) else if ask s 8 1 = 1 then partAccount (ask s 9 1) else firmwareAccount
    ∃ t, exec .meterRecordRequest s = .next t ∧ Answered s t (leBytes ((s.acct n).seq + 1) 8) ∧
      (∀ m, t.acct m = if m = n then { s.acct n with seq := (s.acct n).seq + 1 } else s.acct m) ∧
      (∀ b, b < a ∨ a + 192 ≤ b → Tab.get 0 t.mem b = Tab.get 0 s.mem b) ∧ lineAt t (a + 1) 1 = 2 ∧ lineAt t (a + 4) 4 = 0xFFFFFFFF ∧
      lineAt t (a + 2) 2 = (if ask s 8 1 = 0 then ask s 9 1 else 0) ∧ lineAt t (a + 8) 8 = ((s.acct n).seq + 1) % 2^64) ∧
  (∀ s : State, ask s 8 2 = 0xFFFF → Asks s .streamOutOrder [(4, 6)] [(!(s.ctx (ask s 4 4)).used, 3)] →
    ∃ t, exec .streamOutOrder s = .next t ∧ Answered s t [] ∧ (∀ k ∈ s.runsOf (ask s 4 4), (t.run k).kept = true) ∧
      ∀ k ∈ s.crewsOf (ask s 4 4), (s.crew k).phase = .running ∨ (s.crew k).phase = .staging → .streamOut k ∈ t.due) ∧
  (∀ s : State, ask s 8 2 ≠ 0xFFFF → Asks s .streamOutOrder [(4, 6)] [(decide (511 < ask s 8 2), 1), (!(s.ctx (ask s 4 4)).used, 3)] →
    ∃ t, exec .streamOutOrder s = .next t ∧ Answered s t [] ∧ (∀ b, Tab.get 0 t.mem b = Tab.get 0 s.mem b) ∧
      ∀ k ∈ s.crewsOf (ask s 4 4), ask s 8 2 ∈ (s.crew k).cores → (s.crew k).phase = .running ∨ (s.crew k).phase = .staging → .streamOut k ∈ t.due) ∧
  (∀ s : State, Asks s .pageResume pageParams (againstPage s) →
    let n := ask s 4 4
    let page := ask s 8 8 / 4096
    s.queues = [] → s.flight.loads = [] → s.flight.atoms = [] →
    ∃ t, exec .pageResume s = .next t ∧ Answered s t [] ∧ (t.ctx n).pages_ = (s.ctx n).pages_.filter (fun p => p.1 != page) ∧
      (∀ k va, (s.convoy k).hold = .fetch va → va / 4096 = page → (s.crew (s.convoy k).crew).ctx = n → (t.convoy k).hold = .none) ∧
      ∀ k ∈ s.runsOf n, .runComplete k ∈ t.due) ∧
  (∀ s : State, Asks s .pageInvalid pageParams (againstPage s) → s.host.kept = [] → (s.ctx (ask s 4 4)).stop = none →
    ∃ t, exec .pageInvalid s = .next t ∧ Answered s t [] ∧ (t.ctx (ask s 4 4)).stop = some 0xC20 ∧
      ∀ k ∈ t.issue, (t.crew (t.convoy k).crew).ctx ≠ ask s 4 4)

/-- Commands of the PF mailbox about points, way masks, limits, drains, partitions and VDs (12 R326–R328; 09 R256, R258, R263; 06 R167; R349), and
the answer to an unknown command. Reasons that R326–R328 do not name follow log 22. -/
def Obligations.DeviceCommands : Prop :=
  (∀ s : State, Asks s .setAllow [(4, 4)] [(decide (255 < ask s 4 2) || decide (ask s 6 2 = 0), 1)] →
    let c := ask s 4 2
    ∃ t, exec .setAllow s = .next t ∧ Answered s t [] ∧ (t.island c).allow = BitVec.ofNat 16 (ask s 6 2) ∧
      (t.island c).req = permittedAt (BitVec.ofNat 16 (ask s 6 2)) (s.island c).req ∧ ∀ k, k ≠ c → t.island k = s.island k) ∧
  (∀ s : State, Asks s .wayMaskWrite [(4, 2), (8, 8)] [(decide (63 < ask s 4 1) || decide (3 < ask s 5 1) || decide (2^48 ≤ ask s 8 8), 1)] →
    ∃ t, exec .wayMaskWrite s = .next t ∧ Answered s t [] ∧
      ∀ k, (Tab.get 0x0000FFFFFFFFFFFF t.msc.masks k : DWord) =
        if k = 4 * ask s 4 1 + ask s 5 1 then BitVec.ofNat 64 (ask s 8 8) else Tab.get 0x0000FFFFFFFFFFFF s.msc.masks k) ∧
  (∀ s : State, Asks s .setSustainedLimit limitParams
      [(ask s 4 1 != 0 || decide (ask s 6 2 < 1200) || decide (3000 < ask s 6 2) || ask s 6 2 % 25 != 0, 1)] →
    ∃ t, exec .setSustainedLimit s = .next t ∧ Answered s t [] ∧ t.power = { s.power with suslim := ask s 6 2 }) ∧
  (∀ s : State, Asks s .setRackCap limitParams [(ask s 14 1 == 0, 1)] →
    ∃ t, exec .setRackCap s = .next t ∧ Answered s t [] ∧
      t.power = { s.power with nextRack := some (ask s 10 4, { cap := ask s 6 2, group := ask s 8 2, weight := ask s 14 1 }) }) ∧
  (∀ (s : State),
    let v := ask s 6 1
    (Asks s .vdDrainSet drainParams (drainReasons s) → ∃ t, exec .vdDrainSet s = .next t ∧ Answered s t [] ∧ (t.vd v).drainSet = true ∧
      ∀ k, k / 64 = v → (t.queue k).state ≠ .running) ∧
    (Asks s .vdDrainClear drainParams (drainReasons s) → ∃ t, exec .vdDrainClear s = .next t ∧ Answered s t [] ∧ (t.vd v).drainSet = false ∧
      (s.host.drainSet = false → s.host.failed = false → ∀ k, k / 64 = v → (t.queue k).state = .running)) ∧
    (Asks s .deviceDrainSet drainParams (drainReasons s) → ∃ t, exec .deviceDrainSet s = .next t ∧ Answered s t [] ∧ t.host.drainSet = true ∧
      ∀ k, k < 4096 → (t.queue k).state ≠ .running) ∧
    (Asks s .deviceDrainClear drainParams (drainReasons s) → ∃ t, exec .deviceDrainClear s = .next t ∧ Answered s t [] ∧ t.host.drainSet = false ∧
      (s.host.failed = false → ∀ k, k < 4096 → (s.vd (k / 64)).drainSet = false → (t.queue k).state = .running))) ∧
  (∀ s : State,
    let p := ask s 5 1
    let cs := maskClusters s
    Asks s .partitionCreate partParams [(decide (1 < ask s 4 1) || decide (63 < p) || cs.isEmpty, 1),
      ((s.part p).used || cs.any fun c => (s.island c).state != .enabled || (partOfCluster s c).isSome, 2)] →
    ∃ t, exec .partitionCreate s = .next t ∧ Answered s t [] ∧ (∀ k, t.part k = if k = p then { used := true, clusters := cs } else s.part k) ∧
      ∀ c ∈ cs, (t.island c).req = 12 ∧ (t.island c).allow = 0xFFFF) ∧
  (∀ s : State,
    let p := ask s 5 1
    Asks s .partitionDestroy partParams [(decide (63 < p), 1),
      ((s.part p).used && ((s.vds.any fun v => v.2.part == some p) || s.sealing.owners.any fun o => o.2.owner == 0xFFFE && o.2.part == p), 2),
      (!(s.part p).used, 3)] →
    ∃ t, exec .partitionDestroy s = .next t ∧ Answered s t [] ∧ ∀ k, t.part k = if k = p then {} else s.part k) ∧
  (∀ s : State,
    (Asks s .vdAttach [(4, 2)] (attachReasons s true) → ∃ t, exec .vdAttach s = .next t ∧ Answered s t [] ∧
      ∀ v, t.vd v = if v = ask s 4 1 then { s.vd v with part := some (ask s 5 1) } else s.vd v) ∧
    (Asks s .vdDetach [(4, 2)] (attachReasons s false) → ∃ t, exec .vdDetach s = .next t ∧ Answered s t [] ∧
      ∀ v, t.vd v = if v = ask s 4 1 then { s.vd v with part := none } else s.vd v)) ∧
  (∀ s : State, s.host.doorbell = true → mailEvent s = .mailboxUnknownCommand → ∃ t, exec .mailboxUnknownCommand s = .next t ∧
    t.host.doorbell = false ∧ t.host.status.toNat % 2^32 = 2 + 2^16 * ask s 2 2)

/-- Commands of the PF mailbox about frame owners, HDM windows, the import table and the event ring, and EVACK (12 R322, R327–R329; 06 R175; 13
R369). Reasons that R326–R328 do not name follow log 22, and the wait of an owner change log 23. -/
def Obligations.MappingCommands : Prop :=
  (∀ (f : Nat) (s : State), Asks s .frameOwnerChange frameParams (frameReasons s) → framesOf s = [f] → frameInFlight s f = false →
    s.queues = [] → waitingPages (shootDown s f) = [] →
    (∀ x, x = 2 * f ∨ x = 2 * f + 1 → (s.tileMeta x).version < 0xFFFFFFFF ∧ s.poisoned x = false) →
    ∃ t, exec .frameOwnerChange s = .next t ∧ Answered s t [] ∧ t.ownerOf f = { owner := ask s 20 2, part := ask s 22 1 } ∧
      (∀ k, k ≠ f → t.ownerOf k = s.ownerOf k) ∧
      (∀ b, Tab.get 0 t.mem b = if b / 4096 = f then 0 else Tab.get 0 s.mem b) ∧
      (∀ c, ∀ e ∈ (t.core c).tlb, ¬(e.pa ≤ f * 4096 ∧ f * 4096 < e.pa + e.size)) ∧ ∀ c, ∀ l ∈ (t.core c).l1, l.1 / 2048 ≠ f) ∧
  (∀ s : State,
    let w := ask s 4 1
    let new : Hdm := { used := true, vd := ask s 6 1, base := ask s 8 8, len := ask s 16 8 }
    let set (t : State) (h : Hdm) : Prop := ∀ k, (Tab.get {} t.host.hdm k : Hdm) = if k = w then h else Tab.get {} s.host.hdm k
    (Asks s .hdmBind hdmParams [(hdmBad s, 1), ((hdmOf s w).used, 2)] →
      ((s.vd (ask s 6 1)).locked = false → ∃ t, exec .hdmBind s = .next t ∧ Answered s t [] ∧ set t new) ∧
      ((s.vd (ask s 6 1)).locked = true → ∃ t, exec .hdmBind s = .next t ∧ t.host.hdm = s.host.hdm ∧
        (t.vd (ask s 6 1)).refused = min 0xFFFF ((s.vd (ask s 6 1)).refused + 1) ∧
        t.host.status = BitVec.ofNat 64 (1 + 2^16 * ask s 2 2 + 2^32 * 2))) ∧
    (Asks s .hdmMove hdmParams [(hdmBad s, 1), (!(hdmOf s w).used || (hdmOf s w).vd != ask s 6 1, 3)] → (s.vd (hdmOf s w).vd).locked = false →
      ∃ t, exec .hdmMove s = .next t ∧ Answered s t [] ∧ set t new) ∧
    (Asks s .hdmClear hdmParams [(hdmBad s, 1), (!(hdmOf s w).used, 3)] → (s.vd (hdmOf s w).vd).locked = false →
      ∃ t, exec .hdmClear s = .next t ∧ Answered s t [] ∧ set t {})) ∧
  (∀ s : State,
    let k := 64 * ask s 5 1 + ask s 6 1
    let o := ask s 8 2
    (Asks s .importWrite importParams
        [(decide (1 < ask s 4 1) || decide (63 < ask s 6 1) || o == 0 || (decide (64 < o) && decide (o < 0xFFFE)), 1)] →
      ∃ t, exec .importWrite s = .next t ∧ Answered s t [] ∧ ∀ j, Tab.get 0 t.fabric.imports j = if j = k then o else Tab.get 0 s.fabric.imports j) ∧
    (Asks s .importClear importParams [(decide (63 < ask s 6 1), 1)] →
      ∃ t, exec .importClear s = .next t ∧ Answered s t [] ∧ ∀ j, Tab.get 0 t.fabric.imports j = if j = k then 0 else Tab.get 0 s.fabric.imports j)) ∧
  (∀ s : State,
    (Asks s .eventRingEnable ringParams (ringReasons s) → s.host.kept = [] → ∃ t, exec .eventRingEnable s = .next t ∧ Answered s t [] ∧
      t.host.ringOn = true ∧ t.host.ringBase = ask s 8 8 ∧ t.host.ringSize = ask s 16 1 ∧ t.host.ringVector = ask s 17 1) ∧
    (Asks s .eventRingDisable ringParams (ringReasons s) → ∃ t, exec .eventRingDisable s = .next t ∧ Answered s t [] ∧ t.host.ringOn = false)) ∧
  (∀ (val : Nat) (s : State), s.host.kept = [] → ∃ t, exec (.evackWrite val) s = .next t ∧ t = { s with host := { s.host with evack := val % 2^64 } })

/-! ### The host's other accesses -/

/-- CXL.mem requests (12 R322), timeouts and a lost link (12 R323), the survey's update (12 R341), TDISP (12 R331, R332), device reset (00 R7).
TDISP messages take effect in the order of their events (log 24), within a session (log 80); that device memory reads 0 after a reset is log 6, the
link's lanes and the next weights are log 57, and RUN of a fault that has no run is log 84. An event that arises is written to the event ring, with the
fault record of R287 where it is a context fault, or is kept (12 R329, R330). -/
def Obligations.HostEvents : Prop :=
  (∀ (w off n val : Nat) (s : State), off < 2^48 →
    64 ≤ w ∨ (hdmOf s w).used = false ∨ (hdmOf s w).len ≤ (if n = 0 then off / 64 * 64 else off) →
    exec (.hostMemRequest (2^48 * w + off) n val) s = .next { s with host := { s.host with answer := some (true, 0) } }) ∧
  (∀ (type : Nat) (body : List Byte) (s : State), s.host.kept = [] → type ≠ 5 → type < 2^32 → body.length ≤ 240 →
    EventWritten s (eventPost s type body) type body) ∧
  (∀ (w off val : Nat) (s : State),
    let h := hdmOf s w
    let pa := h.base + off / 64 * 64
    w < 64 → off < 2^48 → h.used = true → off / 64 * 64 < h.len →
    (sliceAccess s { pa, kind := 0, cls := 2, vd := h.vd, acct := vdAccount h.vd }).2 = .ok →
    ∃ t, exec (.hostMemRequest (2^48 * w + off) 0 val) s = .next t ∧
      t.host.answer = some (false, BitVec.ofNat 512
        (lineAt (sliceAccess s { pa, kind := 0, cls := 2, vd := h.vd, acct := vdAccount h.vd }).1 pa 64))) ∧
  (∀ (w off n val : Nat) (s : State),
    let h := hdmOf s w
    let pa := h.base + off
    w < 64 → off < 2^48 → h.used = true → off < h.len → 0 < n →
    (sliceAccess s { pa, kind := 1, cls := 2, vd := h.vd, acct := vdAccount h.vd }).2 = .ok →
    ∃ t, exec (.hostMemRequest (2^48 * w + off) n val) s = .next t ∧ t.host.answer = some (false, 0) ∧
      ∀ b, Tab.get 0 t.mem b =
        written (sliceAccess s { pa, kind := 1, cls := 2, vd := h.vd, acct := vdAccount h.vd }).1 pa (min n (64 - pa % 64)) val b) ∧
  (∀ (n : Nat) (s : State), (s.ctx n).used = true → (s.ctx n).stop = none → s.host.kept = [] → s.flight = {} →
    ∃ t, exec (.hostTimeout n) s = .next t ∧ (t.ctx n).stop = some 0x8F1 ∧ EventWritten s t 1 (loneFault 0x8F1 n (s.ctx n).vd)) ∧
  (∀ s : State, s.host.linkDown = false → s.host.kept = [] → s.flight = {} →
    ∃ t, exec .linkLost s = .next t ∧ t.host.linkDown = true ∧ (∀ k, k < 4096 → (t.queue k).fault = 0x8F0) ∧
      (∀ k, k < 4096 → mayFetch t k = false) ∧
      ∀ n, (s.ctx n).used = true → (t.ctx n).stop = some ((s.ctx n).stop.getD 0x8F0)) ∧
  (∀ (us : Nat) (s : State), ∃ t, exec (.surveyUpdate us) s = .next t ∧ t.host.uptime = s.host.uptime + us ∧
    leNat (Tab.getRun 0 t.host.survey 0 8) = (leNat (Tab.getRun 0 s.host.survey 0 8) + 2) % 2^64 ∧ SameBytes s t) ∧
  (∀ (v ide : Nat) (s : State), s.sec.sessions = 0 →
    exec (.lockInterface v ide) s = .next s ∧ exec (.startInterface v) s = .next s ∧ exec (.stopInterface v) s = .next s) ∧
  (∀ (v ide : Nat) (s : State), s.sec.sessions ≠ 0 →
    ((s.vd v).tstate = .unlocked → ∃ t, exec (.lockInterface v ide) s = .next t ∧
      ∀ k, t.vd k = if k = v then { s.vd v with tstate := .locked, ide := ide != 0, report := some (interfaceReport s v) } else s.vd k) ∧
    ((s.vd v).tstate = .locked → ∃ t, exec (.startInterface v) s = .next t ∧
      ∀ k, t.vd k = if k = v then { s.vd v with tstate := .run } else s.vd k) ∧
    ((s.vd v).tstate ≠ .unlocked → ∃ t, exec (.stopInterface v) s = .next t ∧
      ∀ k, t.vd k = if k = v then { s.vd v with tstate := .unlocked, ide := false, refused := 0, report := none } else s.vd k) ∧
    ((s.vd v).tstate ≠ .error → s.host.kept = [] → ∃ t, exec (.interfaceError v) s = .next t ∧ (t.vd v).tstate = .error ∧
      (∀ k, k / 64 = v → mayFetch t k = false) ∧
      ∀ n, (s.ctx n).used = true → (s.ctx n).vd = v → (t.ctx n).stop = some ((s.ctx n).stop.getD 0x8F0))) ∧
  (∀ s : State, ∃ t, exec .deviceReset s = .next t ∧ t.threads = [] ∧ t.convoys = [] ∧ t.runs = [] ∧ t.ctxs = [] ∧ t.queues = [] ∧ t.vds = [] ∧
    t.power = { weights := s.power.nextWeights, nextWeights := s.power.nextWeights } ∧
    t.host = { lanes := s.host.lanes, linkDown := s.host.lanes != 16 } ∧ (∀ n, n < 129 → (t.keySlot n).cur = 0 ∧ (t.keySlot n).prev = none ∧
      ((t.keySlot n).destroyed = true ↔ s.sec.life = .manufacturing ∨ s.sec.life = .decommissioned)) ∧ t.sec.life = (if s.sec.life = .debugUnlocked then .deployed else s.sec.life) ∧
    t.sealing.retired = s.sealing.retired ∧ (∀ c, (s.island c).state = .retired → (t.island c).state = .retired) ∧
    ∀ b, Tab.get 0 t.mem b = if b < 2^48 then 0 else Tab.get 0 s.mem b)

namespace Sys2Proof.Claims

/-! ### Operands that the crew lacks -/

/-- Width of a format entry of the crew. -/
def entryWidth (s : State) (n : Nat) : Nat := ((crew s).fmt n).width

/-- The instruction names what the issuing crew does not have (14 R374 step 4): a barrier, an accumulator, a unit, a SPAWN entry; or a source span, an
element or an operand width that the named entries, where they are valid, do not allow. -/
def Lacks (s : State) : Instr → Prop
  | .bari n _ _ => ¬BarrierOf s s.cur n
  | .bara n => ¬BarrierOf s s.cur n
  | .barw n _ => ¬BarrierOf s s.cur n
  | .bart n _ => ¬BarrierOf s s.cur n
  | .mma d _ _ _ _ u cmp bar _ => (crew s).accs ≤ d ∨ (crew s).units ≤ u ∨ ¬CmpOk s cmp bar
  | .mmab d _ _ _ _ u cmp bar _ => (crew s).accs ≤ d ∨ (crew s).units ≤ u ∨ ¬CmpOk s cmp bar ∨ (crew s).foot ≠ .cluster
  | .mmaj d _ _ _ _ u cmp bar _ => (crew s).accs ≤ d ∨ (crew s).units ≤ u ∨ ¬CmpOk s cmp bar ∨ (crew s).foot ≠ .cluster
  | .tzero d => (crew s).accs ≤ d
  | .tld _ _ acc _ _ => (crew s).accs ≤ acc
  | .tst _ _ acc _ _ cmp bar => (crew s).accs ≤ acc ∨ ¬CmpOk s cmp bar
  | .resv u c _ _ _ _ _ _ => (crew s).units < u + c + 1
  | .relsUnit u => (crew s).units ≤ u
  | .cpy _ _ _ _ _ cmp bar => ¬CmpOk s cmp bar
  | .cpyg _ _ _ _ _ cmp bar => ¬CmpOk s cmp bar
  | .cpyt u _ tgt _ cmp bar len _ =>
    ¬CmpOk s cmp bar ∨ tgt = 1 ∧ (crew s).accs ≤ u ∨ tgt ≠ 1 ∧ 4096 * (crew s).units < 4096 * u + 128 * (len + 1)
  | .spawn e _ _ => Tab.get 0 (run s).spawn e = 0
  | .cvt _ a f p _ n => Valid s n ∧ Valid s f ∧ ¬Span a p (entryWidth s n) (entryWidth s f)
  | .cvti _ a f p _ m => Valid s f ∧ ¬Span a p (widthOf m) (entryWidth s f)
  | .cvtf _ a w p _ n => Valid s n ∧ ¬Span a p (entryWidth s n) (widthOf w)
  | .fclass _ _ e n => Valid s n ∧ count (entryWidth s n) ≤ e
  | .afadd _ _ _ _ w _ _ f _ => Valid s f ∧ entryWidth s f ≠ if w = 1 then 64 else 32
  | _ => False

/-- What a fault of every member puts in TRVAL (10 R284): of a ST the first 64 bits of the data, else the first word. -/
def faultData (t : Thread) (i : Instr) : DWord :=
  match i with
  | .st v _ _ _ w => if w < 3 then ((t.reg v).extractLsb' 0 (8 * 2^w)).setWidth 64 else t.reg v
  | i => BitVec.ofNat 64 (encode0 i)

/-! ### Security, fabric, reset, decoding -/

/-- A command of the security processor leaves everything but lifecycle, blocks and keys as it was. -/
def OnlySecrets (s t : State) : Prop := { t with sec := s.sec, sealing := s.sealing, fresh := s.fresh } = s

/-- Signal `bit` is pending at processor n (13 R357). -/
def Signalled (t : State) (n bit : Nat) : Prop := (t.proc n).pending.getLsbD bit = true

/-- Flits that an ACK of SEQ `a` leaves in the replay buffer, oldest first (13 R366). -/
def Unacked (p : Port) (a : Nat) (rest : List Flit) : Prop :=
  (∃ before f, p.replay = before ++ f :: rest ∧ f.header % 4096 = a ∧ ∀ x ∈ before, x.header % 4096 ≠ a) ∨
    (rest = p.replay ∧ ∀ x ∈ p.replay, x.header % 4096 ≠ a)

/-- TYPE of a header, and a header that the receiver keeps: TYPE 0–6, bits 63:30 zero (13 R365, R366). -/
def typeOf (h : Nat) : Nat := h / 2^24 % 16
abbrev goodHeader (h : Nat) : Prop := h < 2^30 ∧ typeOf h < 7

/-- The last flit transmitted is a NAK that carries the expected SEQ (13 R366). -/
def NakSent (t : State) (n expect : Nat) : Prop :=
  ∃ f rest, (t.port n).sent = f :: rest ∧ typeOf f.header = 4 ∧ f.header % 4096 = expect % 4096

end Sys2Proof.Claims

/-! ### Security and fabric -/

/-- Measurements and sessions (13 R358, R359), lifecycle and debug unlock (R360–R362), live hand-over (R363, R364). Whether a signature verifies, the
hash and the challenge are free values of Config. What a token uses up and what decommissioning destroys follow log 33 and 34; that an image stands
at address 0 of the SRAM is log 13, and when a processor is between packets is log 80. -/
def Obligations.SecurityCommands : Prop :=
  (∀ s : State, ∃ t r, exec .getMeasurements s = .next t ∧ t.sec = { s.sec with response := some r } ∧ r.blocks = s.sec.blocks ∧
    r.staged = s.sec.staged ∧ r.log = s.sec.log ∧ Signalled t 0 13) ∧
  (∀ s : State, ∃ t, exec .keyExchange s = .next t ∧ t.sec = { s.sec with sessions := s.sec.sessions + 1 } ∧ Signalled t 0 13) ∧
  (∀ s : State, ∃ t n, exec .unlockChallenge s = .next t ∧ n < 2^64 ∧ t.sec = { s.sec with challenge := some n }) ∧
  (∀ (g : Nat) (s : State),
    let ok := s.sec.life = .manufacturing ∧ Config.authentic 1 0 g = true
    ∃ t, exec (.deployCommand g) s = .next t ∧ OnlySecrets s t ∧ (¬ok → t = s) ∧ (ok → t.sec.life = .deployed ∧ t.sec.debugOpen = false ∧
      (∀ n, t.block n = if n = 6 then Config.sha384 (digestBytes (s.block 6) ++ digestBytes (Config.sha384 [1, 0])) else s.block n) ∧
      ∀ n, t.keySlot n = if n ≤ 128 then { draw := s.fresh + 1 } else s.keySlot n)) ∧
  (∀ (g : Nat) (s : State),
    let ok := (s.sec.life = .deployed ∨ s.sec.life = .debugUnlocked) ∧ Config.authentic 2 0 g = true
    ∃ t, exec (.decommissionCommand g) s = .next t ∧ (¬ok → t = s) ∧ (ok → t.sec.life = .decommissioned ∧ t.sec.debugOpen = false ∧
      (∀ n, n ≤ 128 → (t.keySlot n).destroyed = true) ∧ ∀ v, v < 64 → (t.vd v).part = none)) ∧
  (∀ (token : Nat) (s : State),
    ∃ t, exec (.unlockToken token) s = .next t ∧ t.sec.challenge = none ∧ (tokenRefused s token = true → t = { s with sec := { s.sec with challenge := none } }) ∧
      (tokenRefused s token = false → t.sec.life = .debugUnlocked ∧ t.sec.debugOpen = true ∧
        (s.queues = [] → s.flight = {} → s.cores = [] → ∀ f, (t.ownerOf f).owner = 0 ∧
          ((s.ownerOf f).owner ≠ 0 → ∀ b, b < 4096 → Tab.get 0 t.mem (4096 * f + b) = 0)))) ∧
  (∀ (token : Nat) (s : State),
    (s.sec.life ≠ .deployed ∨ (∃ c ∈ s.ctxs, c.2.used = true) ∨ s.sec.challenge ≠ some (token / 2^448 % 2^64) ∨ token / 2^32 % 2^384 ≠ Config.deviceId.toNat ∨
      token / 2^416 % 2^8 ≠ 1 ∨ Config.authentic 0 (token % 2^512) (token / 2^512 % 2^768) = false) → tokenRefused s token = true) ∧
  (∀ (token : Nat) (s : State), token % 2^16 = 1 → token / 2^16 % 2^16 = 2 → token / 2^32 % 2^384 = Config.deviceId.toNat → token / 2^416 % 2^8 = 1 →
    token / 2^424 % 2^24 = 0 → s.sec.challenge = some (token / 2^448 % 2^64) → s.sec.life = .deployed → (∀ c ∈ s.ctxs, c.2.used = false) →
    Config.authentic 0 (token % 2^512) (token / 2^512 % 2^768) = true → tokenRefused s token = false) ∧
  (∀ (k image g : Nat) (s : State),
    let ok := (k = 3 ∨ k = 4) ∧ s.sec.staged = none ∧ Config.authentic 3 image g = true
    ∃ t, exec (.handoverStage k image g) s = .next t ∧ (¬ok → t = s) ∧ (ok →
      t.sec = { s.sec with image, staged := some (k, Config.sha384 (List.replicate 48 0 ++
        digestBytes (Config.sha384 (leBytes image (Nat.log2 image / 8 + 1))))) } ∧
      ∀ n, (k = 3 ∧ n < 8 ∨ k = 4 ∧ 8 ≤ n ∧ n < 12) → Signalled t n 14)) ∧
  (∀ (n k : Nat) (m : BitVec 384) (s : State), s.sec.staged = some (k, m) → n ∈ affected k → (s.proc n).halted = false → betweenPackets s n = true →
    ∃ t, exec (.safePoint n) s = .next t ∧
      ((∀ j ∈ affected k, j ≠ n → (s.proc j).safe = true) → t.sec.staged = none ∧ t.sec.log = (true, s.block k) :: s.sec.log ∧
        (∀ j, t.block j = if j = k then m else s.block j) ∧ ∀ j ∈ affected k, (t.proc j).safe = false ∧
          ∀ a, a < 0x40000 → a ≤ Nat.log2 s.sec.image / 8 → Tab.get 0 (t.proc j).sram a = BitVec.ofNat 8 (s.sec.image / 2^(8 * a))) ∧
      (¬(∀ j ∈ affected k, j ≠ n → (s.proc j).safe = true) → t.sec = s.sec ∧ t.proc n = { s.proc n with safe := true })) ∧
  (∀ (n : Nat) (s : State), betweenPackets s n = false → exec (.safePoint n) s = .next s) ∧
  (∀ (k : Nat) (m : BitVec 384) (s : State), s.sec.staged = some (k, m) →
    ∃ t, exec .handoverAbort s = .next t ∧ t.sec = { s.sec with staged := none, log := (false, m) :: s.sec.log } ∧
      ∀ n ∈ affected k, (t.proc n).safe = false)

/-- Flits, NAKs, replays and lane repair (13 R365–R368); a peer's request (R369). Idle and NAK flits stand outside the sequence, and a flit is an old one
where its SEQ lies at most 1,024 before the expected (log 49); the CRC is log 78's, and which SEQ a NAK carries is log 30. A peer's request is checked as
log 29 says; how it stands in the event's argument is log 86. -/
def Obligations.FabricEvents : Prop :=
  (∀ (n h d : Nat) (s : State), (s.port n).state ≠ .down → (s.port n).freezing = false → goodHeader h → typeOf h ≠ 0 → typeOf h ≠ 4 →
    let p := s.port n
    let crc := crc32 (leBytes h 8 ++ leBytes d 244)
    (h % 4096 = p.expect → ∃ t, exec (.flitReceive n h d crc 0) s = .next t ∧ (t.port n).delivered = { header := h, payload := d } :: p.delivered ∧
      (t.port n).expect = (p.expect + 1) % 4096 ∧ (t.port n).naked = false) ∧
    (h % 4096 ≠ p.expect → ∃ t, exec (.flitReceive n h d crc 0) s = .next t ∧ (t.port n).delivered = p.delivered ∧ (t.port n).expect = p.expect ∧
      (p.naked = false → 1024 < (p.expect + 4096 - h % 4096) % 4096 → (t.port n).naked = true ∧ NakSent t n p.expect))) ∧
  (∀ (n h d crc : Nat) (s : State), (s.port n).state ≠ .down → (s.port n).freezing = false →
    crc ≠ crc32 (leBytes h 8 ++ leBytes d 244) ∨ 7 ≤ typeOf h ∨ h / 2^30 % 2^34 ≠ 0 →
    ∃ t, exec (.flitReceive n h d crc 0) s = .next t ∧ (t.port n).delivered = (s.port n).delivered ∧ (t.port n).expect = (s.port n).expect ∧
      (t.port n).naked = true ∧ ((s.port n).naked = false → NakSent t n (s.port n).expect)) ∧
  (∀ (n seq : Nat) (rest : List Flit) (s : State), (s.port n).state ≠ .down → (s.port n).freezing = false → Unacked (s.port n) ((seq + 4095) % 4096) rest →
    let p := s.port n
    (rest ≠ [] → ∃ t, exec (.nak n seq 0) s = .next t ∧ (t.port n).replay = rest ∧ (t.port n).replaying = rest.length ∧
      (t.port n).sent = rest.reverse ++ p.sent) ∧
    (∀ lane, p.state = .pending → p.bad = some lane → ∃ t, exec (.nak n seq (lane + 1)) s = .next t ∧ (t.port n).freezing = true ∧
      (t.port n).replay = rest ∧ (t.port n).replaying = rest.length ∧ (t.port n).sent = p.sent)) ∧
  (∀ (n : Nat) (s : State), (s.port n).state ≠ .down → (s.port n).freezing = false → (s.port n).replay ≠ [] →
    ∃ t, exec (.ackTimeout n) s = .next t ∧ (t.port n).replay = (s.port n).replay ∧ (t.port n).sent = (s.port n).replay.reverse ++ (s.port n).sent) ∧
  (∀ (n : Nat) (s : State), (s.port n).freezing = true →
    (∃ t, exec (.freezeEnd n) s = .next t ∧ (t.port n).state = .spared ∧ (t.port n).freezing = false ∧
      ((s.port n).replaying ≠ 0 → (t.port n).sent = (s.port n).replay.reverse ++ (s.port n).sent)) ∧
    (∃ t, exec (.freezeTimeout n) s = .next t ∧ (t.port n).state = .down ∧
      (s.flight.loads = [] → s.flight.stores = [] → s.flight.atoms = [] →
        ∀ r ∈ s.flight.reqs, usesPort s n r.pa = true → (t.ctx r.ctx).stop ≠ none ∧ r ∉ t.flight.reqs))) ∧
  (∀ (n a b c d : Nat) (s : State), (s.port n).state = .down →
    exec (.flitReceive n a b c d) s = .next s ∧ exec (.nak n a b) s = .next s ∧ exec (.ackTimeout n) s = .next s) ∧
  (∀ (n g v a w x : Nat) (s : State), (s.port n).state ≠ .down →
    let o := Tab.get 0 s.fabric.imports (64 * g + v)
    let pa := if w = 0 then a / 128 * 128 else a
    let kind := if w = 0 then 0 else if w.testBit 8 then 2 else 1
    let r := sliceAccess s { pa, kind, vd := if o ≤ 64 then o - 1 else 0, acct := frameAccount s pa, asOwner := o }
    let op := peerAtom w
    let old := operandAt r.1.mem (atomBits op) pa
    (o = 0 ∨ 0x013D80000000 ≤ pa ∨ r.2 ≠ .ok → ∃ t, exec (.fabricRequest n g v a w x) s = .next t ∧ t.fabric.answer = some (true, 0)) ∧
    (o ≠ 0 → pa < 0x013D80000000 → r.2 = .ok → (∀ q ∈ r.1.queues, q.2.kickPa ≠ some pa) →
      ∃ t, exec (.fabricRequest n g v a w x) s = .next t ∧
        (w = 0 → t.fabric.answer = some (false, BitVec.ofNat 1024 (lineAt r.1 pa 128)) ∧ ∀ b, Tab.get 0 t.mem b = Tab.get 0 r.1.mem b) ∧
        (w ≠ 0 → w.testBit 8 = false → t.fabric.answer = some (false, 0) ∧ ∀ b, Tab.get 0 t.mem b = written r.1 pa (min w (128 - pa % 128)) x b) ∧
        (w.testBit 8 = true → t.fabric.answer = some (false, BitVec.ofNat 1024 old.toNat) ∧
          ∀ b, Tab.get 0 t.mem b = afterAtomic r.1.mem op (atomBits op) pa (BitVec.ofNat 64 x) (BitVec.ofNat 64 (x / 2^64)) b)))

/-! ### Reset, the step, decoding -/

/-- What the manual states of the device right after reset: points, pools, correction factors, the sustained limit, byte budgets and way masks, accounts,
buckets, queue control and records, VDs, key generations, the import table, ports, refresh, the trap registers and counters of threads. Memory and
stage memory are in canonical form.
Fields not named here have the values of log 2–6 and 8; that a cluster is enabled with 96 tokens in its pool is log 5; that a port's first flit has SEQ 0 is log 49; that no context is in use and its ROOT and SAVE are 0 is log 3. -/
def Obligations.ResetState : Prop :=
  Safety.Inv State.reset ∧
  (∀ c, State.reset.island c = {} ∧ (State.reset.island c).state = .enabled ∧ (State.reset.island c).req = 12 ∧ (State.reset.island c).cur = 12 ∧
    (State.reset.island c).rail = 2 ∧ (State.reset.island c).allow = 0xFFFF ∧ (State.reset.island c).pool = 96) ∧
  (∀ c p, p < 16 → (State.reset.island c).poolEntry p =
    ([200, 184, 168, 152, 140, 128, 120, 112, 108, 104, 100, 98, 96, 88, 80, 72])[p]?.getD 0) ∧
  (∀ d, (State.reset.dom d).cf = 0x1000) ∧ State.reset.power.suslim = 2400 ∧
  (∀ k, (Tab.get 0xFFFF State.reset.msc.budgets k : Nat) = 0xFFFF ∧ (Tab.get 0 State.reset.msc.used k : Nat) = 0 ∧
    (Tab.get 0x0000FFFFFFFFFFFF State.reset.msc.masks k : DWord) = 0x0000FFFFFFFFFFFF) ∧
  (∀ n, (State.reset.ctx n).level = 0 ∧ (State.reset.ctx n).cap = 0 ∧ (State.reset.ctx n).share = 16 ∧ (State.reset.ctx n).root = 0 ∧
    (State.reset.ctx n).save = 0 ∧ (State.reset.ctx n).used = false) ∧
  (∀ k, (State.reset.queue k).prio = 0 ∧ (State.reset.queue k).pw = 16 ∧ (State.reset.queue k).state = .running ∧ (State.reset.queue k).active = 0 ∧
    (State.reset.queue k).paused = false ∧ (State.reset.queue k).base = 0 ∧ (State.reset.queue k).en = false ∧ (State.reset.queue k).head = 0 ∧
    (State.reset.queue k).tail = 0 ∧ (State.reset.queue k).fault = 0) ∧
  (∀ v, (State.reset.vd v).tstate = .unlocked ∧ (State.reset.vd v).ide = false ∧ (State.reset.vd v).refused = 0) ∧
  (∀ n, (State.reset.keySlot n).cur = 0) ∧ (∀ k, (Tab.get 0 State.reset.fabric.imports k : Nat) = 0) ∧
  (∀ n, (State.reset.port n).state = .normal ∧ ((State.reset.port n).seq + 4095) % 4096 = 0 ∧ (State.reset.port n).ackNow = 0) ∧
  (∀ n, (State.reset.pchan n).post = 0 ∧ (State.reset.pchan n).next = 0 ∧ (State.reset.pchan n).forced = 0) ∧
  (∀ x, let t := State.reset.thread x
    t.state = .free ∧ t.trpc = 0 ∧ t.trcause = 0 ∧ t.traddr = 0 ∧ t.trval = 0 ∧ t.trlane = 0 ∧ t.ocl = 0 ∧ t.ocs = 0 ∧ t.occ = 0 ∧ t.oct = 0 ∧ t.llat = 0)

/-- What a step runs: the oldest event that is due; else the word at a firmware processor's pc, an instruction of the extension, the illegal-instruction
exception, or an instruction of the base set (13 R351, R353); else the instruction whose word or words the next convoy fetches (07 R209; 14 R370,
R371, R374); else the engine bytes of the core cycle reach their barriers (15 R404); else a cycle of the ring whose turn it is, after what is due
before it; the ends of the memory's and ports' intervals stand before a new round of the rings (log 76). The order among them is the model's choice (log 1), and what a base instruction does, ADDI here, is RISC-V's (log 7). -/
def Obligations.StepRunsTheInstruction : Prop :=
  (∀ (i : Instr) (rest : List Instr) (s : State), s.due = i :: rest → step s = exec i { s with due := rest }) ∧
  (∀ (n : Nat) (rest : List Nat) (s : State), s.due = [] → s.fwIssue = n :: rest → (s.proc n).halted = false → (s.proc n).waiting = none →
    (s.proc n).safe = false → (s.proc n).pc % 2 = 0 → (s.proc n).pc + 4 ≤ 0x40000 →
    let w := leNat (Tab.getRun 0 (s.proc n).sram (s.proc n).pc 4)
    (w % 128 = 0x0B →
      (∀ i, decodeX w = some i → step s = exec i { s with fwIssue := rest, cur := 1000000 + n }) ∧
      (decodeX w = none → ∃ t v, step s = .next t ∧ FwTrapped s t n 2 v)) ∧
    (w % 128 ≠ 0x0B → ∃ t, step s = .next t ∧ (∀ m, m ≠ n → t.proc m = s.proc m) ∧ { t with fw := s.fw, fresh := s.fresh } = { s with fwIssue := rest }) ∧
    (∀ (d a : Nat) (imm : BitVec 12), d < 32 → a < 32 → w = 0x13 + 2^7 * d + 2^15 * a + 2^20 * imm.toNat →
      ∃ t, step s = .next t ∧ FwWent (s.proc n) s t n d ((s.proc n).reg a + imm.signExtend 64))) ∧
  (∀ (k : Nat) (rest : List Nat) (i : Instr) (s t : State), s.due = [] → s.fwIssue = [] → s.issue = k :: rest → (s.convoy k).members ≠ [] →
    (s.convoy k).hold = .none → Fetches { s with issue := rest, cur := k } t k i → step s = exec i t) ∧
  (∀ (c n bytes : Nat) (s : State), s.due = [] → s.fwIssue = [] → s.issue = [] → s.barBytes = [(c, n, bytes)] → (s.crew c).phase ≠ .none →
    (s.crew c).phase ≠ .ended →
    let b : Barrier := Tab.get {} (s.crew c).bars n
    b.ovf = false → ∃ t, step s = .next t ∧ t.barBytes = [] ∧ (Tab.get {} (t.crew c).bars n : Barrier) =
      if b.tx - bytes < -2^31 then { b with tx := -2^31, ovf := true } else settle { b with tx := b.tx - bytes }) ∧
  (∀ s : State, s.due = [] → s.fwIssue = [] → s.issue = [] → s.barBytes = [] →
    (¬(s.turn = 0 ∧ s.msc.round = .over ∧ s.msc.cycle % 65536 = 65535) →
      ∃ i q, step s = exec i q ∧ q.turn = (s.turn + 1) % 256 ∧ (i = .ringCycle s.turn ∨ .ringCycle s.turn ∈ q.due)) ∧
    (s.turn = 0 → s.msc.round = .over → s.msc.cycle % 65536 = 65535 → ∃ m q, step s = exec (.correct 256 m) q ∧ q.msc.round = .closed ∧
      ∀ n, 256 < n → n < 288 → ∃ m', .correct n m' ∈ q.due) ∧
    (0 < s.turn → s.turn < 255 → (s.dom s.turn).count ≠ 65535 → clusterDue s s.turn = [] →
      step s = exec (.ringCycle s.turn) { s with turn := s.turn + 1 }) ∧
    (s.turn = 255 → (s.dom 255).count ≠ 65535 → clusterDue s 255 = [] →
      step s = exec (.ringCycle 255) { s with turn := 0, msc := { s.msc with round := .over } }))

/-- What has no encoding. A word that does not decode (14 R374), and an operand that the crew does not have (02 R61; 03 R89; 04 R120; 05 R127), raise
ILLEGAL_ENCODING in every member at issue, before the toll is looked at. A lane instruction whose words and toll were checked at its presentation faults as
that settled it, whatever has changed (08 R239; 14 R373). SRR of a register that is not of thread scope with D below 16 is no instruction (03 R94). The
assembler renvas never emits a reserved encoding, emits nothing for a line in error, and gives a label the address of the next byte that it emits
(14 R385, R386, R390); its readings are those of log 81, and that a member whose guard is 0 faults too is log 82. -/
def Obligations.ReservedEncodings : Prop :=
  (∀ (k w0 w1 : Nat) (rest : List Nat) (s u : State), s.due = [] → s.fwIssue = [] → s.issue = k :: rest → (s.convoy k).members ≠ [] →
    (s.convoy k).hold = .none → Takes { s with issue := rest, cur := k } u k w0 w1 → u.cur = k → decode w0 w1 = none → Handles u →
    ∃ t, step s = .next t ∧ TrappedAs u t (lenOf w0 == 2) 0x001 0 (fun _ => 0) fun _ => BitVec.ofNat 64 w0) ∧
  (∀ (k cause : Nat) (rest : List Nat) (h : InHand) (i : Instr) (s : State), s.due = [] → s.fwIssue = [] → s.issue = k :: rest →
    (s.convoy k).members ≠ [] → (s.convoy k).hold = .none → s.inHand k = some h → decode h.w0 h.w1 = some i → h.verdict = some cause →
    softwareTrap i = none → Handles (at_ k s) →
    ∃ t, step s = .next t ∧ TrappedWith (at_ k s) t i cause 0 (fun _ => 0) fun x =>
      if cause = 0x001 then BitVec.ofNat 64 (encode0 i) else faultData (s.thread x) i) ∧
  (∀ (i : Instr) (s : State), Lacks s i → members s ≠ [] → Handles s → ∃ t, exec i s = .next t ∧ Trapped s t i 0x001 0 fun _ => 0) ∧
  (∀ d n : Nat, d < 16 → n < 0x1000 → (threadRegister {} 0 n) = none → decode (0xF0000000 + d * 2^19 + n) 0 = none) ∧
  (∀ (syms : List Renvas.Sym) (pc : Nat) (g : Option Nat) (mn : Renvas.Text) (mods ops : List Renvas.Text) (ws : List Nat),
    Renvas.words syms pc g mn mods ops = some ws → ∃ w0 w1 i, decode w0 w1 = some i ∧ ws = if lenOf w0 = 2 then [w0, w1] else [w0]) ∧
  (∀ (bases : Renvas.Text → Nat) (tab : List Renvas.Sym) (bad : List Nat) (m : Renvas.Asm) (n : Nat) (line : Renvas.Line),
    (Renvas.lineBytes bases tab m.lay line = none ∨ n ∈ bad →
      (Renvas.emitLine bases tab bad m n (some line)).chunks = m.chunks ∧ (Renvas.emitLine bases tab bad m n (some line)).errors = m.errors ++ [n]) ∧
    (∀ name, line.label = some name → Renvas.reserved name = true → Renvas.lineBytes bases tab m.lay line = none)) ∧
  (∀ (bases : Renvas.Text → Nat) (tab : List Renvas.Sym) (bad : List Nat) (m : Renvas.Asm) (n : Nat) (label : Option Renvas.Text) (name : Renvas.Text)
      (ops : List Renvas.Text) (bs : List Byte), n ∉ bad → m.lay.block = none → name ≠ Renvas.tx "section" → (m.lay.sects.any (·.name == m.lay.cur)) = true →
    Renvas.lineBytes bases tab m.lay ⟨label, .dir name ops⟩ = some bs →
    let t := Renvas.emitLine bases tab bad m n (some ⟨label, .dir name ops⟩)
    t.lay.addr bases = m.lay.addr bases + bs.length ∧ t.bytes m.lay.cur = m.bytes m.lay.cur ++ bs ∧
      ∀ x, label = some x → ⟨x, m.lay.addr bases, some m.lay.cur⟩ ∈ t.lay.syms)

/-- Worked words of the manual decode to the instructions they stand for (13 R353, 14 R374, R384, R394); the all-ones word, a nonzero
reserved field and a reserved width do not decode. -/
def Obligations.DecodeWords : Prop :=
  decode 0x00000000 0 = some (.iadd 0 0 0 0 0) ∧ decode 0x42211501 0 = some (.ffma 4 8 84 0 1) ∧ decode 0x3C104258 0 = some (.fadd 2 2 9 3 0) ∧
  decode 0x341FFFDA 0 = some (.movi 3 0xFFFB 2) ∧ decode 0x36180000 0x1234 = some (.movx 3 0 0x1234) ∧ decode 0x6650E41B 0 = some (.ld 10 7 2 3 3) ∧
  decode 0x6A084629 0x07000000 = some (.aadd 1 2 3 5 1 3 2 0) ∧ decode 0xA0A00010 0 = some (.br 2 1 0x10) ∧
  decode 0xA28BFFF8 0 = some (.brg 17 1 0x1FFF8) ∧ decode 0x988A3FFF 0 = some (.gaddi 17 17 0x1FFF) ∧
  decode 0xD6A24983 0x010C0000 = some (.cpy 20 18 19 0 3 1 6) ∧ decode 0xF0800005 0 = some (.srr 16 5) ∧ decode 0xCACA0000 0 = some (.fence 3 2 2) ∧
  decode 0x56202800 0 = some (.cvtf 4 1 2 0 0 0) ∧ decode 0xAC000000 0 = some .exit ∧ decodeX 0x00C5850B = some (.xrfetch 12 11 10) ∧
  decodeX 0x2C85950B = some (.xbfext 11 8 11 10) ∧ decode 0xFFFFFFFF 0 = none ∧ decode 0x00000005 0 = none ∧ decode 0xAC000001 0 = none

/-- Decoding the words of a well-formed instruction gives it back, for every instruction of the convoys and of Xfolale. -/
def Obligations.EncodeDecode : Prop :=
  (∀ i : Instr, i.isConvoy = true → i.wf = true → decode (encode0 i) (encode1 i) = some i ∧ encode0 i < 2^32 ∧ encode1 i < 2^32) ∧
  (∀ i : Instr, i.isXfolale = true → i.wf = true → decodeX (encode0 i) = some i ∧ encode0 i % 128 = 0x0B ∧ encode0 i < 2^32)

/-- Every step, from every state, keeps memory and stage memory in canonical form: equal contents are equal data. -/
def Obligations.StepKeepsCanonicalMemory : Prop :=
  ∀ s t : State, Safety.Inv s → step s = .next t → Safety.Inv t
end

