-- ==== Sys2Proof/Laws/Dispatch.lean ====
section
/-! SUPPORT. exec of each constructor is its meaning (true by rfl: unfolding exec itself is slow), and the shape of a step. -/

namespace Sys2Proof.Machine

theorem exec_iadd (d a b g m) (s : State) : exec (.iadd d a b g m) s = execIadd d a b g m s := rfl
theorem exec_isub (d a b g m) (s : State) : exec (.isub d a b g m) s = execIsub d a b g m s := rfl
theorem exec_imul (d a b g m) (s : State) : exec (.imul d a b g m) s = execImul d a b g m s := rfl
theorem exec_imulh (d a b g m) (s : State) : exec (.imulh d a b g m) s = execImulh d a b g m s := rfl
theorem exec_imulhu (d a b g m) (s : State) : exec (.imulhu d a b g m) s = execImulhu d a b g m s := rfl
theorem exec_imad (d a b g m) (s : State) : exec (.imad d a b g m) s = execImad d a b g m s := rfl
theorem exec_imin (d a b g m) (s : State) : exec (.imin d a b g m) s = execImin d a b g m s := rfl
theorem exec_imax (d a b g m) (s : State) : exec (.imax d a b g m) s = execImax d a b g m s := rfl
theorem exec_iminu (d a b g m) (s : State) : exec (.iminu d a b g m) s = execIminu d a b g m s := rfl
theorem exec_imaxu (d a b g m) (s : State) : exec (.imaxu d a b g m) s = execImaxu d a b g m s := rfl
theorem exec_iadds (d a b g m) (s : State) : exec (.iadds d a b g m) s = execIadds d a b g m s := rfl
theorem exec_isubs (d a b g m) (s : State) : exec (.isubs d a b g m) s = execIsubs d a b g m s := rfl
theorem exec_iabs (d a g m) (s : State) : exec (.iabs d a g m) s = execIabs d a g m s := rfl
theorem exec_andl (d a b g) (s : State) : exec (.andl d a b g) s = execAndl d a b g s := rfl
theorem exec_orl (d a b g) (s : State) : exec (.orl d a b g) s = execOrl d a b g s := rfl
theorem exec_xorl (d a b g) (s : State) : exec (.xorl d a b g) s = execXorl d a b g s := rfl
theorem exec_andnl (d a b g) (s : State) : exec (.andnl d a b g) s = execAndnl d a b g s := rfl
theorem exec_shl (d a b g m) (s : State) : exec (.shl d a b g m) s = execShl d a b g m s := rfl
theorem exec_shr (d a b g m) (s : State) : exec (.shr d a b g m) s = execShr d a b g m s := rfl
theorem exec_sar (d a b g m) (s : State) : exec (.sar d a b g m) s = execSar d a b g m s := rfl
theorem exec_rol (d a b g m) (s : State) : exec (.rol d a b g m) s = execRol d a b g m s := rfl
theorem exec_popc (d a g m) (s : State) : exec (.popc d a g m) s = execPopc d a g m s := rfl
theorem exec_clz (d a g m) (s : State) : exec (.clz d a g m) s = execClz d a g m s := rfl
theorem exec_brev (d a g m) (s : State) : exec (.brev d a g m) s = execBrev d a g m s := rfl
theorem exec_icmp (d a b c m) (s : State) : exec (.icmp d a b c m) s = execIcmp d a b c m s := rfl
theorem exec_sel (d a b q) (s : State) : exec (.sel d a b q) s = execSel d a b q s := rfl
theorem exec_mov (d b g) (s : State) : exec (.mov d b g) s = execMov d b g s := rfl
theorem exec_perm (d a b g) (s : State) : exec (.perm d a b g) s = execPerm d a b g s := rfl
theorem exec_movi (d imm m) (s : State) : exec (.movi d imm m) s = execMovi d imm m s := rfl
theorem exec_movx (d m imm) (s : State) : exec (.movx d m imm) s = execMovx d m imm s := rfl
theorem exec_bfx (d a b g fs) (s : State) : exec (.bfx d a b g fs) s = execBfx d a b g fs s := rfl
theorem exec_bfi (d a b g) (s : State) : exec (.bfi d a b g) s = execBfi d a b g s := rfl
theorem exec_fadd (d a b g n) (s : State) : exec (.fadd d a b g n) s = execFadd d a b g n s := rfl
theorem exec_fsub (d a b g n) (s : State) : exec (.fsub d a b g n) s = execFsub d a b g n s := rfl
theorem exec_fmul (d a b g n) (s : State) : exec (.fmul d a b g n) s = execFmul d a b g n s := rfl
theorem exec_ffma (d a b g n) (s : State) : exec (.ffma d a b g n) s = execFfma d a b g n s := rfl
theorem exec_ffms (d a b g n) (s : State) : exec (.ffms d a b g n) s = execFfms d a b g n s := rfl
theorem exec_fmin (d a b g n) (s : State) : exec (.fmin d a b g n) s = execFmin d a b g n s := rfl
theorem exec_fmax (d a b g n) (s : State) : exec (.fmax d a b g n) s = execFmax d a b g n s := rfl
theorem exec_fcmp (d a b c n) (s : State) : exec (.fcmp d a b c n) s = execFcmp d a b c n s := rfl
theorem exec_fsgn (d a b o n) (s : State) : exec (.fsgn d a b o n) s = execFsgn d a b o n s := rfl
theorem exec_fspc (d a o n) (s : State) : exec (.fspc d a o n) s = execFspc d a o n s := rfl
theorem exec_fclass (d a e n) (s : State) : exec (.fclass d a e n) s = execFclass d a e n s := rfl
theorem exec_cvt (d a fs p g f) (s : State) : exec (.cvt d a fs p g f) s = execCvt d a fs p g f s := rfl
theorem exec_cvti (d a fs p g m) (s : State) : exec (.cvti d a fs p g m) s = execCvti d a fs p g m s := rfl
theorem exec_cvtf (d a w p g f) (s : State) : exec (.cvtf d a w p g f) s = execCvtf d a w p g f s := rfl
theorem exec_fdot (d a b ix f) (s : State) : exec (.fdot d a b ix f) s = execFdot d a b ix f s := rfl
theorem exec_shfl (d a b q m) (s : State) : exec (.shfl d a b q m) s = execShfl d a b q m s := rfl
theorem exec_vote (d b q m) (s : State) : exec (.vote d b q m) s = execVote d b q m s := rfl
theorem exec_scan (d a x o m) (s : State) : exec (.scan d a x o m) s = execScan d a x o m s := rfl
theorem exec_scanFadd (d a n x) (s : State) : exec (.scanFadd d a n x) s = execScanFadd d a n x s := rfl
theorem exec_red (d a o m) (s : State) : exec (.red d a o m) s = execRed d a o m s := rfl
theorem exec_redFadd (d a n) (s : State) : exec (.redFadd d a n) s = execRedFadd d a n s := rfl
theorem exec_qop (d a b g m) (s : State) : exec (.qop d a b g m) s = execQop d a b g m s := rfl
theorem exec_movqToPredicate (q a g) (s : State) : exec (.movqToPredicate q a g) s = execMovqToPredicate q a g s := rfl
theorem exec_movqToVector (d q g) (s : State) : exec (.movqToVector d q g) s = execMovqToVector d q g s := rfl
theorem exec_ld (v ix k o w) (s : State) : exec (.ld v ix k o w) s = execLd v ix k o w s := rfl
theorem exec_st (v ix k o w) (s : State) : exec (.st v ix k o w) s = execSt v ix k o w s := rfl
theorem exec_aadd (v ix k sr w scope order n) (s : State) : exec (.aadd v ix k sr w scope order n) s = execAadd v ix k sr w scope order n s := rfl
theorem exec_aand (v ix k sr w scope order n) (s : State) : exec (.aand v ix k sr w scope order n) s = execAand v ix k sr w scope order n s := rfl
theorem exec_aor (v ix k sr w scope order n) (s : State) : exec (.aor v ix k sr w scope order n) s = execAor v ix k sr w scope order n s := rfl
theorem exec_axor (v ix k sr w scope order n) (s : State) : exec (.axor v ix k sr w scope order n) s = execAxor v ix k sr w scope order n s := rfl
theorem exec_amin (v ix k sr w scope order n) (s : State) : exec (.amin v ix k sr w scope order n) s = execAmin v ix k sr w scope order n s := rfl
theorem exec_amax (v ix k sr w scope order n) (s : State) : exec (.amax v ix k sr w scope order n) s = execAmax v ix k sr w scope order n s := rfl
theorem exec_aminu (v ix k sr w scope order n) (s : State) : exec (.aminu v ix k sr w scope order n) s = execAminu v ix k sr w scope order n s := rfl
theorem exec_amaxu (v ix k sr w scope order n) (s : State) : exec (.amaxu v ix k sr w scope order n) s = execAmaxu v ix k sr w scope order n s := rfl
theorem exec_axchg (v ix k sr w scope order n) (s : State) : exec (.axchg v ix k sr w scope order n) s = execAxchg v ix k sr w scope order n s := rfl
theorem exec_acas (v ix k sr w scope order n) (s : State) : exec (.acas v ix k sr w scope order n) s = execAcas v ix k sr w scope order n s := rfl
theorem exec_afadd (v ix k sr w scope order f n) (s : State) : exec (.afadd v ix k sr w scope order f n) s = execAfadd v ix k sr w scope order f n s := rfl
theorem exec_msign (v w n f fs) (s : State) : exec (.msign v w n f fs) s = execMsign v w n f fs s := rfl
theorem exec_gadd (d a b) (s : State) : exec (.gadd d a b) s = execGadd d a b s := rfl
theorem exec_gsub (d a b) (s : State) : exec (.gsub d a b) s = execGsub d a b s := rfl
theorem exec_gmul (d a b) (s : State) : exec (.gmul d a b) s = execGmul d a b s := rfl
theorem exec_gand (d a b) (s : State) : exec (.gand d a b) s = execGand d a b s := rfl
theorem exec_gor (d a b) (s : State) : exec (.gor d a b) s = execGor d a b s := rfl
theorem exec_gxor (d a b) (s : State) : exec (.gxor d a b) s = execGxor d a b s := rfl
theorem exec_gshl (d a b) (s : State) : exec (.gshl d a b) s = execGshl d a b s := rfl
theorem exec_gshr (d a b) (s : State) : exec (.gshr d a b) s = execGshr d a b s := rfl
theorem exec_gsar (d a b) (s : State) : exec (.gsar d a b) s = execGsar d a b s := rfl
theorem exec_gmin (d a b) (s : State) : exec (.gmin d a b) s = execGmin d a b s := rfl
theorem exec_gmax (d a b) (s : State) : exec (.gmax d a b) s = execGmax d a b s := rfl
theorem exec_gsel (d a b t) (s : State) : exec (.gsel d a b t) s = execGsel d a b t s := rfl
theorem exec_gaddi (d a ix) (s : State) : exec (.gaddi d a ix) s = execGaddi d a ix s := rfl
theorem exec_gmovi (d imm) (s : State) : exec (.gmovi d imm) s = execGmovi d imm s := rfl
theorem exec_glui (d ix) (s : State) : exec (.glui d ix) s = execGlui d ix s := rfl
theorem exec_grdl (d a n) (s : State) : exec (.grdl d a n) s = execGrdl d a n s := rfl
theorem exec_br (q n d) (s : State) : exec (.br q n d) s = execBr q n d s := rfl
theorem exec_brg (a c d) (s : State) : exec (.brg a c d) s = execBrg a c d s := rfl
theorem exec_jmp (a) (s : State) : exec (.jmp a) s = execJmp a s := rfl
theorem exec_call (d) (s : State) : exec (.call d) s = execCall d s := rfl
theorem exec_join (n) (s : State) : exec (.join n) s = execJoin n s := rfl
theorem exec_spawn (e fs a) (s : State) : exec (.spawn e fs a) s = execSpawn e fs a s := rfl
theorem exec_trap (c) (s : State) : exec (.trap c) s = execTrap c s := rfl
theorem exec_eret (fs) (s : State) : exec (.eret fs) s = execEret fs s := rfl
theorem exec_bari (b a c) (s : State) : exec (.bari b a c) s = execBari b a c s := rfl
theorem exec_bara (b) (s : State) : exec (.bara b) s = execBara b s := rfl
theorem exec_barw (b a) (s : State) : exec (.barw b a) s = execBarw b a s := rfl
theorem exec_bart (b a) (s : State) : exec (.bart b a) s = execBart b a s := rfl
theorem exec_syncm (a) (s : State) : exec (.syncm a) s = execSyncm a s := rfl
theorem exec_mlwait (a m) (s : State) : exec (.mlwait a m) s = execMlwait a m s := rfl
theorem exec_mlpass (a m) (s : State) : exec (.mlpass a m) s = execMlpass a m s := rfl
theorem exec_wait (l fs c t) (s : State) : exec (.wait l fs c t) s = execWait l fs c t s := rfl
theorem exec_fence (fs k d) (s : State) : exec (.fence fs k d) s = execFence fs k d s := rfl
theorem exec_tfence (fs) (s : State) : exec (.tfence fs) s = execTfence fs s := rfl
theorem exec_ifence (fs) (s : State) : exec (.ifence fs) s = execIfence fs s := rfl
theorem exec_take (d) (s : State) : exec (.take d) s = execTake d s := rfl
theorem exec_hput (a n) (s : State) : exec (.hput a n) s = execHput a n s := rfl
theorem exec_hget (d n) (s : State) : exec (.hget d n) s = execHget d n s := rfl
theorem exec_cpy (c fs x dir k cmp bar) (s : State) : exec (.cpy c fs x dir k cmp bar) s = execCpy c fs x dir k cmp bar s := rfl
theorem exec_cpyg (c fs x dir k cmp bar) (s : State) : exec (.cpyg c fs x dir k cmp bar) s = execCpyg c fs x dir k cmp bar s := rfl
theorem exec_cpyt (t a tgt dir cmp bar len row) (s : State) : exec (.cpyt t a tgt dir cmp bar len row) s = execCpyt t a tgt dir cmp bar len row s := rfl
theorem exec_resv (u c b bs fs n bl soff) (s : State) : exec (.resv u c b bs fs n bl soff) s = execResv u c b bs fs n bl soff s := rfl
theorem exec_relsUnit (u) (s : State) : exec (.relsUnit u) s = execRelsUnit u s := rfl
theorem exec_relsWaypoint (n) (s : State) : exec (.relsWaypoint n) s = execRelsWaypoint n s := rfl
theorem exec_mma (d a b ba keep u cmp bar rf) (s : State) : exec (.mma d a b ba keep u cmp bar rf) s = execMma d a b ba keep u cmp bar rf s := rfl
theorem exec_mmab (d a b ba keep u cmp bar rf) (s : State) : exec (.mmab d a b ba keep u cmp bar rf) s = execMmab d a b ba keep u cmp bar rf s := rfl
theorem exec_mmaj (d a b ba keep u cmp bar rf) (s : State) : exec (.mmaj d a b ba keep u cmp bar rf) s = execMmaj d a b ba keep u cmp bar rf s := rfl
theorem exec_tzero (d) (s : State) : exec (.tzero d) s = execTzero d s := rfl
theorem exec_tld (d a acc c n) (s : State) : exec (.tld d a acc c n) s = execTld d a acc c n s := rfl
theorem exec_tst (d a acc c n cmp bar) (s : State) : exec (.tst d a acc c n cmp bar) s = execTst d a acc c n cmp bar s := rfl
theorem exec_fmtw (a n) (s : State) : exec (.fmtw a n) s = execFmtw a n s := rfl
theorem exec_fmtr (d n) (s : State) : exec (.fmtr d n) s = execFmtr d n s := rfl
theorem exec_srr (d n) (s : State) : exec (.srr d n) s = execSrr d n s := rfl
theorem exec_srw (a n) (s : State) : exec (.srw a n) s = execSrw a n s := rfl
theorem exec_tclaim (n) (s : State) : exec (.tclaim n) s = execTclaim n s := rfl
theorem exec_xrfetch (b a d) (s : State) : exec (.xrfetch b a d) s = execXrfetch b a d s := rfl
theorem exec_xbfext (l p a d) (s : State) : exec (.xbfext l p a d) s = execXbfext l p a d s := rfl
theorem exec_xswait (b a d) (s : State) : exec (.xswait b a d) s = execXswait b a d s := rfl
theorem exec_xdisp (a d) (s : State) : exec (.xdisp a d) s = execXdisp a d s := rfl
theorem exec_xmeas (a d) (s : State) : exec (.xmeas a d) s = execXmeas a d s := rfl
theorem exec_xswaitReturn (proc) (s : State) : exec (.xswaitReturn proc) s = execXswaitReturn proc s := rfl
theorem exec_evackWrite (val) (s : State) : exec (.evackWrite val) s = execEvackWrite val s := rfl
theorem exec_kick (vd q val) (s : State) : exec (.kick vd q val) s = execKick vd q val s := rfl
theorem exec_rearm (vd q val) (s : State) : exec (.rearm vd q val) s = execRearm vd q val s := rfl
theorem exec_queueDrain (vd q val) (s : State) : exec (.queueDrain vd q val) s = execQueueDrain vd q val s := rfl
theorem exec_queueResume (vd q val) (s : State) : exec (.queueResume vd q val) s = execQueueResume vd q val s := rfl
theorem exec_queueEnable (vd q val) (s : State) : exec (.queueEnable vd q val) s = execQueueEnable vd q val s := rfl
theorem exec_queueDisable (vd q val) (s : State) : exec (.queueDisable vd q val) s = execQueueDisable vd q val s := rfl
theorem exec_pointRequest (vd cluster val) (s : State) : exec (.pointRequest vd cluster val) s = execPointRequest vd cluster val s := rfl
theorem exec_poolTableWrite (island point val) (s : State) : exec (.poolTableWrite island point val) s = execPoolTableWrite island point val s := rfl
theorem exec_registerWrite (fn off size val) (s : State) : exec (.registerWrite fn off size val) s = execRegisterWrite fn off size val s := rfl
theorem exec_islandPowerUp (island) (s : State) : exec (.islandPowerUp island) s = execIslandPowerUp island s := rfl
theorem exec_ringCycle (island) (s : State) : exec (.ringCycle island) s = execRingCycle island s := rfl
theorem exec_claimOpen (island stop) (s : State) : exec (.claimOpen island stop) s = execClaimOpen island stop s := rfl
theorem exec_holdWindowEnd (island) (s : State) : exec (.holdWindowEnd island) s = execHoldWindowEnd island s := rfl
theorem exec_tclaimComplete (convoy) (s : State) : exec (.tclaimComplete convoy) s = execTclaimComplete convoy s := rfl
theorem exec_spillRetry (convoy) (s : State) : exec (.spillRetry convoy) s = execSpillRetry convoy s := rfl
theorem exec_former (core quad slot) (s : State) : exec (.former core quad slot) s = execFormer core quad slot s := rfl
theorem exec_formationWaitExpiry (core quad slot addr) (s : State) : exec (.formationWaitExpiry core quad slot addr) s = execFormationWaitExpiry core quad slot addr s := rfl
theorem exec_baraArrive (convoy) (s : State) : exec (.baraArrive convoy) s = execBaraArrive convoy s := rfl
theorem exec_barwRelease (convoy) (s : State) : exec (.barwRelease convoy) s = execBarwRelease convoy s := rfl
theorem exec_mlpassRecord (run) (s : State) : exec (.mlpassRecord run) s = execMlpassRecord run s := rfl
theorem exec_mlwaitRelease (convoy) (s : State) : exec (.mlwaitRelease convoy) s = execMlwaitRelease convoy s := rfl
theorem exec_waitRelease (convoy) (s : State) : exec (.waitRelease convoy) s = execWaitRelease convoy s := rfl
theorem exec_fenceComplete (convoy) (s : State) : exec (.fenceComplete convoy) s = execFenceComplete convoy s := rfl
theorem exec_tfenceComplete (convoy) (s : State) : exec (.tfenceComplete convoy) s = execTfenceComplete convoy s := rfl
theorem exec_ifenceComplete (convoy) (s : State) : exec (.ifenceComplete convoy) s = execIfenceComplete convoy s := rfl
theorem exec_hputPerform (convoy) (s : State) : exec (.hputPerform convoy) s = execHputPerform convoy s := rfl
theorem exec_hgetPerform (convoy) (s : State) : exec (.hgetPerform convoy) s = execHgetPerform convoy s := rfl
theorem exec_takeReturn (convoy) (s : State) : exec (.takeReturn convoy) s = execTakeReturn convoy s := rfl
theorem exec_spawnComplete (convoy) (s : State) : exec (.spawnComplete convoy) s = execSpawnComplete convoy s := rfl
theorem exec_rowFree (thread) (s : State) : exec (.rowFree thread) s = execRowFree thread s := rfl
theorem exec_regionWriteback (crew) (s : State) : exec (.regionWriteback crew) s = execRegionWriteback crew s := rfl
theorem exec_runComplete (run) (s : State) : exec (.runComplete run) s = execRunComplete run s := rfl
theorem exec_fetchSlot (vd q) (s : State) : exec (.fetchSlot vd q) s = execFetchSlot vd q s := rfl
theorem exec_fetchRetry (vd q) (s : State) : exec (.fetchRetry vd q) s = execFetchRetry vd q s := rfl
theorem exec_eventWaitEval (part) (s : State) : exec (.eventWaitEval part) s = execEventWaitEval part s := rfl
theorem exec_dispatch (part) (s : State) : exec (.dispatch part) s = execDispatch part s := rfl
theorem exec_crewStart (crew) (s : State) : exec (.crewStart crew) s = execCrewStart crew s := rfl
theorem exec_streamOut (crew) (s : State) : exec (.streamOut crew) s = execStreamOut crew s := rfl
theorem exec_streamIn (crew core slot) (s : State) : exec (.streamIn crew core slot) s = execStreamIn crew core slot s := rfl
theorem exec_reselect (core) (s : State) : exec (.reselect core) s = execReselect core s := rfl
theorem exec_residencyTimeout (core ctx) (s : State) : exec (.residencyTimeout core ctx) s = execResidencyTimeout core ctx s := rfl
theorem exec_leaseAnswer (core ctx) (s : State) : exec (.leaseAnswer core ctx) s = execLeaseAnswer core ctx s := rfl
theorem exec_correct (dom measured) (s : State) : exec (.correct dom measured) s = execCorrect dom measured s := rfl
theorem exec_limitBindChange (watts) (s : State) : exec (.limitBindChange watts) s = execLimitBindChange watts s := rfl
theorem exec_poolHalve (watts) (s : State) : exec (.poolHalve watts) s = execPoolHalve watts s := rfl
theorem exec_poolRestore (watts) (s : State) : exec (.poolRestore watts) s = execPoolRestore watts s := rfl
theorem exec_budgetWindow (slice) (s : State) : exec (.budgetWindow slice) s = execBudgetWindow slice s := rfl
theorem exec_pointChangeComplete (island) (s : State) : exec (.pointChangeComplete island) s = execPointChangeComplete island s := rfl
theorem exec_plobritEpoch (demand) (s : State) : exec (.plobritEpoch demand) s = execPlobritEpoch demand s := rfl
theorem exec_silentMember (pkg) (s : State) : exec (.silentMember pkg) s = execSilentMember pkg s := rfl
theorem exec_budgetMessage (pkg epoch demand weight group) (s : State) : exec (.budgetMessage pkg epoch demand weight group) s = execBudgetMessage pkg epoch demand weight group s := rfl
theorem exec_loadComplete (id part) (s : State) : exec (.loadComplete id part) s = execLoadComplete id part s := rfl
theorem exec_storePerformed (id) (s : State) : exec (.storePerformed id) s = execStorePerformed id s := rfl
theorem exec_atomicPerformed (id) (s : State) : exec (.atomicPerformed id) s = execAtomicPerformed id s := rfl
theorem exec_sideLogReplay (core ctx page) (s : State) : exec (.sideLogReplay core ctx page) s = execSideLogReplay core ctx page s := rfl
theorem exec_matrixEntryStart (core) (s : State) : exec (.matrixEntryStart core) s = execMatrixEntryStart core s := rfl
theorem exec_matrixEntryComplete (core) (s : State) : exec (.matrixEntryComplete core) s = execMatrixEntryComplete core s := rfl
theorem exec_copyStart (core) (s : State) : exec (.copyStart core) s = execCopyStart core s := rfl
theorem exec_copyComplete (core) (s : State) : exec (.copyComplete core) s = execCopyComplete core s := rfl
theorem exec_mscServe (id) (s : State) : exec (.mscServe id) s = execMscServe id s := rfl
theorem exec_resealTile (slot slice) (s : State) : exec (.resealTile slot slice) s = execResealTile slot slice s := rfl
theorem exec_resealEnd (slot) (s : State) : exec (.resealEnd slot) s = execResealEnd slot s := rfl
theorem exec_fwSramUncorrectable (proc) (s : State) : exec (.fwSramUncorrectable proc) s = execFwSramUncorrectable proc s := rfl
theorem exec_transferActivate (pc cycle) (s : State) : exec (.transferActivate pc cycle) s = execTransferActivate pc cycle s := rfl
theorem exec_tileTransferComplete (pc bank cycle) (s : State) : exec (.tileTransferComplete pc bank cycle) s = execTileTransferComplete pc bank cycle s := rfl
theorem exec_refreshDue (pc cycle) (s : State) : exec (.refreshDue pc cycle) s = execRefreshDue pc cycle s := rfl
theorem exec_pseudoChannelIdle (pc cycle) (s : State) : exec (.pseudoChannelIdle pc cycle) s = execPseudoChannelIdle pc cycle s := rfl
theorem exec_refpbIssue (pc cycle) (s : State) : exec (.refpbIssue pc cycle) s = execRefpbIssue pc cycle s := rfl
theorem exec_refabIssue (pc cycle) (s : State) : exec (.refabIssue pc cycle) s = execRefabIssue pc cycle s := rfl
theorem exec_refabEnd (pc cycle) (s : State) : exec (.refabEnd pc cycle) s = execRefabEnd pc cycle s := rfl
theorem exec_scrubPassStart (slice) (s : State) : exec (.scrubPassStart slice) s = execScrubPassStart slice s := rfl
theorem exec_scrubTile (slice result) (s : State) : exec (.scrubTile slice result) s = execScrubTile slice result s := rfl
theorem exec_clusterRetire (cluster) (s : State) : exec (.clusterRetire cluster) s = execClusterRetire cluster s := rfl
theorem exec_wearMonitorUpdate (cluster hours) (s : State) : exec (.wearMonitorUpdate cluster hours) s = execWearMonitorUpdate cluster hours s := rfl
theorem exec_surveyUpdate (elapsed) (s : State) : exec (.surveyUpdate elapsed) s = execSurveyUpdate elapsed s := rfl
theorem exec_hostMemRequest (addr write val) (s : State) : exec (.hostMemRequest addr write val) s = execHostMemRequest addr write val s := rfl
theorem exec_hostTimeout (ctx) (s : State) : exec (.hostTimeout ctx) s = execHostTimeout ctx s := rfl
theorem exec_lockInterface (vd ide) (s : State) : exec (.lockInterface vd ide) s = execLockInterface vd ide s := rfl
theorem exec_startInterface (vd) (s : State) : exec (.startInterface vd) s = execStartInterface vd s := rfl
theorem exec_stopInterface (vd) (s : State) : exec (.stopInterface vd) s = execStopInterface vd s := rfl
theorem exec_interfaceError (vd) (s : State) : exec (.interfaceError vd) s = execInterfaceError vd s := rfl
theorem exec_unlockToken (token) (s : State) : exec (.unlockToken token) s = execUnlockToken token s := rfl
theorem exec_deployCommand (signature) (s : State) : exec (.deployCommand signature) s = execDeployCommand signature s := rfl
theorem exec_decommissionCommand (signature) (s : State) : exec (.decommissionCommand signature) s = execDecommissionCommand signature s := rfl
theorem exec_handoverStage (kind image signature) (s : State) : exec (.handoverStage kind image signature) s = execHandoverStage kind image signature s := rfl
theorem exec_safePoint (proc) (s : State) : exec (.safePoint proc) s = execSafePoint proc s := rfl
theorem exec_flitReceive (port header payload crc laneBad) (s : State) : exec (.flitReceive port header payload crc laneBad) s = execFlitReceive port header payload crc laneBad s := rfl
theorem exec_nak (port seq laneBad) (s : State) : exec (.nak port seq laneBad) s = execNak port seq laneBad s := rfl
theorem exec_ackTimeout (port) (s : State) : exec (.ackTimeout port) s = execAckTimeout port s := rfl
theorem exec_freezeEnd (port) (s : State) : exec (.freezeEnd port) s = execFreezeEnd port s := rfl
theorem exec_freezeTimeout (port) (s : State) : exec (.freezeTimeout port) s = execFreezeTimeout port s := rfl
theorem exec_fabricRequest (port pkg vd addr write val) (s : State) : exec (.fabricRequest port pkg vd addr write val) s = execFabricRequest port pkg vd addr write val s := rfl
theorem exec_islandPowerDown (island) (s : State) : exec (.islandPowerDown island) s = execIslandPowerDown island s := rfl
theorem exec_coreClockGate (core) (s : State) : exec (.coreClockGate core) s = execCoreClockGate core s := rfl
theorem exec_coreClockUngate (core) (s : State) : exec (.coreClockUngate core) s = execCoreClockUngate core s := rfl
theorem exec_poisonedFrameRetire (frame) (s : State) : exec (.poisonedFrameRetire frame) s = execPoisonedFrameRetire frame s := rfl
theorem exec_ret (s : State) : exec (.ret) s = execRet s := rfl
theorem exec_exit (s : State) : exec (.exit) s = execExit s := rfl
theorem exec_brk (s : State) : exec (.brk) s = execBrk s := rfl
theorem exec_nop (s : State) : exec (.nop) s = execNop s := rfl
theorem exec_yield (s : State) : exec (.yield) s = execYield s := rfl
theorem exec_tfree (s : State) : exec (.tfree) s = execTfree s := rfl
theorem exec_contextCreate (s : State) : exec (.contextCreate) s = execContextCreate s := rfl
theorem exec_contextRewrite (s : State) : exec (.contextRewrite) s = execContextRewrite s := rfl
theorem exec_bucketDeposit (s : State) : exec (.bucketDeposit) s = execBucketDeposit s := rfl
theorem exec_bucketCapWrite (s : State) : exec (.bucketCapWrite) s = execBucketCapWrite s := rfl
theorem exec_bucketShareWrite (s : State) : exec (.bucketShareWrite) s = execBucketShareWrite s := rfl
theorem exec_bucketRead (s : State) : exec (.bucketRead) s = execBucketRead s := rfl
theorem exec_setAllow (s : State) : exec (.setAllow) s = execSetAllow s := rfl
theorem exec_wayMaskWrite (s : State) : exec (.wayMaskWrite) s = execWayMaskWrite s := rfl
theorem exec_hdmBind (s : State) : exec (.hdmBind) s = execHdmBind s := rfl
theorem exec_hdmMove (s : State) : exec (.hdmMove) s = execHdmMove s := rfl
theorem exec_hdmClear (s : State) : exec (.hdmClear) s = execHdmClear s := rfl
theorem exec_setSustainedLimit (s : State) : exec (.setSustainedLimit) s = execSetSustainedLimit s := rfl
theorem exec_setRackCap (s : State) : exec (.setRackCap) s = execSetRackCap s := rfl
theorem exec_meterRecordRequest (s : State) : exec (.meterRecordRequest) s = execMeterRecordRequest s := rfl
theorem exec_streamOutOrder (s : State) : exec (.streamOutOrder) s = execStreamOutOrder s := rfl
theorem exec_vdDrainSet (s : State) : exec (.vdDrainSet) s = execVdDrainSet s := rfl
theorem exec_vdDrainClear (s : State) : exec (.vdDrainClear) s = execVdDrainClear s := rfl
theorem exec_deviceDrainSet (s : State) : exec (.deviceDrainSet) s = execDeviceDrainSet s := rfl
theorem exec_deviceDrainClear (s : State) : exec (.deviceDrainClear) s = execDeviceDrainClear s := rfl
theorem exec_pageResume (s : State) : exec (.pageResume) s = execPageResume s := rfl
theorem exec_pageInvalid (s : State) : exec (.pageInvalid) s = execPageInvalid s := rfl
theorem exec_frameOwnerChange (s : State) : exec (.frameOwnerChange) s = execFrameOwnerChange s := rfl
theorem exec_partitionCreate (s : State) : exec (.partitionCreate) s = execPartitionCreate s := rfl
theorem exec_partitionDestroy (s : State) : exec (.partitionDestroy) s = execPartitionDestroy s := rfl
theorem exec_vdAttach (s : State) : exec (.vdAttach) s = execVdAttach s := rfl
theorem exec_vdDetach (s : State) : exec (.vdDetach) s = execVdDetach s := rfl
theorem exec_importWrite (s : State) : exec (.importWrite) s = execImportWrite s := rfl
theorem exec_importClear (s : State) : exec (.importClear) s = execImportClear s := rfl
theorem exec_contextDestroy (s : State) : exec (.contextDestroy) s = execContextDestroy s := rfl
theorem exec_eventRingEnable (s : State) : exec (.eventRingEnable) s = execEventRingEnable s := rfl
theorem exec_eventRingDisable (s : State) : exec (.eventRingDisable) s = execEventRingDisable s := rfl
theorem exec_deviceReset (s : State) : exec (.deviceReset) s = execDeviceReset s := rfl
theorem exec_dispatchWindow (s : State) : exec (.dispatchWindow) s = execDispatchWindow s := rfl
theorem exec_softErrorWindow (s : State) : exec (.softErrorWindow) s = execSoftErrorWindow s := rfl
theorem exec_linkLost (s : State) : exec (.linkLost) s = execLinkLost s := rfl
theorem exec_getMeasurements (s : State) : exec (.getMeasurements) s = execGetMeasurements s := rfl
theorem exec_keyExchange (s : State) : exec (.keyExchange) s = execKeyExchange s := rfl
theorem exec_handoverAbort (s : State) : exec (.handoverAbort) s = execHandoverAbort s := rfl
theorem exec_unlockChallenge (s : State) : exec (.unlockChallenge) s = execUnlockChallenge s := rfl
theorem exec_mailboxUnknownCommand (s : State) : exec (.mailboxUnknownCommand) s = execMailboxUnknownCommand s := rfl

end Sys2Proof.Machine
end

