-- ==== Sys2Proof/Laws/Tab.lean ====
section
/-! SUPPORT. Laws of the sorted tables: what a read gives after each write, and that every write keeps the canonical form. The
read laws hold of every list, canonical or not. -/

namespace Sys2Proof

variable {α : Type}

/-! ### Reads after writes -/

theorem Tab.get_erase_self (d : α) (k : Nat) : ∀ t : Tab α, Tab.get d (Tab.erase k t) k = d
  | [] => rfl
  | (j, v) :: t => by
    by_cases h : j = k
    · simp [Tab.erase, h, Tab.get_erase_self d k t]
    · simp [Tab.erase, Tab.get, h, Tab.get_erase_self d k t]

theorem Tab.get_erase_ne (d : α) (k j : Nat) (h : j ≠ k) : ∀ t : Tab α, Tab.get d (Tab.erase k t) j = Tab.get d t j
  | [] => rfl
  | (i, v) :: t => by
    by_cases hi : i = k
    · have hk : ¬ k = j := fun e => h e.symm
      simp [Tab.erase, Tab.get, hi, Tab.get_erase_ne d k j h t, hk]
    · simp [Tab.erase, Tab.get, hi, Tab.get_erase_ne d k j h t]

theorem Tab.get_insert_self (d : α) (k : Nat) (v : α) : ∀ t : Tab α, Tab.get d (Tab.insert k v t) k = v
  | [] => by simp [Tab.insert, Tab.get]
  | (j, w) :: t => by
    by_cases h1 : k < j
    · simp [Tab.insert, Tab.get, h1]
    · by_cases h2 : k = j
      · simp [Tab.insert, Tab.get, h2]
      · have h3 : ¬ j = k := fun e => h2 e.symm
        simp [Tab.insert, Tab.get, h1, h2, h3, Tab.get_insert_self d k v t]

theorem Tab.get_insert_ne (d : α) (k j : Nat) (v : α) (h : j ≠ k) : ∀ t : Tab α, Tab.get d (Tab.insert k v t) j = Tab.get d t j
  | [] => by have hk : ¬ k = j := fun e => h e.symm
             simp [Tab.insert, Tab.get, hk]
  | (i, w) :: t => by
    have hk : ¬ k = j := fun e => h e.symm
    by_cases h1 : k < i
    · simp [Tab.insert, Tab.get, h1, hk]
    · by_cases h2 : k = i
      · subst h2; simp [Tab.insert, Tab.get, hk]
      · simp [Tab.insert, Tab.get, h1, h2, Tab.get_insert_ne d k j v h t]

variable [DecidableEq α]

@[simp] theorem Tab.get_set_self (d : α) (k : Nat) (v : α) (t : Tab α) : Tab.get d (Tab.set d k v t) k = v := by
  unfold Tab.set; split
  · simp [*, Tab.get_erase_self]
  · exact Tab.get_insert_self d k v t

theorem Tab.get_set_ne (d : α) (k j : Nat) (v : α) (t : Tab α) (h : j ≠ k) : Tab.get d (Tab.set d k v t) j = Tab.get d t j := by
  unfold Tab.set; split
  · exact Tab.get_erase_ne d k j h t
  · exact Tab.get_insert_ne d k j v h t

theorem Tab.get_set (d : α) (k j : Nat) (v : α) (t : Tab α) :
    Tab.get d (Tab.set d k v t) j = if j = k then v else Tab.get d t j := by
  by_cases h : j = k
  · subst h; simp
  · simp [h, Tab.get_set_ne d k j v t h]

theorem Tab.get_setMany (d : α) (ks : List Nat) (h : Nat → α) (t : Tab α) (j : Nat) :
    Tab.get d (Tab.setMany d ks h t) j = if j ∈ ks then h j else Tab.get d t j := by
  unfold Tab.setMany
  induction ks generalizing t with
  | nil => simp
  | cons k ks ih =>
    simp only [List.foldl_cons, ih, List.mem_cons]
    by_cases h1 : j ∈ ks
    · simp [h1]
    · by_cases h2 : j = k
      · subst h2; simp [h1]
      · simp [h1, h2, Tab.get_set_ne d k j _ t h2]

theorem Tab.get_setRun (d : α) (vs : List α) (k : Nat) (t : Tab α) (j : Nat) :
    Tab.get d (Tab.setRun d k vs t) j = if k ≤ j ∧ j < k + vs.length then (vs[j - k]?).getD d else Tab.get d t j := by
  induction vs generalizing k t with
  | nil => rw [if_neg (by simp)]; rfl
  | cons v vs ih =>
    rw [Tab.setRun, ih]
    by_cases h1 : k + 1 ≤ j ∧ j < k + 1 + vs.length
    · have h2 : k ≤ j ∧ j < k + (v :: vs).length := by simp; omega
      have h3 : j - k = (j - (k + 1)) + 1 := by omega
      rw [if_pos h1, if_pos h2, h3, List.getElem?_cons_succ]
    · rw [if_neg h1]
      by_cases h2 : j = k
      · subst h2; simp
      · have h3 : ¬ (k ≤ j ∧ j < k + (v :: vs).length) := by simp; omega
        rw [if_neg h3, Tab.get_set_ne d k j v t h2]

omit [DecidableEq α] in
theorem Tab.getRun_length (d : α) (t : Tab α) (n : Nat) : ∀ k, (Tab.getRun d t k n).length = n := by
  induction n with
  | zero => intro k; rfl
  | succ n ih => intro k; simp [Tab.getRun, ih]

omit [DecidableEq α] in
theorem Tab.get_filter_of (d : α) (f : Nat → Bool) (j : Nat) : ∀ t : Tab α,
    Tab.get d (t.filter fun p => f p.1) j = if f j then Tab.get d t j else d
  | [] => by simp [Tab.get]
  | (k, v) :: t => by
    by_cases hk : f k
    · by_cases hj : k = j
      · subst hj; simp [hk, Tab.get]
      · simp [hk, Tab.get, hj, Tab.get_filter_of d f j t]
    · by_cases hj : k = j
      · subst hj; simp [hk, Tab.get_filter_of d f k t]
      · simp [hk, Tab.get, hj, Tab.get_filter_of d f j t]

omit [DecidableEq α] in
theorem Tab.get_clearRun (d : α) (a n : Nat) (t : Tab α) (j : Nat) :
    Tab.get d (Tab.clearRun a n t) j = if a ≤ j ∧ j < a + n then d else Tab.get d t j := by
  unfold Tab.clearRun
  rw [Tab.get_filter_of d (fun k => !(decide (a ≤ k) && decide (k < a + n)))]
  by_cases h : a ≤ j ∧ j < a + n
  · simp [h]
  · rw [if_neg h]; simp; intro h1 h2; exact absurd ⟨h1, h2⟩ h

/-! ### The canonical form -/

theorem Tab.wfFrom_mono (d : α) (lo lo' : Nat) (h : lo' ≤ lo) : ∀ t : Tab α, Tab.wfFrom d lo t = true → Tab.wfFrom d lo' t = true
  | [], _ => rfl
  | (k, v) :: t, hw => by
    simp only [Tab.wfFrom, Bool.and_eq_true, decide_eq_true_eq] at hw ⊢
    exact ⟨⟨by omega, hw.1.2⟩, hw.2⟩

theorem Tab.wfFrom_erase (d : α) (k : Nat) : ∀ (t : Tab α) (lo : Nat), Tab.wfFrom d lo t = true → Tab.wfFrom d lo (Tab.erase k t) = true
  | [], _, _ => rfl
  | (j, v) :: t, lo, hw => by
    simp only [Tab.wfFrom, Bool.and_eq_true, decide_eq_true_eq] at hw
    unfold Tab.erase; split
    · exact Tab.wfFrom_mono d _ _ (by omega) _ (Tab.wfFrom_erase d k t _ hw.2)
    · simp only [Tab.wfFrom, Bool.and_eq_true, decide_eq_true_eq]
      exact ⟨hw.1, Tab.wfFrom_erase d k t _ hw.2⟩

theorem Tab.wfFrom_insert (d : α) (k : Nat) (v : α) (hv : v ≠ d) : ∀ (t : Tab α) (lo : Nat), lo ≤ k →
    Tab.wfFrom d lo t = true → Tab.wfFrom d lo (Tab.insert k v t) = true
  | [], lo, h, _ => by simp [Tab.insert, Tab.wfFrom, h, hv]
  | (j, w) :: t, lo, h, hw => by
    simp only [Tab.wfFrom, Bool.and_eq_true, decide_eq_true_eq] at hw
    unfold Tab.insert
    split
    · simp only [Tab.wfFrom, Bool.and_eq_true, decide_eq_true_eq]
      exact ⟨⟨h, hv⟩, ⟨by omega, hw.1.2⟩, hw.2⟩
    · split
      · rename_i h2; subst h2
        simp only [Tab.wfFrom, Bool.and_eq_true, decide_eq_true_eq]
        exact ⟨⟨h, hv⟩, hw.2⟩
      · simp only [Tab.wfFrom, Bool.and_eq_true, decide_eq_true_eq]
        exact ⟨hw.1, Tab.wfFrom_insert d k v hv t _ (by omega) hw.2⟩

theorem Tab.wf_erase (d : α) (k : Nat) (t : Tab α) (h : Tab.wf d t = true) : Tab.wf d (Tab.erase k t) = true :=
  Tab.wfFrom_erase d k t 0 h

theorem Tab.wf_set (d : α) (k : Nat) (v : α) (t : Tab α) (h : Tab.wf d t = true) : Tab.wf d (Tab.set d k v t) = true := by
  unfold Tab.set; split
  · exact Tab.wf_erase d k t h
  · rename_i hv; exact Tab.wfFrom_insert d k v hv t 0 (Nat.zero_le k) h

theorem Tab.wf_setMany (d : α) (ks : List Nat) (f : Nat → α) (t : Tab α) (h : Tab.wf d t = true) :
    Tab.wf d (Tab.setMany d ks f t) = true := by
  unfold Tab.setMany
  induction ks generalizing t with
  | nil => exact h
  | cons k ks ih => exact ih _ (Tab.wf_set d k _ t h)

theorem Tab.wf_setRun (d : α) (vs : List α) (k : Nat) (t : Tab α) (h : Tab.wf d t = true) : Tab.wf d (Tab.setRun d k vs t) = true := by
  induction vs generalizing k t with
  | nil => exact h
  | cons v vs ih => exact ih _ _ (Tab.wf_set d k v t h)

theorem Tab.wfFrom_filter (d : α) (f : Nat × α → Bool) : ∀ (t : Tab α) (lo : Nat),
    Tab.wfFrom d lo t = true → Tab.wfFrom d lo (t.filter f) = true
  | [], _, _ => rfl
  | p :: t, lo, hw => by
    simp only [Tab.wfFrom, Bool.and_eq_true, decide_eq_true_eq] at hw
    by_cases hf : f p
    · simp only [List.filter_cons, hf, if_true, Tab.wfFrom, Bool.and_eq_true, decide_eq_true_eq]
      exact ⟨hw.1, Tab.wfFrom_filter d f t _ hw.2⟩
    · simp only [List.filter_cons, hf]
      exact Tab.wfFrom_mono d _ _ (by omega) _ (Tab.wfFrom_filter d f t _ hw.2)

theorem Tab.wf_filter (d : α) (f : Nat × α → Bool) (t : Tab α) (h : Tab.wf d t = true) : Tab.wf d (t.filter f) = true :=
  Tab.wfFrom_filter d f t 0 h

theorem Tab.wf_clearRun (d : α) (a n : Nat) (t : Tab α) (h : Tab.wf d t = true) : Tab.wf d (Tab.clearRun a n t) = true :=
  Tab.wf_filter d _ t h

/-- Canonical from `lo` on with every key below `hi`. -/
def Tab.wfIn (d : α) (lo hi : Nat) (t : Tab α) : Bool := Tab.wfFrom d lo t && t.all fun p => decide (p.1 < hi)

theorem Tab.wfFrom_append (d : α) (mid : Nat) (u : Tab α) (hu : Tab.wfFrom d mid u = true) : ∀ (t : Tab α) (lo : Nat),
    Tab.wfFrom d lo t = true → (∀ p ∈ t, p.1 < mid) → lo ≤ mid → Tab.wfFrom d lo (t ++ u) = true
  | [], lo, _, _, h => Tab.wfFrom_mono d mid lo h u hu
  | p :: t, lo, hw, hm, _ => by
    simp only [Tab.wfFrom, Bool.and_eq_true, decide_eq_true_eq] at hw
    simp only [List.cons_append, Tab.wfFrom, Bool.and_eq_true, decide_eq_true_eq]
    have hp := hm p (by simp)
    exact ⟨hw.1, Tab.wfFrom_append d mid u hu t _ hw.2 (fun q hq => hm q (by simp [hq])) (by omega)⟩

theorem Tab.wfFrom_of_filter_ge (d : α) (f : Nat × α → Bool) (lo : Nat) (hf : ∀ p, f p = true → lo ≤ p.1) : ∀ (t : Tab α) (b : Nat),
    Tab.wfFrom d b t = true → Tab.wfFrom d lo (t.filter f) = true
  | [], _, _ => rfl
  | p :: t, b, hw => by
    simp only [Tab.wfFrom, Bool.and_eq_true, decide_eq_true_eq] at hw
    by_cases h : f p
    · simp only [List.filter_cons, h, if_true, Tab.wfFrom, Bool.and_eq_true, decide_eq_true_eq]
      exact ⟨⟨hf p h, hw.1.2⟩, Tab.wfFrom_filter d f t _ hw.2⟩
    · simp only [List.filter_cons, h]
      exact Tab.wfFrom_of_filter_ge d f lo hf t _ hw.2

theorem Tab.wfFrom_zipRun (d : α) (vs : List α) : ∀ (n lo : Nat), lo ≤ n →
    Tab.wfFrom d lo ((((List.range vs.length).map (n + ·)).zip vs).filter fun p => decide (p.2 ≠ d)) = true := by
  induction vs with
  | nil => intro n lo _; rfl
  | cons v vs ih =>
    intro n lo h
    have e : (List.range (v :: vs).length).map (n + ·) = n :: (List.range vs.length).map (n + 1 + ·) := by
      simp only [List.length_cons, List.range_succ_eq_map, List.map_cons, List.map_map, Nat.add_zero]
      congr 1; apply List.map_congr_left; intro a _; simp; omega
    rw [e, List.zip_cons_cons]
    by_cases hv : v = d
    · simp only [hv, List.filter_cons, ne_eq, not_true_eq_false, decide_false, Bool.false_eq_true, if_false]
      exact ih (n + 1) lo (by omega)
    · simp only [hv, List.filter_cons, ne_eq, not_false_eq_true, decide_true, if_true, Tab.wfFrom, Bool.and_eq_true, decide_eq_true_eq]
      exact ⟨⟨h, trivial⟩, ih (n + 1) (n + 1) (Nat.le_refl _)⟩

theorem Tab.wf_putRun (d : α) (lo : Nat) (vs : List α) (t : Tab α) (h : Tab.wf d t = true) : Tab.wf d (Tab.putRun d lo vs t) = true := by
  unfold Tab.putRun Tab.wf
  rw [List.append_assoc]
  apply Tab.wfFrom_append d lo _ _ _ 0 (Tab.wfFrom_filter d _ t 0 h) (by intro p hp; simpa using (List.mem_filter.mp hp).2) (Nat.zero_le _)
  apply Tab.wfFrom_append d (lo + vs.length) _ _ _ lo (Tab.wfFrom_zipRun d vs lo lo (Nat.le_refl _))
  · intro p hp
    have := List.of_mem_zip (List.mem_filter.mp hp).1
    simp only [List.mem_map, List.mem_range] at this
    omega
  · omega
  · exact Tab.wfFrom_of_filter_ge d _ _ (fun p hp => by simpa using hp) t 0 h

theorem Tab.wfFrom_shift (d : α) (a b : Nat) : ∀ (t : Tab α) (lo : Nat), a ≤ lo →
    Tab.wfFrom d lo t = true → Tab.wfFrom d (lo - a + b) (t.map fun p => (p.1 - a + b, p.2)) = true
  | [], _, _, _ => rfl
  | p :: t, lo, h, hw => by
    simp only [Tab.wfFrom, Bool.and_eq_true, decide_eq_true_eq] at hw
    simp only [List.map_cons, Tab.wfFrom, Bool.and_eq_true, decide_eq_true_eq]
    refine ⟨⟨by omega, hw.1.2⟩, ?_⟩
    have := Tab.wfFrom_shift d a b t (p.1 + 1) (by omega) hw.2
    have e : p.1 + 1 - a + b = p.1 - a + b + 1 := by omega
    rwa [e] at this

theorem Tab.wf_copyRun (d : α) (src : Tab α) (a n b : Nat) (t : Tab α) (hs : Tab.wf d src = true) (h : Tab.wf d t = true) :
    Tab.wf d (Tab.copyRun src a n b t) = true := by
  unfold Tab.copyRun Tab.wf
  rw [List.append_assoc]
  apply Tab.wfFrom_append d b _ _ _ 0 (Tab.wfFrom_filter d _ t 0 h) (by intro p hp; simpa using (List.mem_filter.mp hp).2) (Nat.zero_le _)
  apply Tab.wfFrom_append d (b + n) _ _ _ b
  · have := Tab.wfFrom_shift d a b _ a (Nat.le_refl _)
      (Tab.wfFrom_of_filter_ge d (fun p => decide (a ≤ p.1) && decide (p.1 < a + n)) a (fun p hp => by simp at hp; exact hp.1) src 0 hs)
    simpa using this
  · intro p hp
    simp only [List.mem_map, List.mem_filter, Bool.and_eq_true, decide_eq_true_eq] at hp
    obtain ⟨q, ⟨_, h1, h2⟩, rfl⟩ := hp
    simp only; omega
  · omega
  · exact Tab.wfFrom_of_filter_ge d _ _ (fun p hp => by simpa using hp) t 0 h

end Sys2Proof
end

