-- ==== Sys2Proof/Laws/Elems.lean ====
section
/-! SUPPORT. Elements of a register after it is packed (03 R86). -/

namespace Sys2Proof.Machine

theorem perReg_le (w : Nat) : w * perReg w ≤ 64 := by
  unfold perReg; split
  · simp
  · exact Nat.mul_div_le 64 w

theorem packNat_lt (w : Nat) : ∀ l : List Nat, packNat w l < 2^(w * l.length)
  | [] => by simp [packNat]
  | x :: xs => by
    have h := packNat_lt w xs
    have h1 : x % 2^w < 2^w := Nat.mod_lt _ (Nat.two_pow_pos w)
    simp only [packNat, List.length_cons, Nat.mul_add, Nat.mul_one, Nat.pow_add]
    calc x % 2^w + 2^w * packNat w xs < 2^w + 2^w * packNat w xs := by omega
      _ = 2^w * (packNat w xs + 1) := by rw [Nat.mul_add, Nat.mul_one, Nat.add_comm]
      _ ≤ 2^w * 2^(w * xs.length) := Nat.mul_le_mul_left _ h
      _ = 2^(w * xs.length) * 2^w := Nat.mul_comm ..

theorem packNat_field (w : Nat) : ∀ (l : List Nat) (j : Nat) (h : j < l.length), packNat w l / 2^(w * j) % 2^w = l[j] % 2^w
  | x :: xs, 0, _ => by
    simp only [packNat, Nat.mul_zero, Nat.pow_zero, Nat.div_one, List.getElem_cons_zero]
    rw [Nat.add_mul_mod_self_left, Nat.mod_mod]
  | x :: xs, j + 1, h => by
    have ih := packNat_field w xs j (by simpa using h)
    simp only [List.getElem_cons_succ]
    rw [← ih, packNat, Nat.mul_add, Nat.mul_one, Nat.add_comm (w * j), Nat.pow_add, ← Nat.div_div_eq_div_mul,
      Nat.add_mul_div_left _ _ (Nat.two_pow_pos w), Nat.div_eq_of_lt (Nat.mod_lt _ (Nat.two_pow_pos w)), Nat.zero_add]

/-- Element j of a packed register. -/
theorem elem_pack (w : Nat) (l : List Nat) (j : Nat) (hl : w * l.length ≤ 64) (h : j < l.length) :
    elem (pack w l) w j = l[j] % 2^w := by
  unfold elem pack field
  have hlt : packNat w l < 2^64 := Nat.lt_of_lt_of_le (packNat_lt w l) (Nat.pow_le_pow_right (by decide) hl)
  rw [BitVec.toNat_ofNat, Nat.mod_eq_of_lt hlt, packNat_field w l j h]

theorem elems_length (w : Nat) (x : DWord) : (elems w x).length = perReg w := by simp [elems]

theorem elem_lt (x : DWord) (w j : Nat) : elem x w j < 2^w := Nat.mod_lt _ (Nat.two_pow_pos w)

theorem elem_map1 (w : Nat) (f : Nat → Nat) (x : DWord) (j : Nat) (h : j < perReg w) :
    elem (map1 w f x) w j = f (elem x w j) % 2^w := by
  unfold map1
  rw [elem_pack]
  · simp [elems]
  · simpa [elems] using perReg_le w
  · simpa [elems] using h

theorem elem_map2 (w : Nat) (f : Nat → Nat → Nat) (x y : DWord) (j : Nat) (h : j < perReg w) :
    elem (map2 w f x y) w j = f (elem x w j) (elem y w j) % 2^w := by
  unfold map2
  rw [elem_pack]
  · simp [elems]
  · simpa [elems] using perReg_le w
  · simpa [elems] using h

theorem elem_map3 (w : Nat) (f : Nat → Nat → Nat → Nat) (x y z : DWord) (j : Nat) (h : j < perReg w) :
    elem (map3 w f x y z) w j = f (elem x w j) (elem y w j) (elem z w j) % 2^w := by
  unfold map3
  rw [elem_pack]
  · simp [elems]
  · simpa [elems] using perReg_le w
  · simpa [elems] using h

/-- The bits of an element, as a vector. -/
theorem extract_eq_elem (w j : Nat) (x : DWord) : x.extractLsb' (w * j) w = BitVec.ofNat w (elem x w j) := by
  apply BitVec.eq_of_toNat_eq
  simp [BitVec.extractLsb'_toNat, elem, field, Nat.shiftRight_eq_div_pow]

theorem Thread.setReg_reg (t : Thread) (n m : Nat) (x : DWord) : (t.setReg n x).reg m = if m = n then x else t.reg m := by
  unfold Thread.setReg Thread.reg
  exact Tab.get_set ..

end Sys2Proof.Machine
end

