-- ==== Sys2Proof/Laws/State.lean ====
section
/-! SUPPORT. One lemma per field of State per update of State: what the update leaves, and what it writes, true by rfl. -/

namespace Sys2Proof.Machine

/-! ### setThread -/

@[simp] theorem State.setThread_due (s : State) (k : Nat) (x : Thread) : (s.setThread k x).due = s.due := rfl
@[simp] theorem State.setThread_issue (s : State) (k : Nat) (x : Thread) : (s.setThread k x).issue = s.issue := rfl
@[simp] theorem State.setThread_barBytes (s : State) (k : Nat) (x : Thread) : (s.setThread k x).barBytes = s.barBytes := rfl
@[simp] theorem State.setThread_cur (s : State) (k : Nat) (x : Thread) : (s.setThread k x).cur = s.cur := rfl
@[simp] theorem State.setThread_fwIssue (s : State) (k : Nat) (x : Thread) : (s.setThread k x).fwIssue = s.fwIssue := rfl
@[simp] theorem State.setThread_turn (s : State) (k : Nat) (x : Thread) : (s.setThread k x).turn = s.turn := rfl
@[simp] theorem State.setThread_fresh (s : State) (k : Nat) (x : Thread) : (s.setThread k x).fresh = s.fresh := rfl
@[simp] theorem State.setThread_threads (s : State) (k : Nat) (x : Thread) : (s.setThread k x).threads = Tab.set {} k x s.threads := rfl
@[simp] theorem State.setThread_convoys (s : State) (k : Nat) (x : Thread) : (s.setThread k x).convoys = s.convoys := rfl
@[simp] theorem State.setThread_words (s : State) (k : Nat) (x : Thread) : (s.setThread k x).words = s.words := rfl
@[simp] theorem State.setThread_laybys (s : State) (k : Nat) (x : Thread) : (s.setThread k x).laybys = s.laybys := rfl
@[simp] theorem State.setThread_crews (s : State) (k : Nat) (x : Thread) : (s.setThread k x).crews = s.crews := rfl
@[simp] theorem State.setThread_runs (s : State) (k : Nat) (x : Thread) : (s.setThread k x).runs = s.runs := rfl
@[simp] theorem State.setThread_cores (s : State) (k : Nat) (x : Thread) : (s.setThread k x).cores = s.cores := rfl
@[simp] theorem State.setThread_islands (s : State) (k : Nat) (x : Thread) : (s.setThread k x).islands = s.islands := rfl
@[simp] theorem State.setThread_doms (s : State) (k : Nat) (x : Thread) : (s.setThread k x).doms = s.doms := rfl
@[simp] theorem State.setThread_accts (s : State) (k : Nat) (x : Thread) : (s.setThread k x).accts = s.accts := rfl
@[simp] theorem State.setThread_mem (s : State) (k : Nat) (x : Thread) : (s.setThread k x).mem = s.mem := rfl
@[simp] theorem State.setThread_stage (s : State) (k : Nat) (x : Thread) : (s.setThread k x).stage = s.stage := rfl
@[simp] theorem State.setThread_acc (s : State) (k : Nat) (x : Thread) : (s.setThread k x).acc = s.acc := rfl
@[simp] theorem State.setThread_ob (s : State) (k : Nat) (x : Thread) : (s.setThread k x).ob = s.ob := rfl
@[simp] theorem State.setThread_flight (s : State) (k : Nat) (x : Thread) : (s.setThread k x).flight = s.flight := rfl
@[simp] theorem State.setThread_msc (s : State) (k : Nat) (x : Thread) : (s.setThread k x).msc = s.msc := rfl
@[simp] theorem State.setThread_sealing (s : State) (k : Nat) (x : Thread) : (s.setThread k x).sealing = s.sealing := rfl
@[simp] theorem State.setThread_hbm (s : State) (k : Nat) (x : Thread) : (s.setThread k x).hbm = s.hbm := rfl
@[simp] theorem State.setThread_scrub (s : State) (k : Nat) (x : Thread) : (s.setThread k x).scrub = s.scrub := rfl
@[simp] theorem State.setThread_ctxs (s : State) (k : Nat) (x : Thread) : (s.setThread k x).ctxs = s.ctxs := rfl
@[simp] theorem State.setThread_parts (s : State) (k : Nat) (x : Thread) : (s.setThread k x).parts = s.parts := rfl
@[simp] theorem State.setThread_vds (s : State) (k : Nat) (x : Thread) : (s.setThread k x).vds = s.vds := rfl
@[simp] theorem State.setThread_queues (s : State) (k : Nat) (x : Thread) : (s.setThread k x).queues = s.queues := rfl
@[simp] theorem State.setThread_host (s : State) (k : Nat) (x : Thread) : (s.setThread k x).host = s.host := rfl
@[simp] theorem State.setThread_power (s : State) (k : Nat) (x : Thread) : (s.setThread k x).power = s.power := rfl
@[simp] theorem State.setThread_fabric (s : State) (k : Nat) (x : Thread) : (s.setThread k x).fabric = s.fabric := rfl
@[simp] theorem State.setThread_fw (s : State) (k : Nat) (x : Thread) : (s.setThread k x).fw = s.fw := rfl
@[simp] theorem State.setThread_sec (s : State) (k : Nat) (x : Thread) : (s.setThread k x).sec = s.sec := rfl
@[simp] theorem State.setThread_thread_self (s : State) (k : Nat) (x : Thread) : (s.setThread k x).thread k = x := Tab.get_set_self ..
theorem State.setThread_thread_ne (s : State) (k j : Nat) (x : Thread) (h : j ≠ k) : (s.setThread k x).thread j = s.thread j := Tab.get_set_ne _ _ _ _ _ h
theorem State.setThread_thread (s : State) (k j : Nat) (x : Thread) : (s.setThread k x).thread j = if j = k then x else s.thread j := Tab.get_set ..
@[simp] theorem State.setThread_convoy (s : State) (k j : Nat) (x : Thread) : (s.setThread k x).convoy j = s.convoy j := rfl
@[simp] theorem State.setThread_crew (s : State) (k j : Nat) (x : Thread) : (s.setThread k x).crew j = s.crew j := rfl
@[simp] theorem State.setThread_run (s : State) (k j : Nat) (x : Thread) : (s.setThread k x).run j = s.run j := rfl
@[simp] theorem State.setThread_core (s : State) (k j : Nat) (x : Thread) : (s.setThread k x).core j = s.core j := rfl
@[simp] theorem State.setThread_island (s : State) (k j : Nat) (x : Thread) : (s.setThread k x).island j = s.island j := rfl
@[simp] theorem State.setThread_dom (s : State) (k j : Nat) (x : Thread) : (s.setThread k x).dom j = s.dom j := rfl
@[simp] theorem State.setThread_acct (s : State) (k j : Nat) (x : Thread) : (s.setThread k x).acct j = s.acct j := rfl
@[simp] theorem State.setThread_ctx (s : State) (k j : Nat) (x : Thread) : (s.setThread k x).ctx j = s.ctx j := rfl
@[simp] theorem State.setThread_part (s : State) (k j : Nat) (x : Thread) : (s.setThread k x).part j = s.part j := rfl
@[simp] theorem State.setThread_vd (s : State) (k j : Nat) (x : Thread) : (s.setThread k x).vd j = s.vd j := rfl
@[simp] theorem State.setThread_queue (s : State) (k j : Nat) (x : Thread) : (s.setThread k x).queue j = s.queue j := rfl
@[simp] theorem State.setThread_pchan (s : State) (k j : Nat) (x : Thread) : (s.setThread k x).pchan j = s.pchan j := rfl
@[simp] theorem State.setThread_proc (s : State) (k j : Nat) (x : Thread) : (s.setThread k x).proc j = s.proc j := rfl

/-! ### setConvoy -/

@[simp] theorem State.setConvoy_due (s : State) (k : Nat) (x : Convoy) : (s.setConvoy k x).due = s.due := rfl
@[simp] theorem State.setConvoy_issue (s : State) (k : Nat) (x : Convoy) : (s.setConvoy k x).issue = s.issue := rfl
@[simp] theorem State.setConvoy_barBytes (s : State) (k : Nat) (x : Convoy) : (s.setConvoy k x).barBytes = s.barBytes := rfl
@[simp] theorem State.setConvoy_cur (s : State) (k : Nat) (x : Convoy) : (s.setConvoy k x).cur = s.cur := rfl
@[simp] theorem State.setConvoy_fwIssue (s : State) (k : Nat) (x : Convoy) : (s.setConvoy k x).fwIssue = s.fwIssue := rfl
@[simp] theorem State.setConvoy_turn (s : State) (k : Nat) (x : Convoy) : (s.setConvoy k x).turn = s.turn := rfl
@[simp] theorem State.setConvoy_fresh (s : State) (k : Nat) (x : Convoy) : (s.setConvoy k x).fresh = s.fresh := rfl
@[simp] theorem State.setConvoy_threads (s : State) (k : Nat) (x : Convoy) : (s.setConvoy k x).threads = s.threads := rfl
@[simp] theorem State.setConvoy_convoys (s : State) (k : Nat) (x : Convoy) : (s.setConvoy k x).convoys = Tab.set {} k x s.convoys := rfl
@[simp] theorem State.setConvoy_words (s : State) (k : Nat) (x : Convoy) : (s.setConvoy k x).words = s.words := rfl
@[simp] theorem State.setConvoy_laybys (s : State) (k : Nat) (x : Convoy) : (s.setConvoy k x).laybys = s.laybys := rfl
@[simp] theorem State.setConvoy_crews (s : State) (k : Nat) (x : Convoy) : (s.setConvoy k x).crews = s.crews := rfl
@[simp] theorem State.setConvoy_runs (s : State) (k : Nat) (x : Convoy) : (s.setConvoy k x).runs = s.runs := rfl
@[simp] theorem State.setConvoy_cores (s : State) (k : Nat) (x : Convoy) : (s.setConvoy k x).cores = s.cores := rfl
@[simp] theorem State.setConvoy_islands (s : State) (k : Nat) (x : Convoy) : (s.setConvoy k x).islands = s.islands := rfl
@[simp] theorem State.setConvoy_doms (s : State) (k : Nat) (x : Convoy) : (s.setConvoy k x).doms = s.doms := rfl
@[simp] theorem State.setConvoy_accts (s : State) (k : Nat) (x : Convoy) : (s.setConvoy k x).accts = s.accts := rfl
@[simp] theorem State.setConvoy_mem (s : State) (k : Nat) (x : Convoy) : (s.setConvoy k x).mem = s.mem := rfl
@[simp] theorem State.setConvoy_stage (s : State) (k : Nat) (x : Convoy) : (s.setConvoy k x).stage = s.stage := rfl
@[simp] theorem State.setConvoy_acc (s : State) (k : Nat) (x : Convoy) : (s.setConvoy k x).acc = s.acc := rfl
@[simp] theorem State.setConvoy_ob (s : State) (k : Nat) (x : Convoy) : (s.setConvoy k x).ob = s.ob := rfl
@[simp] theorem State.setConvoy_flight (s : State) (k : Nat) (x : Convoy) : (s.setConvoy k x).flight = s.flight := rfl
@[simp] theorem State.setConvoy_msc (s : State) (k : Nat) (x : Convoy) : (s.setConvoy k x).msc = s.msc := rfl
@[simp] theorem State.setConvoy_sealing (s : State) (k : Nat) (x : Convoy) : (s.setConvoy k x).sealing = s.sealing := rfl
@[simp] theorem State.setConvoy_hbm (s : State) (k : Nat) (x : Convoy) : (s.setConvoy k x).hbm = s.hbm := rfl
@[simp] theorem State.setConvoy_scrub (s : State) (k : Nat) (x : Convoy) : (s.setConvoy k x).scrub = s.scrub := rfl
@[simp] theorem State.setConvoy_ctxs (s : State) (k : Nat) (x : Convoy) : (s.setConvoy k x).ctxs = s.ctxs := rfl
@[simp] theorem State.setConvoy_parts (s : State) (k : Nat) (x : Convoy) : (s.setConvoy k x).parts = s.parts := rfl
@[simp] theorem State.setConvoy_vds (s : State) (k : Nat) (x : Convoy) : (s.setConvoy k x).vds = s.vds := rfl
@[simp] theorem State.setConvoy_queues (s : State) (k : Nat) (x : Convoy) : (s.setConvoy k x).queues = s.queues := rfl
@[simp] theorem State.setConvoy_host (s : State) (k : Nat) (x : Convoy) : (s.setConvoy k x).host = s.host := rfl
@[simp] theorem State.setConvoy_power (s : State) (k : Nat) (x : Convoy) : (s.setConvoy k x).power = s.power := rfl
@[simp] theorem State.setConvoy_fabric (s : State) (k : Nat) (x : Convoy) : (s.setConvoy k x).fabric = s.fabric := rfl
@[simp] theorem State.setConvoy_fw (s : State) (k : Nat) (x : Convoy) : (s.setConvoy k x).fw = s.fw := rfl
@[simp] theorem State.setConvoy_sec (s : State) (k : Nat) (x : Convoy) : (s.setConvoy k x).sec = s.sec := rfl
@[simp] theorem State.setConvoy_thread (s : State) (k j : Nat) (x : Convoy) : (s.setConvoy k x).thread j = s.thread j := rfl
@[simp] theorem State.setConvoy_convoy_self (s : State) (k : Nat) (x : Convoy) : (s.setConvoy k x).convoy k = x := Tab.get_set_self ..
theorem State.setConvoy_convoy_ne (s : State) (k j : Nat) (x : Convoy) (h : j ≠ k) : (s.setConvoy k x).convoy j = s.convoy j := Tab.get_set_ne _ _ _ _ _ h
theorem State.setConvoy_convoy (s : State) (k j : Nat) (x : Convoy) : (s.setConvoy k x).convoy j = if j = k then x else s.convoy j := Tab.get_set ..
@[simp] theorem State.setConvoy_crew (s : State) (k j : Nat) (x : Convoy) : (s.setConvoy k x).crew j = s.crew j := rfl
@[simp] theorem State.setConvoy_run (s : State) (k j : Nat) (x : Convoy) : (s.setConvoy k x).run j = s.run j := rfl
@[simp] theorem State.setConvoy_core (s : State) (k j : Nat) (x : Convoy) : (s.setConvoy k x).core j = s.core j := rfl
@[simp] theorem State.setConvoy_island (s : State) (k j : Nat) (x : Convoy) : (s.setConvoy k x).island j = s.island j := rfl
@[simp] theorem State.setConvoy_dom (s : State) (k j : Nat) (x : Convoy) : (s.setConvoy k x).dom j = s.dom j := rfl
@[simp] theorem State.setConvoy_acct (s : State) (k j : Nat) (x : Convoy) : (s.setConvoy k x).acct j = s.acct j := rfl
@[simp] theorem State.setConvoy_ctx (s : State) (k j : Nat) (x : Convoy) : (s.setConvoy k x).ctx j = s.ctx j := rfl
@[simp] theorem State.setConvoy_part (s : State) (k j : Nat) (x : Convoy) : (s.setConvoy k x).part j = s.part j := rfl
@[simp] theorem State.setConvoy_vd (s : State) (k j : Nat) (x : Convoy) : (s.setConvoy k x).vd j = s.vd j := rfl
@[simp] theorem State.setConvoy_queue (s : State) (k j : Nat) (x : Convoy) : (s.setConvoy k x).queue j = s.queue j := rfl
@[simp] theorem State.setConvoy_pchan (s : State) (k j : Nat) (x : Convoy) : (s.setConvoy k x).pchan j = s.pchan j := rfl
@[simp] theorem State.setConvoy_proc (s : State) (k j : Nat) (x : Convoy) : (s.setConvoy k x).proc j = s.proc j := rfl

/-! ### setCrew -/

@[simp] theorem State.setCrew_due (s : State) (k : Nat) (x : Crew) : (s.setCrew k x).due = s.due := rfl
@[simp] theorem State.setCrew_issue (s : State) (k : Nat) (x : Crew) : (s.setCrew k x).issue = s.issue := rfl
@[simp] theorem State.setCrew_barBytes (s : State) (k : Nat) (x : Crew) : (s.setCrew k x).barBytes = s.barBytes := rfl
@[simp] theorem State.setCrew_cur (s : State) (k : Nat) (x : Crew) : (s.setCrew k x).cur = s.cur := rfl
@[simp] theorem State.setCrew_fwIssue (s : State) (k : Nat) (x : Crew) : (s.setCrew k x).fwIssue = s.fwIssue := rfl
@[simp] theorem State.setCrew_turn (s : State) (k : Nat) (x : Crew) : (s.setCrew k x).turn = s.turn := rfl
@[simp] theorem State.setCrew_fresh (s : State) (k : Nat) (x : Crew) : (s.setCrew k x).fresh = s.fresh := rfl
@[simp] theorem State.setCrew_threads (s : State) (k : Nat) (x : Crew) : (s.setCrew k x).threads = s.threads := rfl
@[simp] theorem State.setCrew_convoys (s : State) (k : Nat) (x : Crew) : (s.setCrew k x).convoys = s.convoys := rfl
@[simp] theorem State.setCrew_words (s : State) (k : Nat) (x : Crew) : (s.setCrew k x).words = s.words := rfl
@[simp] theorem State.setCrew_laybys (s : State) (k : Nat) (x : Crew) : (s.setCrew k x).laybys = s.laybys := rfl
@[simp] theorem State.setCrew_crews (s : State) (k : Nat) (x : Crew) : (s.setCrew k x).crews = Tab.set {} k x s.crews := rfl
@[simp] theorem State.setCrew_runs (s : State) (k : Nat) (x : Crew) : (s.setCrew k x).runs = s.runs := rfl
@[simp] theorem State.setCrew_cores (s : State) (k : Nat) (x : Crew) : (s.setCrew k x).cores = s.cores := rfl
@[simp] theorem State.setCrew_islands (s : State) (k : Nat) (x : Crew) : (s.setCrew k x).islands = s.islands := rfl
@[simp] theorem State.setCrew_doms (s : State) (k : Nat) (x : Crew) : (s.setCrew k x).doms = s.doms := rfl
@[simp] theorem State.setCrew_accts (s : State) (k : Nat) (x : Crew) : (s.setCrew k x).accts = s.accts := rfl
@[simp] theorem State.setCrew_mem (s : State) (k : Nat) (x : Crew) : (s.setCrew k x).mem = s.mem := rfl
@[simp] theorem State.setCrew_stage (s : State) (k : Nat) (x : Crew) : (s.setCrew k x).stage = s.stage := rfl
@[simp] theorem State.setCrew_acc (s : State) (k : Nat) (x : Crew) : (s.setCrew k x).acc = s.acc := rfl
@[simp] theorem State.setCrew_ob (s : State) (k : Nat) (x : Crew) : (s.setCrew k x).ob = s.ob := rfl
@[simp] theorem State.setCrew_flight (s : State) (k : Nat) (x : Crew) : (s.setCrew k x).flight = s.flight := rfl
@[simp] theorem State.setCrew_msc (s : State) (k : Nat) (x : Crew) : (s.setCrew k x).msc = s.msc := rfl
@[simp] theorem State.setCrew_sealing (s : State) (k : Nat) (x : Crew) : (s.setCrew k x).sealing = s.sealing := rfl
@[simp] theorem State.setCrew_hbm (s : State) (k : Nat) (x : Crew) : (s.setCrew k x).hbm = s.hbm := rfl
@[simp] theorem State.setCrew_scrub (s : State) (k : Nat) (x : Crew) : (s.setCrew k x).scrub = s.scrub := rfl
@[simp] theorem State.setCrew_ctxs (s : State) (k : Nat) (x : Crew) : (s.setCrew k x).ctxs = s.ctxs := rfl
@[simp] theorem State.setCrew_parts (s : State) (k : Nat) (x : Crew) : (s.setCrew k x).parts = s.parts := rfl
@[simp] theorem State.setCrew_vds (s : State) (k : Nat) (x : Crew) : (s.setCrew k x).vds = s.vds := rfl
@[simp] theorem State.setCrew_queues (s : State) (k : Nat) (x : Crew) : (s.setCrew k x).queues = s.queues := rfl
@[simp] theorem State.setCrew_host (s : State) (k : Nat) (x : Crew) : (s.setCrew k x).host = s.host := rfl
@[simp] theorem State.setCrew_power (s : State) (k : Nat) (x : Crew) : (s.setCrew k x).power = s.power := rfl
@[simp] theorem State.setCrew_fabric (s : State) (k : Nat) (x : Crew) : (s.setCrew k x).fabric = s.fabric := rfl
@[simp] theorem State.setCrew_fw (s : State) (k : Nat) (x : Crew) : (s.setCrew k x).fw = s.fw := rfl
@[simp] theorem State.setCrew_sec (s : State) (k : Nat) (x : Crew) : (s.setCrew k x).sec = s.sec := rfl
@[simp] theorem State.setCrew_thread (s : State) (k j : Nat) (x : Crew) : (s.setCrew k x).thread j = s.thread j := rfl
@[simp] theorem State.setCrew_convoy (s : State) (k j : Nat) (x : Crew) : (s.setCrew k x).convoy j = s.convoy j := rfl
@[simp] theorem State.setCrew_crew_self (s : State) (k : Nat) (x : Crew) : (s.setCrew k x).crew k = x := Tab.get_set_self ..
theorem State.setCrew_crew_ne (s : State) (k j : Nat) (x : Crew) (h : j ≠ k) : (s.setCrew k x).crew j = s.crew j := Tab.get_set_ne _ _ _ _ _ h
theorem State.setCrew_crew (s : State) (k j : Nat) (x : Crew) : (s.setCrew k x).crew j = if j = k then x else s.crew j := Tab.get_set ..
@[simp] theorem State.setCrew_run (s : State) (k j : Nat) (x : Crew) : (s.setCrew k x).run j = s.run j := rfl
@[simp] theorem State.setCrew_core (s : State) (k j : Nat) (x : Crew) : (s.setCrew k x).core j = s.core j := rfl
@[simp] theorem State.setCrew_island (s : State) (k j : Nat) (x : Crew) : (s.setCrew k x).island j = s.island j := rfl
@[simp] theorem State.setCrew_dom (s : State) (k j : Nat) (x : Crew) : (s.setCrew k x).dom j = s.dom j := rfl
@[simp] theorem State.setCrew_acct (s : State) (k j : Nat) (x : Crew) : (s.setCrew k x).acct j = s.acct j := rfl
@[simp] theorem State.setCrew_ctx (s : State) (k j : Nat) (x : Crew) : (s.setCrew k x).ctx j = s.ctx j := rfl
@[simp] theorem State.setCrew_part (s : State) (k j : Nat) (x : Crew) : (s.setCrew k x).part j = s.part j := rfl
@[simp] theorem State.setCrew_vd (s : State) (k j : Nat) (x : Crew) : (s.setCrew k x).vd j = s.vd j := rfl
@[simp] theorem State.setCrew_queue (s : State) (k j : Nat) (x : Crew) : (s.setCrew k x).queue j = s.queue j := rfl
@[simp] theorem State.setCrew_pchan (s : State) (k j : Nat) (x : Crew) : (s.setCrew k x).pchan j = s.pchan j := rfl
@[simp] theorem State.setCrew_proc (s : State) (k j : Nat) (x : Crew) : (s.setCrew k x).proc j = s.proc j := rfl

/-! ### setRun -/

@[simp] theorem State.setRun_due (s : State) (k : Nat) (x : Run) : (s.setRun k x).due = s.due := rfl
@[simp] theorem State.setRun_issue (s : State) (k : Nat) (x : Run) : (s.setRun k x).issue = s.issue := rfl
@[simp] theorem State.setRun_barBytes (s : State) (k : Nat) (x : Run) : (s.setRun k x).barBytes = s.barBytes := rfl
@[simp] theorem State.setRun_cur (s : State) (k : Nat) (x : Run) : (s.setRun k x).cur = s.cur := rfl
@[simp] theorem State.setRun_fwIssue (s : State) (k : Nat) (x : Run) : (s.setRun k x).fwIssue = s.fwIssue := rfl
@[simp] theorem State.setRun_turn (s : State) (k : Nat) (x : Run) : (s.setRun k x).turn = s.turn := rfl
@[simp] theorem State.setRun_fresh (s : State) (k : Nat) (x : Run) : (s.setRun k x).fresh = s.fresh := rfl
@[simp] theorem State.setRun_threads (s : State) (k : Nat) (x : Run) : (s.setRun k x).threads = s.threads := rfl
@[simp] theorem State.setRun_convoys (s : State) (k : Nat) (x : Run) : (s.setRun k x).convoys = s.convoys := rfl
@[simp] theorem State.setRun_words (s : State) (k : Nat) (x : Run) : (s.setRun k x).words = s.words := rfl
@[simp] theorem State.setRun_laybys (s : State) (k : Nat) (x : Run) : (s.setRun k x).laybys = s.laybys := rfl
@[simp] theorem State.setRun_crews (s : State) (k : Nat) (x : Run) : (s.setRun k x).crews = s.crews := rfl
@[simp] theorem State.setRun_runs (s : State) (k : Nat) (x : Run) : (s.setRun k x).runs = Tab.set {} k x s.runs := rfl
@[simp] theorem State.setRun_cores (s : State) (k : Nat) (x : Run) : (s.setRun k x).cores = s.cores := rfl
@[simp] theorem State.setRun_islands (s : State) (k : Nat) (x : Run) : (s.setRun k x).islands = s.islands := rfl
@[simp] theorem State.setRun_doms (s : State) (k : Nat) (x : Run) : (s.setRun k x).doms = s.doms := rfl
@[simp] theorem State.setRun_accts (s : State) (k : Nat) (x : Run) : (s.setRun k x).accts = s.accts := rfl
@[simp] theorem State.setRun_mem (s : State) (k : Nat) (x : Run) : (s.setRun k x).mem = s.mem := rfl
@[simp] theorem State.setRun_stage (s : State) (k : Nat) (x : Run) : (s.setRun k x).stage = s.stage := rfl
@[simp] theorem State.setRun_acc (s : State) (k : Nat) (x : Run) : (s.setRun k x).acc = s.acc := rfl
@[simp] theorem State.setRun_ob (s : State) (k : Nat) (x : Run) : (s.setRun k x).ob = s.ob := rfl
@[simp] theorem State.setRun_flight (s : State) (k : Nat) (x : Run) : (s.setRun k x).flight = s.flight := rfl
@[simp] theorem State.setRun_msc (s : State) (k : Nat) (x : Run) : (s.setRun k x).msc = s.msc := rfl
@[simp] theorem State.setRun_sealing (s : State) (k : Nat) (x : Run) : (s.setRun k x).sealing = s.sealing := rfl
@[simp] theorem State.setRun_hbm (s : State) (k : Nat) (x : Run) : (s.setRun k x).hbm = s.hbm := rfl
@[simp] theorem State.setRun_scrub (s : State) (k : Nat) (x : Run) : (s.setRun k x).scrub = s.scrub := rfl
@[simp] theorem State.setRun_ctxs (s : State) (k : Nat) (x : Run) : (s.setRun k x).ctxs = s.ctxs := rfl
@[simp] theorem State.setRun_parts (s : State) (k : Nat) (x : Run) : (s.setRun k x).parts = s.parts := rfl
@[simp] theorem State.setRun_vds (s : State) (k : Nat) (x : Run) : (s.setRun k x).vds = s.vds := rfl
@[simp] theorem State.setRun_queues (s : State) (k : Nat) (x : Run) : (s.setRun k x).queues = s.queues := rfl
@[simp] theorem State.setRun_host (s : State) (k : Nat) (x : Run) : (s.setRun k x).host = s.host := rfl
@[simp] theorem State.setRun_power (s : State) (k : Nat) (x : Run) : (s.setRun k x).power = s.power := rfl
@[simp] theorem State.setRun_fabric (s : State) (k : Nat) (x : Run) : (s.setRun k x).fabric = s.fabric := rfl
@[simp] theorem State.setRun_fw (s : State) (k : Nat) (x : Run) : (s.setRun k x).fw = s.fw := rfl
@[simp] theorem State.setRun_sec (s : State) (k : Nat) (x : Run) : (s.setRun k x).sec = s.sec := rfl
@[simp] theorem State.setRun_thread (s : State) (k j : Nat) (x : Run) : (s.setRun k x).thread j = s.thread j := rfl
@[simp] theorem State.setRun_convoy (s : State) (k j : Nat) (x : Run) : (s.setRun k x).convoy j = s.convoy j := rfl
@[simp] theorem State.setRun_crew (s : State) (k j : Nat) (x : Run) : (s.setRun k x).crew j = s.crew j := rfl
@[simp] theorem State.setRun_run_self (s : State) (k : Nat) (x : Run) : (s.setRun k x).run k = x := Tab.get_set_self ..
theorem State.setRun_run_ne (s : State) (k j : Nat) (x : Run) (h : j ≠ k) : (s.setRun k x).run j = s.run j := Tab.get_set_ne _ _ _ _ _ h
theorem State.setRun_run (s : State) (k j : Nat) (x : Run) : (s.setRun k x).run j = if j = k then x else s.run j := Tab.get_set ..
@[simp] theorem State.setRun_core (s : State) (k j : Nat) (x : Run) : (s.setRun k x).core j = s.core j := rfl
@[simp] theorem State.setRun_island (s : State) (k j : Nat) (x : Run) : (s.setRun k x).island j = s.island j := rfl
@[simp] theorem State.setRun_dom (s : State) (k j : Nat) (x : Run) : (s.setRun k x).dom j = s.dom j := rfl
@[simp] theorem State.setRun_acct (s : State) (k j : Nat) (x : Run) : (s.setRun k x).acct j = s.acct j := rfl
@[simp] theorem State.setRun_ctx (s : State) (k j : Nat) (x : Run) : (s.setRun k x).ctx j = s.ctx j := rfl
@[simp] theorem State.setRun_part (s : State) (k j : Nat) (x : Run) : (s.setRun k x).part j = s.part j := rfl
@[simp] theorem State.setRun_vd (s : State) (k j : Nat) (x : Run) : (s.setRun k x).vd j = s.vd j := rfl
@[simp] theorem State.setRun_queue (s : State) (k j : Nat) (x : Run) : (s.setRun k x).queue j = s.queue j := rfl
@[simp] theorem State.setRun_pchan (s : State) (k j : Nat) (x : Run) : (s.setRun k x).pchan j = s.pchan j := rfl
@[simp] theorem State.setRun_proc (s : State) (k j : Nat) (x : Run) : (s.setRun k x).proc j = s.proc j := rfl

/-! ### setCore -/

@[simp] theorem State.setCore_due (s : State) (k : Nat) (x : Core) : (s.setCore k x).due = s.due := rfl
@[simp] theorem State.setCore_issue (s : State) (k : Nat) (x : Core) : (s.setCore k x).issue = s.issue := rfl
@[simp] theorem State.setCore_barBytes (s : State) (k : Nat) (x : Core) : (s.setCore k x).barBytes = s.barBytes := rfl
@[simp] theorem State.setCore_cur (s : State) (k : Nat) (x : Core) : (s.setCore k x).cur = s.cur := rfl
@[simp] theorem State.setCore_fwIssue (s : State) (k : Nat) (x : Core) : (s.setCore k x).fwIssue = s.fwIssue := rfl
@[simp] theorem State.setCore_turn (s : State) (k : Nat) (x : Core) : (s.setCore k x).turn = s.turn := rfl
@[simp] theorem State.setCore_fresh (s : State) (k : Nat) (x : Core) : (s.setCore k x).fresh = s.fresh := rfl
@[simp] theorem State.setCore_threads (s : State) (k : Nat) (x : Core) : (s.setCore k x).threads = s.threads := rfl
@[simp] theorem State.setCore_convoys (s : State) (k : Nat) (x : Core) : (s.setCore k x).convoys = s.convoys := rfl
@[simp] theorem State.setCore_words (s : State) (k : Nat) (x : Core) : (s.setCore k x).words = s.words := rfl
@[simp] theorem State.setCore_laybys (s : State) (k : Nat) (x : Core) : (s.setCore k x).laybys = s.laybys := rfl
@[simp] theorem State.setCore_crews (s : State) (k : Nat) (x : Core) : (s.setCore k x).crews = s.crews := rfl
@[simp] theorem State.setCore_runs (s : State) (k : Nat) (x : Core) : (s.setCore k x).runs = s.runs := rfl
@[simp] theorem State.setCore_cores (s : State) (k : Nat) (x : Core) : (s.setCore k x).cores = Tab.set {} k x s.cores := rfl
@[simp] theorem State.setCore_islands (s : State) (k : Nat) (x : Core) : (s.setCore k x).islands = s.islands := rfl
@[simp] theorem State.setCore_doms (s : State) (k : Nat) (x : Core) : (s.setCore k x).doms = s.doms := rfl
@[simp] theorem State.setCore_accts (s : State) (k : Nat) (x : Core) : (s.setCore k x).accts = s.accts := rfl
@[simp] theorem State.setCore_mem (s : State) (k : Nat) (x : Core) : (s.setCore k x).mem = s.mem := rfl
@[simp] theorem State.setCore_stage (s : State) (k : Nat) (x : Core) : (s.setCore k x).stage = s.stage := rfl
@[simp] theorem State.setCore_acc (s : State) (k : Nat) (x : Core) : (s.setCore k x).acc = s.acc := rfl
@[simp] theorem State.setCore_ob (s : State) (k : Nat) (x : Core) : (s.setCore k x).ob = s.ob := rfl
@[simp] theorem State.setCore_flight (s : State) (k : Nat) (x : Core) : (s.setCore k x).flight = s.flight := rfl
@[simp] theorem State.setCore_msc (s : State) (k : Nat) (x : Core) : (s.setCore k x).msc = s.msc := rfl
@[simp] theorem State.setCore_sealing (s : State) (k : Nat) (x : Core) : (s.setCore k x).sealing = s.sealing := rfl
@[simp] theorem State.setCore_hbm (s : State) (k : Nat) (x : Core) : (s.setCore k x).hbm = s.hbm := rfl
@[simp] theorem State.setCore_scrub (s : State) (k : Nat) (x : Core) : (s.setCore k x).scrub = s.scrub := rfl
@[simp] theorem State.setCore_ctxs (s : State) (k : Nat) (x : Core) : (s.setCore k x).ctxs = s.ctxs := rfl
@[simp] theorem State.setCore_parts (s : State) (k : Nat) (x : Core) : (s.setCore k x).parts = s.parts := rfl
@[simp] theorem State.setCore_vds (s : State) (k : Nat) (x : Core) : (s.setCore k x).vds = s.vds := rfl
@[simp] theorem State.setCore_queues (s : State) (k : Nat) (x : Core) : (s.setCore k x).queues = s.queues := rfl
@[simp] theorem State.setCore_host (s : State) (k : Nat) (x : Core) : (s.setCore k x).host = s.host := rfl
@[simp] theorem State.setCore_power (s : State) (k : Nat) (x : Core) : (s.setCore k x).power = s.power := rfl
@[simp] theorem State.setCore_fabric (s : State) (k : Nat) (x : Core) : (s.setCore k x).fabric = s.fabric := rfl
@[simp] theorem State.setCore_fw (s : State) (k : Nat) (x : Core) : (s.setCore k x).fw = s.fw := rfl
@[simp] theorem State.setCore_sec (s : State) (k : Nat) (x : Core) : (s.setCore k x).sec = s.sec := rfl
@[simp] theorem State.setCore_thread (s : State) (k j : Nat) (x : Core) : (s.setCore k x).thread j = s.thread j := rfl
@[simp] theorem State.setCore_convoy (s : State) (k j : Nat) (x : Core) : (s.setCore k x).convoy j = s.convoy j := rfl
@[simp] theorem State.setCore_crew (s : State) (k j : Nat) (x : Core) : (s.setCore k x).crew j = s.crew j := rfl
@[simp] theorem State.setCore_run (s : State) (k j : Nat) (x : Core) : (s.setCore k x).run j = s.run j := rfl
@[simp] theorem State.setCore_core_self (s : State) (k : Nat) (x : Core) : (s.setCore k x).core k = x := Tab.get_set_self ..
theorem State.setCore_core_ne (s : State) (k j : Nat) (x : Core) (h : j ≠ k) : (s.setCore k x).core j = s.core j := Tab.get_set_ne _ _ _ _ _ h
theorem State.setCore_core (s : State) (k j : Nat) (x : Core) : (s.setCore k x).core j = if j = k then x else s.core j := Tab.get_set ..
@[simp] theorem State.setCore_island (s : State) (k j : Nat) (x : Core) : (s.setCore k x).island j = s.island j := rfl
@[simp] theorem State.setCore_dom (s : State) (k j : Nat) (x : Core) : (s.setCore k x).dom j = s.dom j := rfl
@[simp] theorem State.setCore_acct (s : State) (k j : Nat) (x : Core) : (s.setCore k x).acct j = s.acct j := rfl
@[simp] theorem State.setCore_ctx (s : State) (k j : Nat) (x : Core) : (s.setCore k x).ctx j = s.ctx j := rfl
@[simp] theorem State.setCore_part (s : State) (k j : Nat) (x : Core) : (s.setCore k x).part j = s.part j := rfl
@[simp] theorem State.setCore_vd (s : State) (k j : Nat) (x : Core) : (s.setCore k x).vd j = s.vd j := rfl
@[simp] theorem State.setCore_queue (s : State) (k j : Nat) (x : Core) : (s.setCore k x).queue j = s.queue j := rfl
@[simp] theorem State.setCore_pchan (s : State) (k j : Nat) (x : Core) : (s.setCore k x).pchan j = s.pchan j := rfl
@[simp] theorem State.setCore_proc (s : State) (k j : Nat) (x : Core) : (s.setCore k x).proc j = s.proc j := rfl

/-! ### setIsland -/

@[simp] theorem State.setIsland_due (s : State) (k : Nat) (x : Island) : (s.setIsland k x).due = s.due := rfl
@[simp] theorem State.setIsland_issue (s : State) (k : Nat) (x : Island) : (s.setIsland k x).issue = s.issue := rfl
@[simp] theorem State.setIsland_barBytes (s : State) (k : Nat) (x : Island) : (s.setIsland k x).barBytes = s.barBytes := rfl
@[simp] theorem State.setIsland_cur (s : State) (k : Nat) (x : Island) : (s.setIsland k x).cur = s.cur := rfl
@[simp] theorem State.setIsland_fwIssue (s : State) (k : Nat) (x : Island) : (s.setIsland k x).fwIssue = s.fwIssue := rfl
@[simp] theorem State.setIsland_turn (s : State) (k : Nat) (x : Island) : (s.setIsland k x).turn = s.turn := rfl
@[simp] theorem State.setIsland_fresh (s : State) (k : Nat) (x : Island) : (s.setIsland k x).fresh = s.fresh := rfl
@[simp] theorem State.setIsland_threads (s : State) (k : Nat) (x : Island) : (s.setIsland k x).threads = s.threads := rfl
@[simp] theorem State.setIsland_convoys (s : State) (k : Nat) (x : Island) : (s.setIsland k x).convoys = s.convoys := rfl
@[simp] theorem State.setIsland_words (s : State) (k : Nat) (x : Island) : (s.setIsland k x).words = s.words := rfl
@[simp] theorem State.setIsland_laybys (s : State) (k : Nat) (x : Island) : (s.setIsland k x).laybys = s.laybys := rfl
@[simp] theorem State.setIsland_crews (s : State) (k : Nat) (x : Island) : (s.setIsland k x).crews = s.crews := rfl
@[simp] theorem State.setIsland_runs (s : State) (k : Nat) (x : Island) : (s.setIsland k x).runs = s.runs := rfl
@[simp] theorem State.setIsland_cores (s : State) (k : Nat) (x : Island) : (s.setIsland k x).cores = s.cores := rfl
@[simp] theorem State.setIsland_islands (s : State) (k : Nat) (x : Island) : (s.setIsland k x).islands = Tab.set {} k x s.islands := rfl
@[simp] theorem State.setIsland_doms (s : State) (k : Nat) (x : Island) : (s.setIsland k x).doms = s.doms := rfl
@[simp] theorem State.setIsland_accts (s : State) (k : Nat) (x : Island) : (s.setIsland k x).accts = s.accts := rfl
@[simp] theorem State.setIsland_mem (s : State) (k : Nat) (x : Island) : (s.setIsland k x).mem = s.mem := rfl
@[simp] theorem State.setIsland_stage (s : State) (k : Nat) (x : Island) : (s.setIsland k x).stage = s.stage := rfl
@[simp] theorem State.setIsland_acc (s : State) (k : Nat) (x : Island) : (s.setIsland k x).acc = s.acc := rfl
@[simp] theorem State.setIsland_ob (s : State) (k : Nat) (x : Island) : (s.setIsland k x).ob = s.ob := rfl
@[simp] theorem State.setIsland_flight (s : State) (k : Nat) (x : Island) : (s.setIsland k x).flight = s.flight := rfl
@[simp] theorem State.setIsland_msc (s : State) (k : Nat) (x : Island) : (s.setIsland k x).msc = s.msc := rfl
@[simp] theorem State.setIsland_sealing (s : State) (k : Nat) (x : Island) : (s.setIsland k x).sealing = s.sealing := rfl
@[simp] theorem State.setIsland_hbm (s : State) (k : Nat) (x : Island) : (s.setIsland k x).hbm = s.hbm := rfl
@[simp] theorem State.setIsland_scrub (s : State) (k : Nat) (x : Island) : (s.setIsland k x).scrub = s.scrub := rfl
@[simp] theorem State.setIsland_ctxs (s : State) (k : Nat) (x : Island) : (s.setIsland k x).ctxs = s.ctxs := rfl
@[simp] theorem State.setIsland_parts (s : State) (k : Nat) (x : Island) : (s.setIsland k x).parts = s.parts := rfl
@[simp] theorem State.setIsland_vds (s : State) (k : Nat) (x : Island) : (s.setIsland k x).vds = s.vds := rfl
@[simp] theorem State.setIsland_queues (s : State) (k : Nat) (x : Island) : (s.setIsland k x).queues = s.queues := rfl
@[simp] theorem State.setIsland_host (s : State) (k : Nat) (x : Island) : (s.setIsland k x).host = s.host := rfl
@[simp] theorem State.setIsland_power (s : State) (k : Nat) (x : Island) : (s.setIsland k x).power = s.power := rfl
@[simp] theorem State.setIsland_fabric (s : State) (k : Nat) (x : Island) : (s.setIsland k x).fabric = s.fabric := rfl
@[simp] theorem State.setIsland_fw (s : State) (k : Nat) (x : Island) : (s.setIsland k x).fw = s.fw := rfl
@[simp] theorem State.setIsland_sec (s : State) (k : Nat) (x : Island) : (s.setIsland k x).sec = s.sec := rfl
@[simp] theorem State.setIsland_thread (s : State) (k j : Nat) (x : Island) : (s.setIsland k x).thread j = s.thread j := rfl
@[simp] theorem State.setIsland_convoy (s : State) (k j : Nat) (x : Island) : (s.setIsland k x).convoy j = s.convoy j := rfl
@[simp] theorem State.setIsland_crew (s : State) (k j : Nat) (x : Island) : (s.setIsland k x).crew j = s.crew j := rfl
@[simp] theorem State.setIsland_run (s : State) (k j : Nat) (x : Island) : (s.setIsland k x).run j = s.run j := rfl
@[simp] theorem State.setIsland_core (s : State) (k j : Nat) (x : Island) : (s.setIsland k x).core j = s.core j := rfl
@[simp] theorem State.setIsland_island_self (s : State) (k : Nat) (x : Island) : (s.setIsland k x).island k = x := Tab.get_set_self ..
theorem State.setIsland_island_ne (s : State) (k j : Nat) (x : Island) (h : j ≠ k) : (s.setIsland k x).island j = s.island j := Tab.get_set_ne _ _ _ _ _ h
theorem State.setIsland_island (s : State) (k j : Nat) (x : Island) : (s.setIsland k x).island j = if j = k then x else s.island j := Tab.get_set ..
@[simp] theorem State.setIsland_dom (s : State) (k j : Nat) (x : Island) : (s.setIsland k x).dom j = s.dom j := rfl
@[simp] theorem State.setIsland_acct (s : State) (k j : Nat) (x : Island) : (s.setIsland k x).acct j = s.acct j := rfl
@[simp] theorem State.setIsland_ctx (s : State) (k j : Nat) (x : Island) : (s.setIsland k x).ctx j = s.ctx j := rfl
@[simp] theorem State.setIsland_part (s : State) (k j : Nat) (x : Island) : (s.setIsland k x).part j = s.part j := rfl
@[simp] theorem State.setIsland_vd (s : State) (k j : Nat) (x : Island) : (s.setIsland k x).vd j = s.vd j := rfl
@[simp] theorem State.setIsland_queue (s : State) (k j : Nat) (x : Island) : (s.setIsland k x).queue j = s.queue j := rfl
@[simp] theorem State.setIsland_pchan (s : State) (k j : Nat) (x : Island) : (s.setIsland k x).pchan j = s.pchan j := rfl
@[simp] theorem State.setIsland_proc (s : State) (k j : Nat) (x : Island) : (s.setIsland k x).proc j = s.proc j := rfl

/-! ### setDom -/

@[simp] theorem State.setDom_due (s : State) (k : Nat) (x : Domain) : (s.setDom k x).due = s.due := rfl
@[simp] theorem State.setDom_issue (s : State) (k : Nat) (x : Domain) : (s.setDom k x).issue = s.issue := rfl
@[simp] theorem State.setDom_barBytes (s : State) (k : Nat) (x : Domain) : (s.setDom k x).barBytes = s.barBytes := rfl
@[simp] theorem State.setDom_cur (s : State) (k : Nat) (x : Domain) : (s.setDom k x).cur = s.cur := rfl
@[simp] theorem State.setDom_fwIssue (s : State) (k : Nat) (x : Domain) : (s.setDom k x).fwIssue = s.fwIssue := rfl
@[simp] theorem State.setDom_turn (s : State) (k : Nat) (x : Domain) : (s.setDom k x).turn = s.turn := rfl
@[simp] theorem State.setDom_fresh (s : State) (k : Nat) (x : Domain) : (s.setDom k x).fresh = s.fresh := rfl
@[simp] theorem State.setDom_threads (s : State) (k : Nat) (x : Domain) : (s.setDom k x).threads = s.threads := rfl
@[simp] theorem State.setDom_convoys (s : State) (k : Nat) (x : Domain) : (s.setDom k x).convoys = s.convoys := rfl
@[simp] theorem State.setDom_words (s : State) (k : Nat) (x : Domain) : (s.setDom k x).words = s.words := rfl
@[simp] theorem State.setDom_laybys (s : State) (k : Nat) (x : Domain) : (s.setDom k x).laybys = s.laybys := rfl
@[simp] theorem State.setDom_crews (s : State) (k : Nat) (x : Domain) : (s.setDom k x).crews = s.crews := rfl
@[simp] theorem State.setDom_runs (s : State) (k : Nat) (x : Domain) : (s.setDom k x).runs = s.runs := rfl
@[simp] theorem State.setDom_cores (s : State) (k : Nat) (x : Domain) : (s.setDom k x).cores = s.cores := rfl
@[simp] theorem State.setDom_islands (s : State) (k : Nat) (x : Domain) : (s.setDom k x).islands = s.islands := rfl
@[simp] theorem State.setDom_doms (s : State) (k : Nat) (x : Domain) : (s.setDom k x).doms = Tab.set {} k x s.doms := rfl
@[simp] theorem State.setDom_accts (s : State) (k : Nat) (x : Domain) : (s.setDom k x).accts = s.accts := rfl
@[simp] theorem State.setDom_mem (s : State) (k : Nat) (x : Domain) : (s.setDom k x).mem = s.mem := rfl
@[simp] theorem State.setDom_stage (s : State) (k : Nat) (x : Domain) : (s.setDom k x).stage = s.stage := rfl
@[simp] theorem State.setDom_acc (s : State) (k : Nat) (x : Domain) : (s.setDom k x).acc = s.acc := rfl
@[simp] theorem State.setDom_ob (s : State) (k : Nat) (x : Domain) : (s.setDom k x).ob = s.ob := rfl
@[simp] theorem State.setDom_flight (s : State) (k : Nat) (x : Domain) : (s.setDom k x).flight = s.flight := rfl
@[simp] theorem State.setDom_msc (s : State) (k : Nat) (x : Domain) : (s.setDom k x).msc = s.msc := rfl
@[simp] theorem State.setDom_sealing (s : State) (k : Nat) (x : Domain) : (s.setDom k x).sealing = s.sealing := rfl
@[simp] theorem State.setDom_hbm (s : State) (k : Nat) (x : Domain) : (s.setDom k x).hbm = s.hbm := rfl
@[simp] theorem State.setDom_scrub (s : State) (k : Nat) (x : Domain) : (s.setDom k x).scrub = s.scrub := rfl
@[simp] theorem State.setDom_ctxs (s : State) (k : Nat) (x : Domain) : (s.setDom k x).ctxs = s.ctxs := rfl
@[simp] theorem State.setDom_parts (s : State) (k : Nat) (x : Domain) : (s.setDom k x).parts = s.parts := rfl
@[simp] theorem State.setDom_vds (s : State) (k : Nat) (x : Domain) : (s.setDom k x).vds = s.vds := rfl
@[simp] theorem State.setDom_queues (s : State) (k : Nat) (x : Domain) : (s.setDom k x).queues = s.queues := rfl
@[simp] theorem State.setDom_host (s : State) (k : Nat) (x : Domain) : (s.setDom k x).host = s.host := rfl
@[simp] theorem State.setDom_power (s : State) (k : Nat) (x : Domain) : (s.setDom k x).power = s.power := rfl
@[simp] theorem State.setDom_fabric (s : State) (k : Nat) (x : Domain) : (s.setDom k x).fabric = s.fabric := rfl
@[simp] theorem State.setDom_fw (s : State) (k : Nat) (x : Domain) : (s.setDom k x).fw = s.fw := rfl
@[simp] theorem State.setDom_sec (s : State) (k : Nat) (x : Domain) : (s.setDom k x).sec = s.sec := rfl
@[simp] theorem State.setDom_thread (s : State) (k j : Nat) (x : Domain) : (s.setDom k x).thread j = s.thread j := rfl
@[simp] theorem State.setDom_convoy (s : State) (k j : Nat) (x : Domain) : (s.setDom k x).convoy j = s.convoy j := rfl
@[simp] theorem State.setDom_crew (s : State) (k j : Nat) (x : Domain) : (s.setDom k x).crew j = s.crew j := rfl
@[simp] theorem State.setDom_run (s : State) (k j : Nat) (x : Domain) : (s.setDom k x).run j = s.run j := rfl
@[simp] theorem State.setDom_core (s : State) (k j : Nat) (x : Domain) : (s.setDom k x).core j = s.core j := rfl
@[simp] theorem State.setDom_island (s : State) (k j : Nat) (x : Domain) : (s.setDom k x).island j = s.island j := rfl
@[simp] theorem State.setDom_dom_self (s : State) (k : Nat) (x : Domain) : (s.setDom k x).dom k = x := Tab.get_set_self ..
theorem State.setDom_dom_ne (s : State) (k j : Nat) (x : Domain) (h : j ≠ k) : (s.setDom k x).dom j = s.dom j := Tab.get_set_ne _ _ _ _ _ h
theorem State.setDom_dom (s : State) (k j : Nat) (x : Domain) : (s.setDom k x).dom j = if j = k then x else s.dom j := Tab.get_set ..
@[simp] theorem State.setDom_acct (s : State) (k j : Nat) (x : Domain) : (s.setDom k x).acct j = s.acct j := rfl
@[simp] theorem State.setDom_ctx (s : State) (k j : Nat) (x : Domain) : (s.setDom k x).ctx j = s.ctx j := rfl
@[simp] theorem State.setDom_part (s : State) (k j : Nat) (x : Domain) : (s.setDom k x).part j = s.part j := rfl
@[simp] theorem State.setDom_vd (s : State) (k j : Nat) (x : Domain) : (s.setDom k x).vd j = s.vd j := rfl
@[simp] theorem State.setDom_queue (s : State) (k j : Nat) (x : Domain) : (s.setDom k x).queue j = s.queue j := rfl
@[simp] theorem State.setDom_pchan (s : State) (k j : Nat) (x : Domain) : (s.setDom k x).pchan j = s.pchan j := rfl
@[simp] theorem State.setDom_proc (s : State) (k j : Nat) (x : Domain) : (s.setDom k x).proc j = s.proc j := rfl

/-! ### setAcct -/

@[simp] theorem State.setAcct_due (s : State) (k : Nat) (x : Account) : (s.setAcct k x).due = s.due := rfl
@[simp] theorem State.setAcct_issue (s : State) (k : Nat) (x : Account) : (s.setAcct k x).issue = s.issue := rfl
@[simp] theorem State.setAcct_barBytes (s : State) (k : Nat) (x : Account) : (s.setAcct k x).barBytes = s.barBytes := rfl
@[simp] theorem State.setAcct_cur (s : State) (k : Nat) (x : Account) : (s.setAcct k x).cur = s.cur := rfl
@[simp] theorem State.setAcct_fwIssue (s : State) (k : Nat) (x : Account) : (s.setAcct k x).fwIssue = s.fwIssue := rfl
@[simp] theorem State.setAcct_turn (s : State) (k : Nat) (x : Account) : (s.setAcct k x).turn = s.turn := rfl
@[simp] theorem State.setAcct_fresh (s : State) (k : Nat) (x : Account) : (s.setAcct k x).fresh = s.fresh := rfl
@[simp] theorem State.setAcct_threads (s : State) (k : Nat) (x : Account) : (s.setAcct k x).threads = s.threads := rfl
@[simp] theorem State.setAcct_convoys (s : State) (k : Nat) (x : Account) : (s.setAcct k x).convoys = s.convoys := rfl
@[simp] theorem State.setAcct_words (s : State) (k : Nat) (x : Account) : (s.setAcct k x).words = s.words := rfl
@[simp] theorem State.setAcct_laybys (s : State) (k : Nat) (x : Account) : (s.setAcct k x).laybys = s.laybys := rfl
@[simp] theorem State.setAcct_crews (s : State) (k : Nat) (x : Account) : (s.setAcct k x).crews = s.crews := rfl
@[simp] theorem State.setAcct_runs (s : State) (k : Nat) (x : Account) : (s.setAcct k x).runs = s.runs := rfl
@[simp] theorem State.setAcct_cores (s : State) (k : Nat) (x : Account) : (s.setAcct k x).cores = s.cores := rfl
@[simp] theorem State.setAcct_islands (s : State) (k : Nat) (x : Account) : (s.setAcct k x).islands = s.islands := rfl
@[simp] theorem State.setAcct_doms (s : State) (k : Nat) (x : Account) : (s.setAcct k x).doms = s.doms := rfl
@[simp] theorem State.setAcct_accts (s : State) (k : Nat) (x : Account) : (s.setAcct k x).accts = Tab.set {} k x s.accts := rfl
@[simp] theorem State.setAcct_mem (s : State) (k : Nat) (x : Account) : (s.setAcct k x).mem = s.mem := rfl
@[simp] theorem State.setAcct_stage (s : State) (k : Nat) (x : Account) : (s.setAcct k x).stage = s.stage := rfl
@[simp] theorem State.setAcct_acc (s : State) (k : Nat) (x : Account) : (s.setAcct k x).acc = s.acc := rfl
@[simp] theorem State.setAcct_ob (s : State) (k : Nat) (x : Account) : (s.setAcct k x).ob = s.ob := rfl
@[simp] theorem State.setAcct_flight (s : State) (k : Nat) (x : Account) : (s.setAcct k x).flight = s.flight := rfl
@[simp] theorem State.setAcct_msc (s : State) (k : Nat) (x : Account) : (s.setAcct k x).msc = s.msc := rfl
@[simp] theorem State.setAcct_sealing (s : State) (k : Nat) (x : Account) : (s.setAcct k x).sealing = s.sealing := rfl
@[simp] theorem State.setAcct_hbm (s : State) (k : Nat) (x : Account) : (s.setAcct k x).hbm = s.hbm := rfl
@[simp] theorem State.setAcct_scrub (s : State) (k : Nat) (x : Account) : (s.setAcct k x).scrub = s.scrub := rfl
@[simp] theorem State.setAcct_ctxs (s : State) (k : Nat) (x : Account) : (s.setAcct k x).ctxs = s.ctxs := rfl
@[simp] theorem State.setAcct_parts (s : State) (k : Nat) (x : Account) : (s.setAcct k x).parts = s.parts := rfl
@[simp] theorem State.setAcct_vds (s : State) (k : Nat) (x : Account) : (s.setAcct k x).vds = s.vds := rfl
@[simp] theorem State.setAcct_queues (s : State) (k : Nat) (x : Account) : (s.setAcct k x).queues = s.queues := rfl
@[simp] theorem State.setAcct_host (s : State) (k : Nat) (x : Account) : (s.setAcct k x).host = s.host := rfl
@[simp] theorem State.setAcct_power (s : State) (k : Nat) (x : Account) : (s.setAcct k x).power = s.power := rfl
@[simp] theorem State.setAcct_fabric (s : State) (k : Nat) (x : Account) : (s.setAcct k x).fabric = s.fabric := rfl
@[simp] theorem State.setAcct_fw (s : State) (k : Nat) (x : Account) : (s.setAcct k x).fw = s.fw := rfl
@[simp] theorem State.setAcct_sec (s : State) (k : Nat) (x : Account) : (s.setAcct k x).sec = s.sec := rfl
@[simp] theorem State.setAcct_thread (s : State) (k j : Nat) (x : Account) : (s.setAcct k x).thread j = s.thread j := rfl
@[simp] theorem State.setAcct_convoy (s : State) (k j : Nat) (x : Account) : (s.setAcct k x).convoy j = s.convoy j := rfl
@[simp] theorem State.setAcct_crew (s : State) (k j : Nat) (x : Account) : (s.setAcct k x).crew j = s.crew j := rfl
@[simp] theorem State.setAcct_run (s : State) (k j : Nat) (x : Account) : (s.setAcct k x).run j = s.run j := rfl
@[simp] theorem State.setAcct_core (s : State) (k j : Nat) (x : Account) : (s.setAcct k x).core j = s.core j := rfl
@[simp] theorem State.setAcct_island (s : State) (k j : Nat) (x : Account) : (s.setAcct k x).island j = s.island j := rfl
@[simp] theorem State.setAcct_dom (s : State) (k j : Nat) (x : Account) : (s.setAcct k x).dom j = s.dom j := rfl
@[simp] theorem State.setAcct_acct_self (s : State) (k : Nat) (x : Account) : (s.setAcct k x).acct k = x := Tab.get_set_self ..
theorem State.setAcct_acct_ne (s : State) (k j : Nat) (x : Account) (h : j ≠ k) : (s.setAcct k x).acct j = s.acct j := Tab.get_set_ne _ _ _ _ _ h
theorem State.setAcct_acct (s : State) (k j : Nat) (x : Account) : (s.setAcct k x).acct j = if j = k then x else s.acct j := Tab.get_set ..
@[simp] theorem State.setAcct_ctx (s : State) (k j : Nat) (x : Account) : (s.setAcct k x).ctx j = s.ctx j := rfl
@[simp] theorem State.setAcct_part (s : State) (k j : Nat) (x : Account) : (s.setAcct k x).part j = s.part j := rfl
@[simp] theorem State.setAcct_vd (s : State) (k j : Nat) (x : Account) : (s.setAcct k x).vd j = s.vd j := rfl
@[simp] theorem State.setAcct_queue (s : State) (k j : Nat) (x : Account) : (s.setAcct k x).queue j = s.queue j := rfl
@[simp] theorem State.setAcct_pchan (s : State) (k j : Nat) (x : Account) : (s.setAcct k x).pchan j = s.pchan j := rfl
@[simp] theorem State.setAcct_proc (s : State) (k j : Nat) (x : Account) : (s.setAcct k x).proc j = s.proc j := rfl

/-! ### setCtx -/

@[simp] theorem State.setCtx_due (s : State) (k : Nat) (x : Context) : (s.setCtx k x).due = s.due := rfl
@[simp] theorem State.setCtx_issue (s : State) (k : Nat) (x : Context) : (s.setCtx k x).issue = s.issue := rfl
@[simp] theorem State.setCtx_barBytes (s : State) (k : Nat) (x : Context) : (s.setCtx k x).barBytes = s.barBytes := rfl
@[simp] theorem State.setCtx_cur (s : State) (k : Nat) (x : Context) : (s.setCtx k x).cur = s.cur := rfl
@[simp] theorem State.setCtx_fwIssue (s : State) (k : Nat) (x : Context) : (s.setCtx k x).fwIssue = s.fwIssue := rfl
@[simp] theorem State.setCtx_turn (s : State) (k : Nat) (x : Context) : (s.setCtx k x).turn = s.turn := rfl
@[simp] theorem State.setCtx_fresh (s : State) (k : Nat) (x : Context) : (s.setCtx k x).fresh = s.fresh := rfl
@[simp] theorem State.setCtx_threads (s : State) (k : Nat) (x : Context) : (s.setCtx k x).threads = s.threads := rfl
@[simp] theorem State.setCtx_convoys (s : State) (k : Nat) (x : Context) : (s.setCtx k x).convoys = s.convoys := rfl
@[simp] theorem State.setCtx_words (s : State) (k : Nat) (x : Context) : (s.setCtx k x).words = s.words := rfl
@[simp] theorem State.setCtx_laybys (s : State) (k : Nat) (x : Context) : (s.setCtx k x).laybys = s.laybys := rfl
@[simp] theorem State.setCtx_crews (s : State) (k : Nat) (x : Context) : (s.setCtx k x).crews = s.crews := rfl
@[simp] theorem State.setCtx_runs (s : State) (k : Nat) (x : Context) : (s.setCtx k x).runs = s.runs := rfl
@[simp] theorem State.setCtx_cores (s : State) (k : Nat) (x : Context) : (s.setCtx k x).cores = s.cores := rfl
@[simp] theorem State.setCtx_islands (s : State) (k : Nat) (x : Context) : (s.setCtx k x).islands = s.islands := rfl
@[simp] theorem State.setCtx_doms (s : State) (k : Nat) (x : Context) : (s.setCtx k x).doms = s.doms := rfl
@[simp] theorem State.setCtx_accts (s : State) (k : Nat) (x : Context) : (s.setCtx k x).accts = s.accts := rfl
@[simp] theorem State.setCtx_mem (s : State) (k : Nat) (x : Context) : (s.setCtx k x).mem = s.mem := rfl
@[simp] theorem State.setCtx_stage (s : State) (k : Nat) (x : Context) : (s.setCtx k x).stage = s.stage := rfl
@[simp] theorem State.setCtx_acc (s : State) (k : Nat) (x : Context) : (s.setCtx k x).acc = s.acc := rfl
@[simp] theorem State.setCtx_ob (s : State) (k : Nat) (x : Context) : (s.setCtx k x).ob = s.ob := rfl
@[simp] theorem State.setCtx_flight (s : State) (k : Nat) (x : Context) : (s.setCtx k x).flight = s.flight := rfl
@[simp] theorem State.setCtx_msc (s : State) (k : Nat) (x : Context) : (s.setCtx k x).msc = s.msc := rfl
@[simp] theorem State.setCtx_sealing (s : State) (k : Nat) (x : Context) : (s.setCtx k x).sealing = s.sealing := rfl
@[simp] theorem State.setCtx_hbm (s : State) (k : Nat) (x : Context) : (s.setCtx k x).hbm = s.hbm := rfl
@[simp] theorem State.setCtx_scrub (s : State) (k : Nat) (x : Context) : (s.setCtx k x).scrub = s.scrub := rfl
@[simp] theorem State.setCtx_ctxs (s : State) (k : Nat) (x : Context) : (s.setCtx k x).ctxs = Tab.set {} k x s.ctxs := rfl
@[simp] theorem State.setCtx_parts (s : State) (k : Nat) (x : Context) : (s.setCtx k x).parts = s.parts := rfl
@[simp] theorem State.setCtx_vds (s : State) (k : Nat) (x : Context) : (s.setCtx k x).vds = s.vds := rfl
@[simp] theorem State.setCtx_queues (s : State) (k : Nat) (x : Context) : (s.setCtx k x).queues = s.queues := rfl
@[simp] theorem State.setCtx_host (s : State) (k : Nat) (x : Context) : (s.setCtx k x).host = s.host := rfl
@[simp] theorem State.setCtx_power (s : State) (k : Nat) (x : Context) : (s.setCtx k x).power = s.power := rfl
@[simp] theorem State.setCtx_fabric (s : State) (k : Nat) (x : Context) : (s.setCtx k x).fabric = s.fabric := rfl
@[simp] theorem State.setCtx_fw (s : State) (k : Nat) (x : Context) : (s.setCtx k x).fw = s.fw := rfl
@[simp] theorem State.setCtx_sec (s : State) (k : Nat) (x : Context) : (s.setCtx k x).sec = s.sec := rfl
@[simp] theorem State.setCtx_thread (s : State) (k j : Nat) (x : Context) : (s.setCtx k x).thread j = s.thread j := rfl
@[simp] theorem State.setCtx_convoy (s : State) (k j : Nat) (x : Context) : (s.setCtx k x).convoy j = s.convoy j := rfl
@[simp] theorem State.setCtx_crew (s : State) (k j : Nat) (x : Context) : (s.setCtx k x).crew j = s.crew j := rfl
@[simp] theorem State.setCtx_run (s : State) (k j : Nat) (x : Context) : (s.setCtx k x).run j = s.run j := rfl
@[simp] theorem State.setCtx_core (s : State) (k j : Nat) (x : Context) : (s.setCtx k x).core j = s.core j := rfl
@[simp] theorem State.setCtx_island (s : State) (k j : Nat) (x : Context) : (s.setCtx k x).island j = s.island j := rfl
@[simp] theorem State.setCtx_dom (s : State) (k j : Nat) (x : Context) : (s.setCtx k x).dom j = s.dom j := rfl
@[simp] theorem State.setCtx_acct (s : State) (k j : Nat) (x : Context) : (s.setCtx k x).acct j = s.acct j := rfl
@[simp] theorem State.setCtx_ctx_self (s : State) (k : Nat) (x : Context) : (s.setCtx k x).ctx k = x := Tab.get_set_self ..
theorem State.setCtx_ctx_ne (s : State) (k j : Nat) (x : Context) (h : j ≠ k) : (s.setCtx k x).ctx j = s.ctx j := Tab.get_set_ne _ _ _ _ _ h
theorem State.setCtx_ctx (s : State) (k j : Nat) (x : Context) : (s.setCtx k x).ctx j = if j = k then x else s.ctx j := Tab.get_set ..
@[simp] theorem State.setCtx_part (s : State) (k j : Nat) (x : Context) : (s.setCtx k x).part j = s.part j := rfl
@[simp] theorem State.setCtx_vd (s : State) (k j : Nat) (x : Context) : (s.setCtx k x).vd j = s.vd j := rfl
@[simp] theorem State.setCtx_queue (s : State) (k j : Nat) (x : Context) : (s.setCtx k x).queue j = s.queue j := rfl
@[simp] theorem State.setCtx_pchan (s : State) (k j : Nat) (x : Context) : (s.setCtx k x).pchan j = s.pchan j := rfl
@[simp] theorem State.setCtx_proc (s : State) (k j : Nat) (x : Context) : (s.setCtx k x).proc j = s.proc j := rfl

/-! ### setPart -/

@[simp] theorem State.setPart_due (s : State) (k : Nat) (x : Partition) : (s.setPart k x).due = s.due := rfl
@[simp] theorem State.setPart_issue (s : State) (k : Nat) (x : Partition) : (s.setPart k x).issue = s.issue := rfl
@[simp] theorem State.setPart_barBytes (s : State) (k : Nat) (x : Partition) : (s.setPart k x).barBytes = s.barBytes := rfl
@[simp] theorem State.setPart_cur (s : State) (k : Nat) (x : Partition) : (s.setPart k x).cur = s.cur := rfl
@[simp] theorem State.setPart_fwIssue (s : State) (k : Nat) (x : Partition) : (s.setPart k x).fwIssue = s.fwIssue := rfl
@[simp] theorem State.setPart_turn (s : State) (k : Nat) (x : Partition) : (s.setPart k x).turn = s.turn := rfl
@[simp] theorem State.setPart_fresh (s : State) (k : Nat) (x : Partition) : (s.setPart k x).fresh = s.fresh := rfl
@[simp] theorem State.setPart_threads (s : State) (k : Nat) (x : Partition) : (s.setPart k x).threads = s.threads := rfl
@[simp] theorem State.setPart_convoys (s : State) (k : Nat) (x : Partition) : (s.setPart k x).convoys = s.convoys := rfl
@[simp] theorem State.setPart_words (s : State) (k : Nat) (x : Partition) : (s.setPart k x).words = s.words := rfl
@[simp] theorem State.setPart_laybys (s : State) (k : Nat) (x : Partition) : (s.setPart k x).laybys = s.laybys := rfl
@[simp] theorem State.setPart_crews (s : State) (k : Nat) (x : Partition) : (s.setPart k x).crews = s.crews := rfl
@[simp] theorem State.setPart_runs (s : State) (k : Nat) (x : Partition) : (s.setPart k x).runs = s.runs := rfl
@[simp] theorem State.setPart_cores (s : State) (k : Nat) (x : Partition) : (s.setPart k x).cores = s.cores := rfl
@[simp] theorem State.setPart_islands (s : State) (k : Nat) (x : Partition) : (s.setPart k x).islands = s.islands := rfl
@[simp] theorem State.setPart_doms (s : State) (k : Nat) (x : Partition) : (s.setPart k x).doms = s.doms := rfl
@[simp] theorem State.setPart_accts (s : State) (k : Nat) (x : Partition) : (s.setPart k x).accts = s.accts := rfl
@[simp] theorem State.setPart_mem (s : State) (k : Nat) (x : Partition) : (s.setPart k x).mem = s.mem := rfl
@[simp] theorem State.setPart_stage (s : State) (k : Nat) (x : Partition) : (s.setPart k x).stage = s.stage := rfl
@[simp] theorem State.setPart_acc (s : State) (k : Nat) (x : Partition) : (s.setPart k x).acc = s.acc := rfl
@[simp] theorem State.setPart_ob (s : State) (k : Nat) (x : Partition) : (s.setPart k x).ob = s.ob := rfl
@[simp] theorem State.setPart_flight (s : State) (k : Nat) (x : Partition) : (s.setPart k x).flight = s.flight := rfl
@[simp] theorem State.setPart_msc (s : State) (k : Nat) (x : Partition) : (s.setPart k x).msc = s.msc := rfl
@[simp] theorem State.setPart_sealing (s : State) (k : Nat) (x : Partition) : (s.setPart k x).sealing = s.sealing := rfl
@[simp] theorem State.setPart_hbm (s : State) (k : Nat) (x : Partition) : (s.setPart k x).hbm = s.hbm := rfl
@[simp] theorem State.setPart_scrub (s : State) (k : Nat) (x : Partition) : (s.setPart k x).scrub = s.scrub := rfl
@[simp] theorem State.setPart_ctxs (s : State) (k : Nat) (x : Partition) : (s.setPart k x).ctxs = s.ctxs := rfl
@[simp] theorem State.setPart_parts (s : State) (k : Nat) (x : Partition) : (s.setPart k x).parts = Tab.set {} k x s.parts := rfl
@[simp] theorem State.setPart_vds (s : State) (k : Nat) (x : Partition) : (s.setPart k x).vds = s.vds := rfl
@[simp] theorem State.setPart_queues (s : State) (k : Nat) (x : Partition) : (s.setPart k x).queues = s.queues := rfl
@[simp] theorem State.setPart_host (s : State) (k : Nat) (x : Partition) : (s.setPart k x).host = s.host := rfl
@[simp] theorem State.setPart_power (s : State) (k : Nat) (x : Partition) : (s.setPart k x).power = s.power := rfl
@[simp] theorem State.setPart_fabric (s : State) (k : Nat) (x : Partition) : (s.setPart k x).fabric = s.fabric := rfl
@[simp] theorem State.setPart_fw (s : State) (k : Nat) (x : Partition) : (s.setPart k x).fw = s.fw := rfl
@[simp] theorem State.setPart_sec (s : State) (k : Nat) (x : Partition) : (s.setPart k x).sec = s.sec := rfl
@[simp] theorem State.setPart_thread (s : State) (k j : Nat) (x : Partition) : (s.setPart k x).thread j = s.thread j := rfl
@[simp] theorem State.setPart_convoy (s : State) (k j : Nat) (x : Partition) : (s.setPart k x).convoy j = s.convoy j := rfl
@[simp] theorem State.setPart_crew (s : State) (k j : Nat) (x : Partition) : (s.setPart k x).crew j = s.crew j := rfl
@[simp] theorem State.setPart_run (s : State) (k j : Nat) (x : Partition) : (s.setPart k x).run j = s.run j := rfl
@[simp] theorem State.setPart_core (s : State) (k j : Nat) (x : Partition) : (s.setPart k x).core j = s.core j := rfl
@[simp] theorem State.setPart_island (s : State) (k j : Nat) (x : Partition) : (s.setPart k x).island j = s.island j := rfl
@[simp] theorem State.setPart_dom (s : State) (k j : Nat) (x : Partition) : (s.setPart k x).dom j = s.dom j := rfl
@[simp] theorem State.setPart_acct (s : State) (k j : Nat) (x : Partition) : (s.setPart k x).acct j = s.acct j := rfl
@[simp] theorem State.setPart_ctx (s : State) (k j : Nat) (x : Partition) : (s.setPart k x).ctx j = s.ctx j := rfl
@[simp] theorem State.setPart_part_self (s : State) (k : Nat) (x : Partition) : (s.setPart k x).part k = x := Tab.get_set_self ..
theorem State.setPart_part_ne (s : State) (k j : Nat) (x : Partition) (h : j ≠ k) : (s.setPart k x).part j = s.part j := Tab.get_set_ne _ _ _ _ _ h
theorem State.setPart_part (s : State) (k j : Nat) (x : Partition) : (s.setPart k x).part j = if j = k then x else s.part j := Tab.get_set ..
@[simp] theorem State.setPart_vd (s : State) (k j : Nat) (x : Partition) : (s.setPart k x).vd j = s.vd j := rfl
@[simp] theorem State.setPart_queue (s : State) (k j : Nat) (x : Partition) : (s.setPart k x).queue j = s.queue j := rfl
@[simp] theorem State.setPart_pchan (s : State) (k j : Nat) (x : Partition) : (s.setPart k x).pchan j = s.pchan j := rfl
@[simp] theorem State.setPart_proc (s : State) (k j : Nat) (x : Partition) : (s.setPart k x).proc j = s.proc j := rfl

/-! ### setVd -/

@[simp] theorem State.setVd_due (s : State) (k : Nat) (x : Vd) : (s.setVd k x).due = s.due := rfl
@[simp] theorem State.setVd_issue (s : State) (k : Nat) (x : Vd) : (s.setVd k x).issue = s.issue := rfl
@[simp] theorem State.setVd_barBytes (s : State) (k : Nat) (x : Vd) : (s.setVd k x).barBytes = s.barBytes := rfl
@[simp] theorem State.setVd_cur (s : State) (k : Nat) (x : Vd) : (s.setVd k x).cur = s.cur := rfl
@[simp] theorem State.setVd_fwIssue (s : State) (k : Nat) (x : Vd) : (s.setVd k x).fwIssue = s.fwIssue := rfl
@[simp] theorem State.setVd_turn (s : State) (k : Nat) (x : Vd) : (s.setVd k x).turn = s.turn := rfl
@[simp] theorem State.setVd_fresh (s : State) (k : Nat) (x : Vd) : (s.setVd k x).fresh = s.fresh := rfl
@[simp] theorem State.setVd_threads (s : State) (k : Nat) (x : Vd) : (s.setVd k x).threads = s.threads := rfl
@[simp] theorem State.setVd_convoys (s : State) (k : Nat) (x : Vd) : (s.setVd k x).convoys = s.convoys := rfl
@[simp] theorem State.setVd_words (s : State) (k : Nat) (x : Vd) : (s.setVd k x).words = s.words := rfl
@[simp] theorem State.setVd_laybys (s : State) (k : Nat) (x : Vd) : (s.setVd k x).laybys = s.laybys := rfl
@[simp] theorem State.setVd_crews (s : State) (k : Nat) (x : Vd) : (s.setVd k x).crews = s.crews := rfl
@[simp] theorem State.setVd_runs (s : State) (k : Nat) (x : Vd) : (s.setVd k x).runs = s.runs := rfl
@[simp] theorem State.setVd_cores (s : State) (k : Nat) (x : Vd) : (s.setVd k x).cores = s.cores := rfl
@[simp] theorem State.setVd_islands (s : State) (k : Nat) (x : Vd) : (s.setVd k x).islands = s.islands := rfl
@[simp] theorem State.setVd_doms (s : State) (k : Nat) (x : Vd) : (s.setVd k x).doms = s.doms := rfl
@[simp] theorem State.setVd_accts (s : State) (k : Nat) (x : Vd) : (s.setVd k x).accts = s.accts := rfl
@[simp] theorem State.setVd_mem (s : State) (k : Nat) (x : Vd) : (s.setVd k x).mem = s.mem := rfl
@[simp] theorem State.setVd_stage (s : State) (k : Nat) (x : Vd) : (s.setVd k x).stage = s.stage := rfl
@[simp] theorem State.setVd_acc (s : State) (k : Nat) (x : Vd) : (s.setVd k x).acc = s.acc := rfl
@[simp] theorem State.setVd_ob (s : State) (k : Nat) (x : Vd) : (s.setVd k x).ob = s.ob := rfl
@[simp] theorem State.setVd_flight (s : State) (k : Nat) (x : Vd) : (s.setVd k x).flight = s.flight := rfl
@[simp] theorem State.setVd_msc (s : State) (k : Nat) (x : Vd) : (s.setVd k x).msc = s.msc := rfl
@[simp] theorem State.setVd_sealing (s : State) (k : Nat) (x : Vd) : (s.setVd k x).sealing = s.sealing := rfl
@[simp] theorem State.setVd_hbm (s : State) (k : Nat) (x : Vd) : (s.setVd k x).hbm = s.hbm := rfl
@[simp] theorem State.setVd_scrub (s : State) (k : Nat) (x : Vd) : (s.setVd k x).scrub = s.scrub := rfl
@[simp] theorem State.setVd_ctxs (s : State) (k : Nat) (x : Vd) : (s.setVd k x).ctxs = s.ctxs := rfl
@[simp] theorem State.setVd_parts (s : State) (k : Nat) (x : Vd) : (s.setVd k x).parts = s.parts := rfl
@[simp] theorem State.setVd_vds (s : State) (k : Nat) (x : Vd) : (s.setVd k x).vds = Tab.set {} k x s.vds := rfl
@[simp] theorem State.setVd_queues (s : State) (k : Nat) (x : Vd) : (s.setVd k x).queues = s.queues := rfl
@[simp] theorem State.setVd_host (s : State) (k : Nat) (x : Vd) : (s.setVd k x).host = s.host := rfl
@[simp] theorem State.setVd_power (s : State) (k : Nat) (x : Vd) : (s.setVd k x).power = s.power := rfl
@[simp] theorem State.setVd_fabric (s : State) (k : Nat) (x : Vd) : (s.setVd k x).fabric = s.fabric := rfl
@[simp] theorem State.setVd_fw (s : State) (k : Nat) (x : Vd) : (s.setVd k x).fw = s.fw := rfl
@[simp] theorem State.setVd_sec (s : State) (k : Nat) (x : Vd) : (s.setVd k x).sec = s.sec := rfl
@[simp] theorem State.setVd_thread (s : State) (k j : Nat) (x : Vd) : (s.setVd k x).thread j = s.thread j := rfl
@[simp] theorem State.setVd_convoy (s : State) (k j : Nat) (x : Vd) : (s.setVd k x).convoy j = s.convoy j := rfl
@[simp] theorem State.setVd_crew (s : State) (k j : Nat) (x : Vd) : (s.setVd k x).crew j = s.crew j := rfl
@[simp] theorem State.setVd_run (s : State) (k j : Nat) (x : Vd) : (s.setVd k x).run j = s.run j := rfl
@[simp] theorem State.setVd_core (s : State) (k j : Nat) (x : Vd) : (s.setVd k x).core j = s.core j := rfl
@[simp] theorem State.setVd_island (s : State) (k j : Nat) (x : Vd) : (s.setVd k x).island j = s.island j := rfl
@[simp] theorem State.setVd_dom (s : State) (k j : Nat) (x : Vd) : (s.setVd k x).dom j = s.dom j := rfl
@[simp] theorem State.setVd_acct (s : State) (k j : Nat) (x : Vd) : (s.setVd k x).acct j = s.acct j := rfl
@[simp] theorem State.setVd_ctx (s : State) (k j : Nat) (x : Vd) : (s.setVd k x).ctx j = s.ctx j := rfl
@[simp] theorem State.setVd_part (s : State) (k j : Nat) (x : Vd) : (s.setVd k x).part j = s.part j := rfl
@[simp] theorem State.setVd_vd_self (s : State) (k : Nat) (x : Vd) : (s.setVd k x).vd k = x := Tab.get_set_self ..
theorem State.setVd_vd_ne (s : State) (k j : Nat) (x : Vd) (h : j ≠ k) : (s.setVd k x).vd j = s.vd j := Tab.get_set_ne _ _ _ _ _ h
theorem State.setVd_vd (s : State) (k j : Nat) (x : Vd) : (s.setVd k x).vd j = if j = k then x else s.vd j := Tab.get_set ..
@[simp] theorem State.setVd_queue (s : State) (k j : Nat) (x : Vd) : (s.setVd k x).queue j = s.queue j := rfl
@[simp] theorem State.setVd_pchan (s : State) (k j : Nat) (x : Vd) : (s.setVd k x).pchan j = s.pchan j := rfl
@[simp] theorem State.setVd_proc (s : State) (k j : Nat) (x : Vd) : (s.setVd k x).proc j = s.proc j := rfl

/-! ### setQueue -/

@[simp] theorem State.setQueue_due (s : State) (k : Nat) (x : Queue) : (s.setQueue k x).due = s.due := rfl
@[simp] theorem State.setQueue_issue (s : State) (k : Nat) (x : Queue) : (s.setQueue k x).issue = s.issue := rfl
@[simp] theorem State.setQueue_barBytes (s : State) (k : Nat) (x : Queue) : (s.setQueue k x).barBytes = s.barBytes := rfl
@[simp] theorem State.setQueue_cur (s : State) (k : Nat) (x : Queue) : (s.setQueue k x).cur = s.cur := rfl
@[simp] theorem State.setQueue_fwIssue (s : State) (k : Nat) (x : Queue) : (s.setQueue k x).fwIssue = s.fwIssue := rfl
@[simp] theorem State.setQueue_turn (s : State) (k : Nat) (x : Queue) : (s.setQueue k x).turn = s.turn := rfl
@[simp] theorem State.setQueue_fresh (s : State) (k : Nat) (x : Queue) : (s.setQueue k x).fresh = s.fresh := rfl
@[simp] theorem State.setQueue_threads (s : State) (k : Nat) (x : Queue) : (s.setQueue k x).threads = s.threads := rfl
@[simp] theorem State.setQueue_convoys (s : State) (k : Nat) (x : Queue) : (s.setQueue k x).convoys = s.convoys := rfl
@[simp] theorem State.setQueue_words (s : State) (k : Nat) (x : Queue) : (s.setQueue k x).words = s.words := rfl
@[simp] theorem State.setQueue_laybys (s : State) (k : Nat) (x : Queue) : (s.setQueue k x).laybys = s.laybys := rfl
@[simp] theorem State.setQueue_crews (s : State) (k : Nat) (x : Queue) : (s.setQueue k x).crews = s.crews := rfl
@[simp] theorem State.setQueue_runs (s : State) (k : Nat) (x : Queue) : (s.setQueue k x).runs = s.runs := rfl
@[simp] theorem State.setQueue_cores (s : State) (k : Nat) (x : Queue) : (s.setQueue k x).cores = s.cores := rfl
@[simp] theorem State.setQueue_islands (s : State) (k : Nat) (x : Queue) : (s.setQueue k x).islands = s.islands := rfl
@[simp] theorem State.setQueue_doms (s : State) (k : Nat) (x : Queue) : (s.setQueue k x).doms = s.doms := rfl
@[simp] theorem State.setQueue_accts (s : State) (k : Nat) (x : Queue) : (s.setQueue k x).accts = s.accts := rfl
@[simp] theorem State.setQueue_mem (s : State) (k : Nat) (x : Queue) : (s.setQueue k x).mem = s.mem := rfl
@[simp] theorem State.setQueue_stage (s : State) (k : Nat) (x : Queue) : (s.setQueue k x).stage = s.stage := rfl
@[simp] theorem State.setQueue_acc (s : State) (k : Nat) (x : Queue) : (s.setQueue k x).acc = s.acc := rfl
@[simp] theorem State.setQueue_ob (s : State) (k : Nat) (x : Queue) : (s.setQueue k x).ob = s.ob := rfl
@[simp] theorem State.setQueue_flight (s : State) (k : Nat) (x : Queue) : (s.setQueue k x).flight = s.flight := rfl
@[simp] theorem State.setQueue_msc (s : State) (k : Nat) (x : Queue) : (s.setQueue k x).msc = s.msc := rfl
@[simp] theorem State.setQueue_sealing (s : State) (k : Nat) (x : Queue) : (s.setQueue k x).sealing = s.sealing := rfl
@[simp] theorem State.setQueue_hbm (s : State) (k : Nat) (x : Queue) : (s.setQueue k x).hbm = s.hbm := rfl
@[simp] theorem State.setQueue_scrub (s : State) (k : Nat) (x : Queue) : (s.setQueue k x).scrub = s.scrub := rfl
@[simp] theorem State.setQueue_ctxs (s : State) (k : Nat) (x : Queue) : (s.setQueue k x).ctxs = s.ctxs := rfl
@[simp] theorem State.setQueue_parts (s : State) (k : Nat) (x : Queue) : (s.setQueue k x).parts = s.parts := rfl
@[simp] theorem State.setQueue_vds (s : State) (k : Nat) (x : Queue) : (s.setQueue k x).vds = s.vds := rfl
@[simp] theorem State.setQueue_queues (s : State) (k : Nat) (x : Queue) : (s.setQueue k x).queues = Tab.set {} k x s.queues := rfl
@[simp] theorem State.setQueue_host (s : State) (k : Nat) (x : Queue) : (s.setQueue k x).host = s.host := rfl
@[simp] theorem State.setQueue_power (s : State) (k : Nat) (x : Queue) : (s.setQueue k x).power = s.power := rfl
@[simp] theorem State.setQueue_fabric (s : State) (k : Nat) (x : Queue) : (s.setQueue k x).fabric = s.fabric := rfl
@[simp] theorem State.setQueue_fw (s : State) (k : Nat) (x : Queue) : (s.setQueue k x).fw = s.fw := rfl
@[simp] theorem State.setQueue_sec (s : State) (k : Nat) (x : Queue) : (s.setQueue k x).sec = s.sec := rfl
@[simp] theorem State.setQueue_thread (s : State) (k j : Nat) (x : Queue) : (s.setQueue k x).thread j = s.thread j := rfl
@[simp] theorem State.setQueue_convoy (s : State) (k j : Nat) (x : Queue) : (s.setQueue k x).convoy j = s.convoy j := rfl
@[simp] theorem State.setQueue_crew (s : State) (k j : Nat) (x : Queue) : (s.setQueue k x).crew j = s.crew j := rfl
@[simp] theorem State.setQueue_run (s : State) (k j : Nat) (x : Queue) : (s.setQueue k x).run j = s.run j := rfl
@[simp] theorem State.setQueue_core (s : State) (k j : Nat) (x : Queue) : (s.setQueue k x).core j = s.core j := rfl
@[simp] theorem State.setQueue_island (s : State) (k j : Nat) (x : Queue) : (s.setQueue k x).island j = s.island j := rfl
@[simp] theorem State.setQueue_dom (s : State) (k j : Nat) (x : Queue) : (s.setQueue k x).dom j = s.dom j := rfl
@[simp] theorem State.setQueue_acct (s : State) (k j : Nat) (x : Queue) : (s.setQueue k x).acct j = s.acct j := rfl
@[simp] theorem State.setQueue_ctx (s : State) (k j : Nat) (x : Queue) : (s.setQueue k x).ctx j = s.ctx j := rfl
@[simp] theorem State.setQueue_part (s : State) (k j : Nat) (x : Queue) : (s.setQueue k x).part j = s.part j := rfl
@[simp] theorem State.setQueue_vd (s : State) (k j : Nat) (x : Queue) : (s.setQueue k x).vd j = s.vd j := rfl
@[simp] theorem State.setQueue_queue_self (s : State) (k : Nat) (x : Queue) : (s.setQueue k x).queue k = x := Tab.get_set_self ..
theorem State.setQueue_queue_ne (s : State) (k j : Nat) (x : Queue) (h : j ≠ k) : (s.setQueue k x).queue j = s.queue j := Tab.get_set_ne _ _ _ _ _ h
theorem State.setQueue_queue (s : State) (k j : Nat) (x : Queue) : (s.setQueue k x).queue j = if j = k then x else s.queue j := Tab.get_set ..
@[simp] theorem State.setQueue_pchan (s : State) (k j : Nat) (x : Queue) : (s.setQueue k x).pchan j = s.pchan j := rfl
@[simp] theorem State.setQueue_proc (s : State) (k j : Nat) (x : Queue) : (s.setQueue k x).proc j = s.proc j := rfl

/-! ### setPchan -/

@[simp] theorem State.setPchan_due (s : State) (k : Nat) (x : PChan) : (s.setPchan k x).due = s.due := rfl
@[simp] theorem State.setPchan_issue (s : State) (k : Nat) (x : PChan) : (s.setPchan k x).issue = s.issue := rfl
@[simp] theorem State.setPchan_barBytes (s : State) (k : Nat) (x : PChan) : (s.setPchan k x).barBytes = s.barBytes := rfl
@[simp] theorem State.setPchan_cur (s : State) (k : Nat) (x : PChan) : (s.setPchan k x).cur = s.cur := rfl
@[simp] theorem State.setPchan_fwIssue (s : State) (k : Nat) (x : PChan) : (s.setPchan k x).fwIssue = s.fwIssue := rfl
@[simp] theorem State.setPchan_turn (s : State) (k : Nat) (x : PChan) : (s.setPchan k x).turn = s.turn := rfl
@[simp] theorem State.setPchan_fresh (s : State) (k : Nat) (x : PChan) : (s.setPchan k x).fresh = s.fresh := rfl
@[simp] theorem State.setPchan_threads (s : State) (k : Nat) (x : PChan) : (s.setPchan k x).threads = s.threads := rfl
@[simp] theorem State.setPchan_convoys (s : State) (k : Nat) (x : PChan) : (s.setPchan k x).convoys = s.convoys := rfl
@[simp] theorem State.setPchan_words (s : State) (k : Nat) (x : PChan) : (s.setPchan k x).words = s.words := rfl
@[simp] theorem State.setPchan_laybys (s : State) (k : Nat) (x : PChan) : (s.setPchan k x).laybys = s.laybys := rfl
@[simp] theorem State.setPchan_crews (s : State) (k : Nat) (x : PChan) : (s.setPchan k x).crews = s.crews := rfl
@[simp] theorem State.setPchan_runs (s : State) (k : Nat) (x : PChan) : (s.setPchan k x).runs = s.runs := rfl
@[simp] theorem State.setPchan_cores (s : State) (k : Nat) (x : PChan) : (s.setPchan k x).cores = s.cores := rfl
@[simp] theorem State.setPchan_islands (s : State) (k : Nat) (x : PChan) : (s.setPchan k x).islands = s.islands := rfl
@[simp] theorem State.setPchan_doms (s : State) (k : Nat) (x : PChan) : (s.setPchan k x).doms = s.doms := rfl
@[simp] theorem State.setPchan_accts (s : State) (k : Nat) (x : PChan) : (s.setPchan k x).accts = s.accts := rfl
@[simp] theorem State.setPchan_mem (s : State) (k : Nat) (x : PChan) : (s.setPchan k x).mem = s.mem := rfl
@[simp] theorem State.setPchan_stage (s : State) (k : Nat) (x : PChan) : (s.setPchan k x).stage = s.stage := rfl
@[simp] theorem State.setPchan_acc (s : State) (k : Nat) (x : PChan) : (s.setPchan k x).acc = s.acc := rfl
@[simp] theorem State.setPchan_ob (s : State) (k : Nat) (x : PChan) : (s.setPchan k x).ob = s.ob := rfl
@[simp] theorem State.setPchan_flight (s : State) (k : Nat) (x : PChan) : (s.setPchan k x).flight = s.flight := rfl
@[simp] theorem State.setPchan_msc (s : State) (k : Nat) (x : PChan) : (s.setPchan k x).msc = s.msc := rfl
@[simp] theorem State.setPchan_sealing (s : State) (k : Nat) (x : PChan) : (s.setPchan k x).sealing = s.sealing := rfl
@[simp] theorem State.setPchan_hbm (s : State) (k : Nat) (x : PChan) : (s.setPchan k x).hbm = Tab.set {} k x s.hbm := rfl
@[simp] theorem State.setPchan_scrub (s : State) (k : Nat) (x : PChan) : (s.setPchan k x).scrub = s.scrub := rfl
@[simp] theorem State.setPchan_ctxs (s : State) (k : Nat) (x : PChan) : (s.setPchan k x).ctxs = s.ctxs := rfl
@[simp] theorem State.setPchan_parts (s : State) (k : Nat) (x : PChan) : (s.setPchan k x).parts = s.parts := rfl
@[simp] theorem State.setPchan_vds (s : State) (k : Nat) (x : PChan) : (s.setPchan k x).vds = s.vds := rfl
@[simp] theorem State.setPchan_queues (s : State) (k : Nat) (x : PChan) : (s.setPchan k x).queues = s.queues := rfl
@[simp] theorem State.setPchan_host (s : State) (k : Nat) (x : PChan) : (s.setPchan k x).host = s.host := rfl
@[simp] theorem State.setPchan_power (s : State) (k : Nat) (x : PChan) : (s.setPchan k x).power = s.power := rfl
@[simp] theorem State.setPchan_fabric (s : State) (k : Nat) (x : PChan) : (s.setPchan k x).fabric = s.fabric := rfl
@[simp] theorem State.setPchan_fw (s : State) (k : Nat) (x : PChan) : (s.setPchan k x).fw = s.fw := rfl
@[simp] theorem State.setPchan_sec (s : State) (k : Nat) (x : PChan) : (s.setPchan k x).sec = s.sec := rfl
@[simp] theorem State.setPchan_thread (s : State) (k j : Nat) (x : PChan) : (s.setPchan k x).thread j = s.thread j := rfl
@[simp] theorem State.setPchan_convoy (s : State) (k j : Nat) (x : PChan) : (s.setPchan k x).convoy j = s.convoy j := rfl
@[simp] theorem State.setPchan_crew (s : State) (k j : Nat) (x : PChan) : (s.setPchan k x).crew j = s.crew j := rfl
@[simp] theorem State.setPchan_run (s : State) (k j : Nat) (x : PChan) : (s.setPchan k x).run j = s.run j := rfl
@[simp] theorem State.setPchan_core (s : State) (k j : Nat) (x : PChan) : (s.setPchan k x).core j = s.core j := rfl
@[simp] theorem State.setPchan_island (s : State) (k j : Nat) (x : PChan) : (s.setPchan k x).island j = s.island j := rfl
@[simp] theorem State.setPchan_dom (s : State) (k j : Nat) (x : PChan) : (s.setPchan k x).dom j = s.dom j := rfl
@[simp] theorem State.setPchan_acct (s : State) (k j : Nat) (x : PChan) : (s.setPchan k x).acct j = s.acct j := rfl
@[simp] theorem State.setPchan_ctx (s : State) (k j : Nat) (x : PChan) : (s.setPchan k x).ctx j = s.ctx j := rfl
@[simp] theorem State.setPchan_part (s : State) (k j : Nat) (x : PChan) : (s.setPchan k x).part j = s.part j := rfl
@[simp] theorem State.setPchan_vd (s : State) (k j : Nat) (x : PChan) : (s.setPchan k x).vd j = s.vd j := rfl
@[simp] theorem State.setPchan_queue (s : State) (k j : Nat) (x : PChan) : (s.setPchan k x).queue j = s.queue j := rfl
@[simp] theorem State.setPchan_pchan_self (s : State) (k : Nat) (x : PChan) : (s.setPchan k x).pchan k = x := Tab.get_set_self ..
theorem State.setPchan_pchan_ne (s : State) (k j : Nat) (x : PChan) (h : j ≠ k) : (s.setPchan k x).pchan j = s.pchan j := Tab.get_set_ne _ _ _ _ _ h
theorem State.setPchan_pchan (s : State) (k j : Nat) (x : PChan) : (s.setPchan k x).pchan j = if j = k then x else s.pchan j := Tab.get_set ..
@[simp] theorem State.setPchan_proc (s : State) (k j : Nat) (x : PChan) : (s.setPchan k x).proc j = s.proc j := rfl

/-! ### setProc -/

@[simp] theorem State.setProc_due (s : State) (k : Nat) (x : FwProc) : (s.setProc k x).due = s.due := rfl
@[simp] theorem State.setProc_issue (s : State) (k : Nat) (x : FwProc) : (s.setProc k x).issue = s.issue := rfl
@[simp] theorem State.setProc_barBytes (s : State) (k : Nat) (x : FwProc) : (s.setProc k x).barBytes = s.barBytes := rfl
@[simp] theorem State.setProc_cur (s : State) (k : Nat) (x : FwProc) : (s.setProc k x).cur = s.cur := rfl
@[simp] theorem State.setProc_fwIssue (s : State) (k : Nat) (x : FwProc) : (s.setProc k x).fwIssue = s.fwIssue := rfl
@[simp] theorem State.setProc_turn (s : State) (k : Nat) (x : FwProc) : (s.setProc k x).turn = s.turn := rfl
@[simp] theorem State.setProc_fresh (s : State) (k : Nat) (x : FwProc) : (s.setProc k x).fresh = s.fresh := rfl
@[simp] theorem State.setProc_threads (s : State) (k : Nat) (x : FwProc) : (s.setProc k x).threads = s.threads := rfl
@[simp] theorem State.setProc_convoys (s : State) (k : Nat) (x : FwProc) : (s.setProc k x).convoys = s.convoys := rfl
@[simp] theorem State.setProc_words (s : State) (k : Nat) (x : FwProc) : (s.setProc k x).words = s.words := rfl
@[simp] theorem State.setProc_laybys (s : State) (k : Nat) (x : FwProc) : (s.setProc k x).laybys = s.laybys := rfl
@[simp] theorem State.setProc_crews (s : State) (k : Nat) (x : FwProc) : (s.setProc k x).crews = s.crews := rfl
@[simp] theorem State.setProc_runs (s : State) (k : Nat) (x : FwProc) : (s.setProc k x).runs = s.runs := rfl
@[simp] theorem State.setProc_cores (s : State) (k : Nat) (x : FwProc) : (s.setProc k x).cores = s.cores := rfl
@[simp] theorem State.setProc_islands (s : State) (k : Nat) (x : FwProc) : (s.setProc k x).islands = s.islands := rfl
@[simp] theorem State.setProc_doms (s : State) (k : Nat) (x : FwProc) : (s.setProc k x).doms = s.doms := rfl
@[simp] theorem State.setProc_accts (s : State) (k : Nat) (x : FwProc) : (s.setProc k x).accts = s.accts := rfl
@[simp] theorem State.setProc_mem (s : State) (k : Nat) (x : FwProc) : (s.setProc k x).mem = s.mem := rfl
@[simp] theorem State.setProc_stage (s : State) (k : Nat) (x : FwProc) : (s.setProc k x).stage = s.stage := rfl
@[simp] theorem State.setProc_acc (s : State) (k : Nat) (x : FwProc) : (s.setProc k x).acc = s.acc := rfl
@[simp] theorem State.setProc_ob (s : State) (k : Nat) (x : FwProc) : (s.setProc k x).ob = s.ob := rfl
@[simp] theorem State.setProc_flight (s : State) (k : Nat) (x : FwProc) : (s.setProc k x).flight = s.flight := rfl
@[simp] theorem State.setProc_msc (s : State) (k : Nat) (x : FwProc) : (s.setProc k x).msc = s.msc := rfl
@[simp] theorem State.setProc_sealing (s : State) (k : Nat) (x : FwProc) : (s.setProc k x).sealing = s.sealing := rfl
@[simp] theorem State.setProc_hbm (s : State) (k : Nat) (x : FwProc) : (s.setProc k x).hbm = s.hbm := rfl
@[simp] theorem State.setProc_scrub (s : State) (k : Nat) (x : FwProc) : (s.setProc k x).scrub = s.scrub := rfl
@[simp] theorem State.setProc_ctxs (s : State) (k : Nat) (x : FwProc) : (s.setProc k x).ctxs = s.ctxs := rfl
@[simp] theorem State.setProc_parts (s : State) (k : Nat) (x : FwProc) : (s.setProc k x).parts = s.parts := rfl
@[simp] theorem State.setProc_vds (s : State) (k : Nat) (x : FwProc) : (s.setProc k x).vds = s.vds := rfl
@[simp] theorem State.setProc_queues (s : State) (k : Nat) (x : FwProc) : (s.setProc k x).queues = s.queues := rfl
@[simp] theorem State.setProc_host (s : State) (k : Nat) (x : FwProc) : (s.setProc k x).host = s.host := rfl
@[simp] theorem State.setProc_power (s : State) (k : Nat) (x : FwProc) : (s.setProc k x).power = s.power := rfl
@[simp] theorem State.setProc_fabric (s : State) (k : Nat) (x : FwProc) : (s.setProc k x).fabric = s.fabric := rfl
@[simp] theorem State.setProc_fw (s : State) (k : Nat) (x : FwProc) : (s.setProc k x).fw = Tab.set {} k x s.fw := rfl
@[simp] theorem State.setProc_sec (s : State) (k : Nat) (x : FwProc) : (s.setProc k x).sec = s.sec := rfl
@[simp] theorem State.setProc_thread (s : State) (k j : Nat) (x : FwProc) : (s.setProc k x).thread j = s.thread j := rfl
@[simp] theorem State.setProc_convoy (s : State) (k j : Nat) (x : FwProc) : (s.setProc k x).convoy j = s.convoy j := rfl
@[simp] theorem State.setProc_crew (s : State) (k j : Nat) (x : FwProc) : (s.setProc k x).crew j = s.crew j := rfl
@[simp] theorem State.setProc_run (s : State) (k j : Nat) (x : FwProc) : (s.setProc k x).run j = s.run j := rfl
@[simp] theorem State.setProc_core (s : State) (k j : Nat) (x : FwProc) : (s.setProc k x).core j = s.core j := rfl
@[simp] theorem State.setProc_island (s : State) (k j : Nat) (x : FwProc) : (s.setProc k x).island j = s.island j := rfl
@[simp] theorem State.setProc_dom (s : State) (k j : Nat) (x : FwProc) : (s.setProc k x).dom j = s.dom j := rfl
@[simp] theorem State.setProc_acct (s : State) (k j : Nat) (x : FwProc) : (s.setProc k x).acct j = s.acct j := rfl
@[simp] theorem State.setProc_ctx (s : State) (k j : Nat) (x : FwProc) : (s.setProc k x).ctx j = s.ctx j := rfl
@[simp] theorem State.setProc_part (s : State) (k j : Nat) (x : FwProc) : (s.setProc k x).part j = s.part j := rfl
@[simp] theorem State.setProc_vd (s : State) (k j : Nat) (x : FwProc) : (s.setProc k x).vd j = s.vd j := rfl
@[simp] theorem State.setProc_queue (s : State) (k j : Nat) (x : FwProc) : (s.setProc k x).queue j = s.queue j := rfl
@[simp] theorem State.setProc_pchan (s : State) (k j : Nat) (x : FwProc) : (s.setProc k x).pchan j = s.pchan j := rfl
@[simp] theorem State.setProc_proc_self (s : State) (k : Nat) (x : FwProc) : (s.setProc k x).proc k = x := Tab.get_set_self ..
theorem State.setProc_proc_ne (s : State) (k j : Nat) (x : FwProc) (h : j ≠ k) : (s.setProc k x).proc j = s.proc j := Tab.get_set_ne _ _ _ _ _ h
theorem State.setProc_proc (s : State) (k j : Nat) (x : FwProc) : (s.setProc k x).proc j = if j = k then x else s.proc j := Tab.get_set ..

/-! ### post -/

@[simp] theorem State.post_due (s : State) (l : List Instr) : (s.post l).due = s.due ++ l := rfl
@[simp] theorem State.post_issue (s : State) (l : List Instr) : (s.post l).issue = s.issue := rfl
@[simp] theorem State.post_barBytes (s : State) (l : List Instr) : (s.post l).barBytes = s.barBytes := rfl
@[simp] theorem State.post_cur (s : State) (l : List Instr) : (s.post l).cur = s.cur := rfl
@[simp] theorem State.post_fwIssue (s : State) (l : List Instr) : (s.post l).fwIssue = s.fwIssue := rfl
@[simp] theorem State.post_turn (s : State) (l : List Instr) : (s.post l).turn = s.turn := rfl
@[simp] theorem State.post_fresh (s : State) (l : List Instr) : (s.post l).fresh = s.fresh := rfl
@[simp] theorem State.post_threads (s : State) (l : List Instr) : (s.post l).threads = s.threads := rfl
@[simp] theorem State.post_convoys (s : State) (l : List Instr) : (s.post l).convoys = s.convoys := rfl
@[simp] theorem State.post_words (s : State) (l : List Instr) : (s.post l).words = s.words := rfl
@[simp] theorem State.post_laybys (s : State) (l : List Instr) : (s.post l).laybys = s.laybys := rfl
@[simp] theorem State.post_crews (s : State) (l : List Instr) : (s.post l).crews = s.crews := rfl
@[simp] theorem State.post_runs (s : State) (l : List Instr) : (s.post l).runs = s.runs := rfl
@[simp] theorem State.post_cores (s : State) (l : List Instr) : (s.post l).cores = s.cores := rfl
@[simp] theorem State.post_islands (s : State) (l : List Instr) : (s.post l).islands = s.islands := rfl
@[simp] theorem State.post_doms (s : State) (l : List Instr) : (s.post l).doms = s.doms := rfl
@[simp] theorem State.post_accts (s : State) (l : List Instr) : (s.post l).accts = s.accts := rfl
@[simp] theorem State.post_mem (s : State) (l : List Instr) : (s.post l).mem = s.mem := rfl
@[simp] theorem State.post_stage (s : State) (l : List Instr) : (s.post l).stage = s.stage := rfl
@[simp] theorem State.post_acc (s : State) (l : List Instr) : (s.post l).acc = s.acc := rfl
@[simp] theorem State.post_ob (s : State) (l : List Instr) : (s.post l).ob = s.ob := rfl
@[simp] theorem State.post_flight (s : State) (l : List Instr) : (s.post l).flight = s.flight := rfl
@[simp] theorem State.post_msc (s : State) (l : List Instr) : (s.post l).msc = s.msc := rfl
@[simp] theorem State.post_sealing (s : State) (l : List Instr) : (s.post l).sealing = s.sealing := rfl
@[simp] theorem State.post_hbm (s : State) (l : List Instr) : (s.post l).hbm = s.hbm := rfl
@[simp] theorem State.post_scrub (s : State) (l : List Instr) : (s.post l).scrub = s.scrub := rfl
@[simp] theorem State.post_ctxs (s : State) (l : List Instr) : (s.post l).ctxs = s.ctxs := rfl
@[simp] theorem State.post_parts (s : State) (l : List Instr) : (s.post l).parts = s.parts := rfl
@[simp] theorem State.post_vds (s : State) (l : List Instr) : (s.post l).vds = s.vds := rfl
@[simp] theorem State.post_queues (s : State) (l : List Instr) : (s.post l).queues = s.queues := rfl
@[simp] theorem State.post_host (s : State) (l : List Instr) : (s.post l).host = s.host := rfl
@[simp] theorem State.post_power (s : State) (l : List Instr) : (s.post l).power = s.power := rfl
@[simp] theorem State.post_fabric (s : State) (l : List Instr) : (s.post l).fabric = s.fabric := rfl
@[simp] theorem State.post_fw (s : State) (l : List Instr) : (s.post l).fw = s.fw := rfl
@[simp] theorem State.post_sec (s : State) (l : List Instr) : (s.post l).sec = s.sec := rfl
@[simp] theorem State.post_thread (s : State) (l : List Instr) (j : Nat) : (s.post l).thread j = s.thread j := rfl
@[simp] theorem State.post_convoy (s : State) (l : List Instr) (j : Nat) : (s.post l).convoy j = s.convoy j := rfl
@[simp] theorem State.post_crew (s : State) (l : List Instr) (j : Nat) : (s.post l).crew j = s.crew j := rfl
@[simp] theorem State.post_run (s : State) (l : List Instr) (j : Nat) : (s.post l).run j = s.run j := rfl
@[simp] theorem State.post_core (s : State) (l : List Instr) (j : Nat) : (s.post l).core j = s.core j := rfl
@[simp] theorem State.post_island (s : State) (l : List Instr) (j : Nat) : (s.post l).island j = s.island j := rfl
@[simp] theorem State.post_dom (s : State) (l : List Instr) (j : Nat) : (s.post l).dom j = s.dom j := rfl
@[simp] theorem State.post_acct (s : State) (l : List Instr) (j : Nat) : (s.post l).acct j = s.acct j := rfl
@[simp] theorem State.post_ctx (s : State) (l : List Instr) (j : Nat) : (s.post l).ctx j = s.ctx j := rfl
@[simp] theorem State.post_part (s : State) (l : List Instr) (j : Nat) : (s.post l).part j = s.part j := rfl
@[simp] theorem State.post_vd (s : State) (l : List Instr) (j : Nat) : (s.post l).vd j = s.vd j := rfl
@[simp] theorem State.post_queue (s : State) (l : List Instr) (j : Nat) : (s.post l).queue j = s.queue j := rfl
@[simp] theorem State.post_pchan (s : State) (l : List Instr) (j : Nat) : (s.post l).pchan j = s.pchan j := rfl
@[simp] theorem State.post_proc (s : State) (l : List Instr) (j : Nat) : (s.post l).proc j = s.proc j := rfl

/-! ### bump -/

@[simp] theorem State.bump_due (s : State)  : s.bump.due = s.due := rfl
@[simp] theorem State.bump_issue (s : State)  : s.bump.issue = s.issue := rfl
@[simp] theorem State.bump_barBytes (s : State)  : s.bump.barBytes = s.barBytes := rfl
@[simp] theorem State.bump_cur (s : State)  : s.bump.cur = s.cur := rfl
@[simp] theorem State.bump_fwIssue (s : State)  : s.bump.fwIssue = s.fwIssue := rfl
@[simp] theorem State.bump_turn (s : State)  : s.bump.turn = s.turn := rfl
@[simp] theorem State.bump_fresh (s : State)  : s.bump.fresh = s.fresh + 1 := rfl
@[simp] theorem State.bump_threads (s : State)  : s.bump.threads = s.threads := rfl
@[simp] theorem State.bump_convoys (s : State)  : s.bump.convoys = s.convoys := rfl
@[simp] theorem State.bump_words (s : State)  : s.bump.words = s.words := rfl
@[simp] theorem State.bump_laybys (s : State)  : s.bump.laybys = s.laybys := rfl
@[simp] theorem State.bump_crews (s : State)  : s.bump.crews = s.crews := rfl
@[simp] theorem State.bump_runs (s : State)  : s.bump.runs = s.runs := rfl
@[simp] theorem State.bump_cores (s : State)  : s.bump.cores = s.cores := rfl
@[simp] theorem State.bump_islands (s : State)  : s.bump.islands = s.islands := rfl
@[simp] theorem State.bump_doms (s : State)  : s.bump.doms = s.doms := rfl
@[simp] theorem State.bump_accts (s : State)  : s.bump.accts = s.accts := rfl
@[simp] theorem State.bump_mem (s : State)  : s.bump.mem = s.mem := rfl
@[simp] theorem State.bump_stage (s : State)  : s.bump.stage = s.stage := rfl
@[simp] theorem State.bump_acc (s : State)  : s.bump.acc = s.acc := rfl
@[simp] theorem State.bump_ob (s : State)  : s.bump.ob = s.ob := rfl
@[simp] theorem State.bump_flight (s : State)  : s.bump.flight = s.flight := rfl
@[simp] theorem State.bump_msc (s : State)  : s.bump.msc = s.msc := rfl
@[simp] theorem State.bump_sealing (s : State)  : s.bump.sealing = s.sealing := rfl
@[simp] theorem State.bump_hbm (s : State)  : s.bump.hbm = s.hbm := rfl
@[simp] theorem State.bump_scrub (s : State)  : s.bump.scrub = s.scrub := rfl
@[simp] theorem State.bump_ctxs (s : State)  : s.bump.ctxs = s.ctxs := rfl
@[simp] theorem State.bump_parts (s : State)  : s.bump.parts = s.parts := rfl
@[simp] theorem State.bump_vds (s : State)  : s.bump.vds = s.vds := rfl
@[simp] theorem State.bump_queues (s : State)  : s.bump.queues = s.queues := rfl
@[simp] theorem State.bump_host (s : State)  : s.bump.host = s.host := rfl
@[simp] theorem State.bump_power (s : State)  : s.bump.power = s.power := rfl
@[simp] theorem State.bump_fabric (s : State)  : s.bump.fabric = s.fabric := rfl
@[simp] theorem State.bump_fw (s : State)  : s.bump.fw = s.fw := rfl
@[simp] theorem State.bump_sec (s : State)  : s.bump.sec = s.sec := rfl
@[simp] theorem State.bump_thread (s : State)  (j : Nat) : s.bump.thread j = s.thread j := rfl
@[simp] theorem State.bump_convoy (s : State)  (j : Nat) : s.bump.convoy j = s.convoy j := rfl
@[simp] theorem State.bump_crew (s : State)  (j : Nat) : s.bump.crew j = s.crew j := rfl
@[simp] theorem State.bump_run (s : State)  (j : Nat) : s.bump.run j = s.run j := rfl
@[simp] theorem State.bump_core (s : State)  (j : Nat) : s.bump.core j = s.core j := rfl
@[simp] theorem State.bump_island (s : State)  (j : Nat) : s.bump.island j = s.island j := rfl
@[simp] theorem State.bump_dom (s : State)  (j : Nat) : s.bump.dom j = s.dom j := rfl
@[simp] theorem State.bump_acct (s : State)  (j : Nat) : s.bump.acct j = s.acct j := rfl
@[simp] theorem State.bump_ctx (s : State)  (j : Nat) : s.bump.ctx j = s.ctx j := rfl
@[simp] theorem State.bump_part (s : State)  (j : Nat) : s.bump.part j = s.part j := rfl
@[simp] theorem State.bump_vd (s : State)  (j : Nat) : s.bump.vd j = s.vd j := rfl
@[simp] theorem State.bump_queue (s : State)  (j : Nat) : s.bump.queue j = s.queue j := rfl
@[simp] theorem State.bump_pchan (s : State)  (j : Nat) : s.bump.pchan j = s.pchan j := rfl
@[simp] theorem State.bump_proc (s : State)  (j : Nat) : s.bump.proc j = s.proc j := rfl

/-! ### setThreads -/

@[simp] theorem State.setThreads_due (s : State) (ks : List Nat) (h : Nat → Thread) : (s.setThreads ks h).due = s.due := rfl
@[simp] theorem State.setThreads_issue (s : State) (ks : List Nat) (h : Nat → Thread) : (s.setThreads ks h).issue = s.issue := rfl
@[simp] theorem State.setThreads_barBytes (s : State) (ks : List Nat) (h : Nat → Thread) : (s.setThreads ks h).barBytes = s.barBytes := rfl
@[simp] theorem State.setThreads_cur (s : State) (ks : List Nat) (h : Nat → Thread) : (s.setThreads ks h).cur = s.cur := rfl
@[simp] theorem State.setThreads_fwIssue (s : State) (ks : List Nat) (h : Nat → Thread) : (s.setThreads ks h).fwIssue = s.fwIssue := rfl
@[simp] theorem State.setThreads_turn (s : State) (ks : List Nat) (h : Nat → Thread) : (s.setThreads ks h).turn = s.turn := rfl
@[simp] theorem State.setThreads_fresh (s : State) (ks : List Nat) (h : Nat → Thread) : (s.setThreads ks h).fresh = s.fresh := rfl
@[simp] theorem State.setThreads_threads (s : State) (ks : List Nat) (h : Nat → Thread) : (s.setThreads ks h).threads = Tab.setMany {} ks h s.threads := rfl
@[simp] theorem State.setThreads_convoys (s : State) (ks : List Nat) (h : Nat → Thread) : (s.setThreads ks h).convoys = s.convoys := rfl
@[simp] theorem State.setThreads_words (s : State) (ks : List Nat) (h : Nat → Thread) : (s.setThreads ks h).words = s.words := rfl
@[simp] theorem State.setThreads_laybys (s : State) (ks : List Nat) (h : Nat → Thread) : (s.setThreads ks h).laybys = s.laybys := rfl
@[simp] theorem State.setThreads_crews (s : State) (ks : List Nat) (h : Nat → Thread) : (s.setThreads ks h).crews = s.crews := rfl
@[simp] theorem State.setThreads_runs (s : State) (ks : List Nat) (h : Nat → Thread) : (s.setThreads ks h).runs = s.runs := rfl
@[simp] theorem State.setThreads_cores (s : State) (ks : List Nat) (h : Nat → Thread) : (s.setThreads ks h).cores = s.cores := rfl
@[simp] theorem State.setThreads_islands (s : State) (ks : List Nat) (h : Nat → Thread) : (s.setThreads ks h).islands = s.islands := rfl
@[simp] theorem State.setThreads_doms (s : State) (ks : List Nat) (h : Nat → Thread) : (s.setThreads ks h).doms = s.doms := rfl
@[simp] theorem State.setThreads_accts (s : State) (ks : List Nat) (h : Nat → Thread) : (s.setThreads ks h).accts = s.accts := rfl
@[simp] theorem State.setThreads_mem (s : State) (ks : List Nat) (h : Nat → Thread) : (s.setThreads ks h).mem = s.mem := rfl
@[simp] theorem State.setThreads_stage (s : State) (ks : List Nat) (h : Nat → Thread) : (s.setThreads ks h).stage = s.stage := rfl
@[simp] theorem State.setThreads_acc (s : State) (ks : List Nat) (h : Nat → Thread) : (s.setThreads ks h).acc = s.acc := rfl
@[simp] theorem State.setThreads_ob (s : State) (ks : List Nat) (h : Nat → Thread) : (s.setThreads ks h).ob = s.ob := rfl
@[simp] theorem State.setThreads_flight (s : State) (ks : List Nat) (h : Nat → Thread) : (s.setThreads ks h).flight = s.flight := rfl
@[simp] theorem State.setThreads_msc (s : State) (ks : List Nat) (h : Nat → Thread) : (s.setThreads ks h).msc = s.msc := rfl
@[simp] theorem State.setThreads_sealing (s : State) (ks : List Nat) (h : Nat → Thread) : (s.setThreads ks h).sealing = s.sealing := rfl
@[simp] theorem State.setThreads_hbm (s : State) (ks : List Nat) (h : Nat → Thread) : (s.setThreads ks h).hbm = s.hbm := rfl
@[simp] theorem State.setThreads_scrub (s : State) (ks : List Nat) (h : Nat → Thread) : (s.setThreads ks h).scrub = s.scrub := rfl
@[simp] theorem State.setThreads_ctxs (s : State) (ks : List Nat) (h : Nat → Thread) : (s.setThreads ks h).ctxs = s.ctxs := rfl
@[simp] theorem State.setThreads_parts (s : State) (ks : List Nat) (h : Nat → Thread) : (s.setThreads ks h).parts = s.parts := rfl
@[simp] theorem State.setThreads_vds (s : State) (ks : List Nat) (h : Nat → Thread) : (s.setThreads ks h).vds = s.vds := rfl
@[simp] theorem State.setThreads_queues (s : State) (ks : List Nat) (h : Nat → Thread) : (s.setThreads ks h).queues = s.queues := rfl
@[simp] theorem State.setThreads_host (s : State) (ks : List Nat) (h : Nat → Thread) : (s.setThreads ks h).host = s.host := rfl
@[simp] theorem State.setThreads_power (s : State) (ks : List Nat) (h : Nat → Thread) : (s.setThreads ks h).power = s.power := rfl
@[simp] theorem State.setThreads_fabric (s : State) (ks : List Nat) (h : Nat → Thread) : (s.setThreads ks h).fabric = s.fabric := rfl
@[simp] theorem State.setThreads_fw (s : State) (ks : List Nat) (h : Nat → Thread) : (s.setThreads ks h).fw = s.fw := rfl
@[simp] theorem State.setThreads_sec (s : State) (ks : List Nat) (h : Nat → Thread) : (s.setThreads ks h).sec = s.sec := rfl
theorem State.setThreads_thread (s : State) (ks : List Nat) (h : Nat → Thread) (j : Nat) : (s.setThreads ks h).thread j = if j ∈ ks then h j else s.thread j := Tab.get_setMany ..
@[simp] theorem State.setThreads_convoy (s : State) (ks : List Nat) (h : Nat → Thread) (j : Nat) : (s.setThreads ks h).convoy j = s.convoy j := rfl
@[simp] theorem State.setThreads_crew (s : State) (ks : List Nat) (h : Nat → Thread) (j : Nat) : (s.setThreads ks h).crew j = s.crew j := rfl
@[simp] theorem State.setThreads_run (s : State) (ks : List Nat) (h : Nat → Thread) (j : Nat) : (s.setThreads ks h).run j = s.run j := rfl
@[simp] theorem State.setThreads_core (s : State) (ks : List Nat) (h : Nat → Thread) (j : Nat) : (s.setThreads ks h).core j = s.core j := rfl
@[simp] theorem State.setThreads_island (s : State) (ks : List Nat) (h : Nat → Thread) (j : Nat) : (s.setThreads ks h).island j = s.island j := rfl
@[simp] theorem State.setThreads_dom (s : State) (ks : List Nat) (h : Nat → Thread) (j : Nat) : (s.setThreads ks h).dom j = s.dom j := rfl
@[simp] theorem State.setThreads_acct (s : State) (ks : List Nat) (h : Nat → Thread) (j : Nat) : (s.setThreads ks h).acct j = s.acct j := rfl
@[simp] theorem State.setThreads_ctx (s : State) (ks : List Nat) (h : Nat → Thread) (j : Nat) : (s.setThreads ks h).ctx j = s.ctx j := rfl
@[simp] theorem State.setThreads_part (s : State) (ks : List Nat) (h : Nat → Thread) (j : Nat) : (s.setThreads ks h).part j = s.part j := rfl
@[simp] theorem State.setThreads_vd (s : State) (ks : List Nat) (h : Nat → Thread) (j : Nat) : (s.setThreads ks h).vd j = s.vd j := rfl
@[simp] theorem State.setThreads_queue (s : State) (ks : List Nat) (h : Nat → Thread) (j : Nat) : (s.setThreads ks h).queue j = s.queue j := rfl
@[simp] theorem State.setThreads_pchan (s : State) (ks : List Nat) (h : Nat → Thread) (j : Nat) : (s.setThreads ks h).pchan j = s.pchan j := rfl
@[simp] theorem State.setThreads_proc (s : State) (ks : List Nat) (h : Nat → Thread) (j : Nat) : (s.setThreads ks h).proc j = s.proc j := rfl

/-! ### setHand -/

@[simp] theorem State.setHand_due (s : State) (k : Nat) (x : Option InHand) : (s.setHand k x).due = s.due := rfl
@[simp] theorem State.setHand_issue (s : State) (k : Nat) (x : Option InHand) : (s.setHand k x).issue = s.issue := rfl
@[simp] theorem State.setHand_barBytes (s : State) (k : Nat) (x : Option InHand) : (s.setHand k x).barBytes = s.barBytes := rfl
@[simp] theorem State.setHand_cur (s : State) (k : Nat) (x : Option InHand) : (s.setHand k x).cur = s.cur := rfl
@[simp] theorem State.setHand_fwIssue (s : State) (k : Nat) (x : Option InHand) : (s.setHand k x).fwIssue = s.fwIssue := rfl
@[simp] theorem State.setHand_turn (s : State) (k : Nat) (x : Option InHand) : (s.setHand k x).turn = s.turn := rfl
@[simp] theorem State.setHand_fresh (s : State) (k : Nat) (x : Option InHand) : (s.setHand k x).fresh = s.fresh := rfl
@[simp] theorem State.setHand_threads (s : State) (k : Nat) (x : Option InHand) : (s.setHand k x).threads = s.threads := rfl
@[simp] theorem State.setHand_convoys (s : State) (k : Nat) (x : Option InHand) : (s.setHand k x).convoys = s.convoys := rfl
@[simp] theorem State.setHand_words (s : State) (k : Nat) (x : Option InHand) : (s.setHand k x).words = Tab.set none k x s.words := rfl
@[simp] theorem State.setHand_laybys (s : State) (k : Nat) (x : Option InHand) : (s.setHand k x).laybys = s.laybys := rfl
@[simp] theorem State.setHand_crews (s : State) (k : Nat) (x : Option InHand) : (s.setHand k x).crews = s.crews := rfl
@[simp] theorem State.setHand_runs (s : State) (k : Nat) (x : Option InHand) : (s.setHand k x).runs = s.runs := rfl
@[simp] theorem State.setHand_cores (s : State) (k : Nat) (x : Option InHand) : (s.setHand k x).cores = s.cores := rfl
@[simp] theorem State.setHand_islands (s : State) (k : Nat) (x : Option InHand) : (s.setHand k x).islands = s.islands := rfl
@[simp] theorem State.setHand_doms (s : State) (k : Nat) (x : Option InHand) : (s.setHand k x).doms = s.doms := rfl
@[simp] theorem State.setHand_accts (s : State) (k : Nat) (x : Option InHand) : (s.setHand k x).accts = s.accts := rfl
@[simp] theorem State.setHand_mem (s : State) (k : Nat) (x : Option InHand) : (s.setHand k x).mem = s.mem := rfl
@[simp] theorem State.setHand_stage (s : State) (k : Nat) (x : Option InHand) : (s.setHand k x).stage = s.stage := rfl
@[simp] theorem State.setHand_acc (s : State) (k : Nat) (x : Option InHand) : (s.setHand k x).acc = s.acc := rfl
@[simp] theorem State.setHand_ob (s : State) (k : Nat) (x : Option InHand) : (s.setHand k x).ob = s.ob := rfl
@[simp] theorem State.setHand_flight (s : State) (k : Nat) (x : Option InHand) : (s.setHand k x).flight = s.flight := rfl
@[simp] theorem State.setHand_msc (s : State) (k : Nat) (x : Option InHand) : (s.setHand k x).msc = s.msc := rfl
@[simp] theorem State.setHand_sealing (s : State) (k : Nat) (x : Option InHand) : (s.setHand k x).sealing = s.sealing := rfl
@[simp] theorem State.setHand_hbm (s : State) (k : Nat) (x : Option InHand) : (s.setHand k x).hbm = s.hbm := rfl
@[simp] theorem State.setHand_scrub (s : State) (k : Nat) (x : Option InHand) : (s.setHand k x).scrub = s.scrub := rfl
@[simp] theorem State.setHand_ctxs (s : State) (k : Nat) (x : Option InHand) : (s.setHand k x).ctxs = s.ctxs := rfl
@[simp] theorem State.setHand_parts (s : State) (k : Nat) (x : Option InHand) : (s.setHand k x).parts = s.parts := rfl
@[simp] theorem State.setHand_vds (s : State) (k : Nat) (x : Option InHand) : (s.setHand k x).vds = s.vds := rfl
@[simp] theorem State.setHand_queues (s : State) (k : Nat) (x : Option InHand) : (s.setHand k x).queues = s.queues := rfl
@[simp] theorem State.setHand_host (s : State) (k : Nat) (x : Option InHand) : (s.setHand k x).host = s.host := rfl
@[simp] theorem State.setHand_power (s : State) (k : Nat) (x : Option InHand) : (s.setHand k x).power = s.power := rfl
@[simp] theorem State.setHand_fabric (s : State) (k : Nat) (x : Option InHand) : (s.setHand k x).fabric = s.fabric := rfl
@[simp] theorem State.setHand_fw (s : State) (k : Nat) (x : Option InHand) : (s.setHand k x).fw = s.fw := rfl
@[simp] theorem State.setHand_sec (s : State) (k : Nat) (x : Option InHand) : (s.setHand k x).sec = s.sec := rfl
@[simp] theorem State.setHand_thread (s : State) (k : Nat) (x : Option InHand) (j : Nat) : (s.setHand k x).thread j = s.thread j := rfl
@[simp] theorem State.setHand_convoy (s : State) (k : Nat) (x : Option InHand) (j : Nat) : (s.setHand k x).convoy j = s.convoy j := rfl
@[simp] theorem State.setHand_crew (s : State) (k : Nat) (x : Option InHand) (j : Nat) : (s.setHand k x).crew j = s.crew j := rfl
@[simp] theorem State.setHand_run (s : State) (k : Nat) (x : Option InHand) (j : Nat) : (s.setHand k x).run j = s.run j := rfl
@[simp] theorem State.setHand_core (s : State) (k : Nat) (x : Option InHand) (j : Nat) : (s.setHand k x).core j = s.core j := rfl
@[simp] theorem State.setHand_island (s : State) (k : Nat) (x : Option InHand) (j : Nat) : (s.setHand k x).island j = s.island j := rfl
@[simp] theorem State.setHand_dom (s : State) (k : Nat) (x : Option InHand) (j : Nat) : (s.setHand k x).dom j = s.dom j := rfl
@[simp] theorem State.setHand_acct (s : State) (k : Nat) (x : Option InHand) (j : Nat) : (s.setHand k x).acct j = s.acct j := rfl
@[simp] theorem State.setHand_ctx (s : State) (k : Nat) (x : Option InHand) (j : Nat) : (s.setHand k x).ctx j = s.ctx j := rfl
@[simp] theorem State.setHand_part (s : State) (k : Nat) (x : Option InHand) (j : Nat) : (s.setHand k x).part j = s.part j := rfl
@[simp] theorem State.setHand_vd (s : State) (k : Nat) (x : Option InHand) (j : Nat) : (s.setHand k x).vd j = s.vd j := rfl
@[simp] theorem State.setHand_queue (s : State) (k : Nat) (x : Option InHand) (j : Nat) : (s.setHand k x).queue j = s.queue j := rfl
@[simp] theorem State.setHand_pchan (s : State) (k : Nat) (x : Option InHand) (j : Nat) : (s.setHand k x).pchan j = s.pchan j := rfl
@[simp] theorem State.setHand_proc (s : State) (k : Nat) (x : Option InHand) (j : Nat) : (s.setHand k x).proc j = s.proc j := rfl

/-! ### writeBytes -/

@[simp] theorem State.writeBytes_due (s : State) (pa : Nat) (bs : List Byte) : (s.writeBytes pa bs).due = s.due := rfl
@[simp] theorem State.writeBytes_issue (s : State) (pa : Nat) (bs : List Byte) : (s.writeBytes pa bs).issue = s.issue := rfl
@[simp] theorem State.writeBytes_barBytes (s : State) (pa : Nat) (bs : List Byte) : (s.writeBytes pa bs).barBytes = s.barBytes := rfl
@[simp] theorem State.writeBytes_cur (s : State) (pa : Nat) (bs : List Byte) : (s.writeBytes pa bs).cur = s.cur := rfl
@[simp] theorem State.writeBytes_fwIssue (s : State) (pa : Nat) (bs : List Byte) : (s.writeBytes pa bs).fwIssue = s.fwIssue := rfl
@[simp] theorem State.writeBytes_turn (s : State) (pa : Nat) (bs : List Byte) : (s.writeBytes pa bs).turn = s.turn := rfl
@[simp] theorem State.writeBytes_fresh (s : State) (pa : Nat) (bs : List Byte) : (s.writeBytes pa bs).fresh = s.fresh := rfl
@[simp] theorem State.writeBytes_threads (s : State) (pa : Nat) (bs : List Byte) : (s.writeBytes pa bs).threads = s.threads := rfl
@[simp] theorem State.writeBytes_convoys (s : State) (pa : Nat) (bs : List Byte) : (s.writeBytes pa bs).convoys = s.convoys := rfl
@[simp] theorem State.writeBytes_words (s : State) (pa : Nat) (bs : List Byte) : (s.writeBytes pa bs).words = s.words := rfl
@[simp] theorem State.writeBytes_laybys (s : State) (pa : Nat) (bs : List Byte) : (s.writeBytes pa bs).laybys = s.laybys := rfl
@[simp] theorem State.writeBytes_crews (s : State) (pa : Nat) (bs : List Byte) : (s.writeBytes pa bs).crews = s.crews := rfl
@[simp] theorem State.writeBytes_runs (s : State) (pa : Nat) (bs : List Byte) : (s.writeBytes pa bs).runs = s.runs := rfl
@[simp] theorem State.writeBytes_cores (s : State) (pa : Nat) (bs : List Byte) : (s.writeBytes pa bs).cores = s.cores := rfl
@[simp] theorem State.writeBytes_islands (s : State) (pa : Nat) (bs : List Byte) : (s.writeBytes pa bs).islands = s.islands := rfl
@[simp] theorem State.writeBytes_doms (s : State) (pa : Nat) (bs : List Byte) : (s.writeBytes pa bs).doms = s.doms := rfl
@[simp] theorem State.writeBytes_accts (s : State) (pa : Nat) (bs : List Byte) : (s.writeBytes pa bs).accts = s.accts := rfl
@[simp] theorem State.writeBytes_mem (s : State) (pa : Nat) (bs : List Byte) : (s.writeBytes pa bs).mem = Tab.setRun 0 pa bs s.mem := rfl
@[simp] theorem State.writeBytes_stage (s : State) (pa : Nat) (bs : List Byte) : (s.writeBytes pa bs).stage = s.stage := rfl
@[simp] theorem State.writeBytes_acc (s : State) (pa : Nat) (bs : List Byte) : (s.writeBytes pa bs).acc = s.acc := rfl
@[simp] theorem State.writeBytes_ob (s : State) (pa : Nat) (bs : List Byte) : (s.writeBytes pa bs).ob = s.ob := rfl
@[simp] theorem State.writeBytes_flight (s : State) (pa : Nat) (bs : List Byte) : (s.writeBytes pa bs).flight = s.flight := rfl
@[simp] theorem State.writeBytes_msc (s : State) (pa : Nat) (bs : List Byte) : (s.writeBytes pa bs).msc = s.msc := rfl
@[simp] theorem State.writeBytes_sealing (s : State) (pa : Nat) (bs : List Byte) : (s.writeBytes pa bs).sealing = s.sealing := rfl
@[simp] theorem State.writeBytes_hbm (s : State) (pa : Nat) (bs : List Byte) : (s.writeBytes pa bs).hbm = s.hbm := rfl
@[simp] theorem State.writeBytes_scrub (s : State) (pa : Nat) (bs : List Byte) : (s.writeBytes pa bs).scrub = s.scrub := rfl
@[simp] theorem State.writeBytes_ctxs (s : State) (pa : Nat) (bs : List Byte) : (s.writeBytes pa bs).ctxs = s.ctxs := rfl
@[simp] theorem State.writeBytes_parts (s : State) (pa : Nat) (bs : List Byte) : (s.writeBytes pa bs).parts = s.parts := rfl
@[simp] theorem State.writeBytes_vds (s : State) (pa : Nat) (bs : List Byte) : (s.writeBytes pa bs).vds = s.vds := rfl
@[simp] theorem State.writeBytes_queues (s : State) (pa : Nat) (bs : List Byte) : (s.writeBytes pa bs).queues = s.queues := rfl
@[simp] theorem State.writeBytes_host (s : State) (pa : Nat) (bs : List Byte) : (s.writeBytes pa bs).host = s.host := rfl
@[simp] theorem State.writeBytes_power (s : State) (pa : Nat) (bs : List Byte) : (s.writeBytes pa bs).power = s.power := rfl
@[simp] theorem State.writeBytes_fabric (s : State) (pa : Nat) (bs : List Byte) : (s.writeBytes pa bs).fabric = s.fabric := rfl
@[simp] theorem State.writeBytes_fw (s : State) (pa : Nat) (bs : List Byte) : (s.writeBytes pa bs).fw = s.fw := rfl
@[simp] theorem State.writeBytes_sec (s : State) (pa : Nat) (bs : List Byte) : (s.writeBytes pa bs).sec = s.sec := rfl
@[simp] theorem State.writeBytes_thread (s : State) (pa : Nat) (bs : List Byte) (j : Nat) : (s.writeBytes pa bs).thread j = s.thread j := rfl
@[simp] theorem State.writeBytes_convoy (s : State) (pa : Nat) (bs : List Byte) (j : Nat) : (s.writeBytes pa bs).convoy j = s.convoy j := rfl
@[simp] theorem State.writeBytes_crew (s : State) (pa : Nat) (bs : List Byte) (j : Nat) : (s.writeBytes pa bs).crew j = s.crew j := rfl
@[simp] theorem State.writeBytes_run (s : State) (pa : Nat) (bs : List Byte) (j : Nat) : (s.writeBytes pa bs).run j = s.run j := rfl
@[simp] theorem State.writeBytes_core (s : State) (pa : Nat) (bs : List Byte) (j : Nat) : (s.writeBytes pa bs).core j = s.core j := rfl
@[simp] theorem State.writeBytes_island (s : State) (pa : Nat) (bs : List Byte) (j : Nat) : (s.writeBytes pa bs).island j = s.island j := rfl
@[simp] theorem State.writeBytes_dom (s : State) (pa : Nat) (bs : List Byte) (j : Nat) : (s.writeBytes pa bs).dom j = s.dom j := rfl
@[simp] theorem State.writeBytes_acct (s : State) (pa : Nat) (bs : List Byte) (j : Nat) : (s.writeBytes pa bs).acct j = s.acct j := rfl
@[simp] theorem State.writeBytes_ctx (s : State) (pa : Nat) (bs : List Byte) (j : Nat) : (s.writeBytes pa bs).ctx j = s.ctx j := rfl
@[simp] theorem State.writeBytes_part (s : State) (pa : Nat) (bs : List Byte) (j : Nat) : (s.writeBytes pa bs).part j = s.part j := rfl
@[simp] theorem State.writeBytes_vd (s : State) (pa : Nat) (bs : List Byte) (j : Nat) : (s.writeBytes pa bs).vd j = s.vd j := rfl
@[simp] theorem State.writeBytes_queue (s : State) (pa : Nat) (bs : List Byte) (j : Nat) : (s.writeBytes pa bs).queue j = s.queue j := rfl
@[simp] theorem State.writeBytes_pchan (s : State) (pa : Nat) (bs : List Byte) (j : Nat) : (s.writeBytes pa bs).pchan j = s.pchan j := rfl
@[simp] theorem State.writeBytes_proc (s : State) (pa : Nat) (bs : List Byte) (j : Nat) : (s.writeBytes pa bs).proc j = s.proc j := rfl

end Sys2Proof.Machine
end

