-- ==== Sys2Proof/Laws/Issue.lean ====
section
/-! SUPPORT. What a charge (09 R240), an issue and the operations around it can change, once for each shared operation. -/

namespace Sys2Proof.Machine

/-! ### Charges: of all of State they write accounts, domains, contexts, leases and fair counts of cores, queue energy, and post -/

/-- What a charge to a context writes: leases and fair counts of cores, LEVEL; a lease request and a dispatch join the agenda. -/
theorem spend_eq (s : State) (a n : Nat) (c : Option Nat) : ∃ C X U, spend s a n c = { s with cores := C, ctxs := X, due := U } := by
  have ask (u : State) (k : Nat) : ∃ C U, askLease u k a = { u with cores := C, due := U } := by
    unfold askLease; dsimp only; split
    · exact ⟨(u.setLease k a { u.lease k a with asked := true }).cores, u.due ++ [.leaseAnswer k a], rfl⟩
    · exact ⟨u.cores, u.due, rfl⟩
  unfold spend; dsimp only; split
  · rename_i k
    split
    · obtain ⟨C, U, h⟩ := ask (addFair (s.setLease k a { s.lease k a with rem := (s.lease k a).rem - n }) k a n) k
      rw [h]; split
      · exact ⟨C, s.ctxs, _, rfl⟩
      · exact ⟨C, s.ctxs, U, rfl⟩
    · exact ⟨s.cores, _, s.due, rfl⟩
  · exact ⟨s.cores, _, s.due, rfl⟩

/-- What a charge writes: accounts, domains, cores, contexts; a lease request joins the agenda. -/
theorem charge_eq (s : State) (a w d : Nat) (c : Option Nat) :
    ∃ A D C X U, charge s a w d c = { s with accts := A, doms := D, cores := C, ctxs := X, due := U } := by
  unfold charge; dsimp only; split
  · obtain ⟨C, X, U, h⟩ := spend_eq ((s.setAcct a { s.acct a with acct := (s.acct a).acct + charged w (s.dom d).cf, est := (s.acct a).est + w }).setDom d
      { s.dom d with e := (s.dom d).e + charged w (s.dom d).cf, part := Tab.set 0 a (Tab.get 0 (s.dom d).part a + charged w (s.dom d).cf) (s.dom d).part })
      a (charged w (s.dom d).cf) c
    exact ⟨_, _, C, X, U, h⟩
  · exact ⟨_, _, s.cores, s.ctxs, s.due, rfl⟩

/-- A charge for a crew writes the queue's energy besides. -/
theorem chargeFor_eq (s : State) (a c w d : Nat) (k : Option Nat) :
    ∃ A D C X U Q, chargeFor s a c w d k = { s with accts := A, doms := D, cores := C, ctxs := X, due := U, queues := Q } := by
  obtain ⟨A, D, C, X, U, h⟩ := charge_eq s a w d k
  unfold chargeFor; dsimp only; rw [h]; split
  · exact ⟨A, D, C, X, U, _, rfl⟩
  · exact ⟨A, D, C, X, U, s.queues, rfl⟩

/-- An issue's charge. -/
theorem chargeIssue_eq (s : State) (k w : Nat) :
    ∃ A D C X U Q, chargeIssue s k w = { s with accts := A, doms := D, cores := C, ctxs := X, due := U, queues := Q } := chargeFor_eq ..

@[simp] theorem spend_accts (s : State) (a n : Nat) (c : Option Nat) : (spend s a n c).accts = s.accts := by
  obtain ⟨_, _, _, h⟩ := spend_eq s a n c; rw [h]
@[simp] theorem spend_doms (s : State) (a n : Nat) (c : Option Nat) : (spend s a n c).doms = s.doms := by
  obtain ⟨_, _, _, h⟩ := spend_eq s a n c; rw [h]
@[simp] theorem charge_issue (s : State) (a w d : Nat) (c : Option Nat) : (charge s a w d c).issue = s.issue := by
  obtain ⟨_, _, _, _, _, h⟩ := charge_eq s a w d c; rw [h]
@[simp] theorem charge_barBytes (s : State) (a w d : Nat) (c : Option Nat) : (charge s a w d c).barBytes = s.barBytes := by
  obtain ⟨_, _, _, _, _, h⟩ := charge_eq s a w d c; rw [h]
@[simp] theorem charge_cur (s : State) (a w d : Nat) (c : Option Nat) : (charge s a w d c).cur = s.cur := by
  obtain ⟨_, _, _, _, _, h⟩ := charge_eq s a w d c; rw [h]
@[simp] theorem charge_fwIssue (s : State) (a w d : Nat) (c : Option Nat) : (charge s a w d c).fwIssue = s.fwIssue := by
  obtain ⟨_, _, _, _, _, h⟩ := charge_eq s a w d c; rw [h]
@[simp] theorem charge_turn (s : State) (a w d : Nat) (c : Option Nat) : (charge s a w d c).turn = s.turn := by
  obtain ⟨_, _, _, _, _, h⟩ := charge_eq s a w d c; rw [h]
@[simp] theorem charge_fresh (s : State) (a w d : Nat) (c : Option Nat) : (charge s a w d c).fresh = s.fresh := by
  obtain ⟨_, _, _, _, _, h⟩ := charge_eq s a w d c; rw [h]
@[simp] theorem charge_threads (s : State) (a w d : Nat) (c : Option Nat) : (charge s a w d c).threads = s.threads := by
  obtain ⟨_, _, _, _, _, h⟩ := charge_eq s a w d c; rw [h]
@[simp] theorem charge_convoys (s : State) (a w d : Nat) (c : Option Nat) : (charge s a w d c).convoys = s.convoys := by
  obtain ⟨_, _, _, _, _, h⟩ := charge_eq s a w d c; rw [h]
@[simp] theorem charge_words (s : State) (a w d : Nat) (c : Option Nat) : (charge s a w d c).words = s.words := by
  obtain ⟨_, _, _, _, _, h⟩ := charge_eq s a w d c; rw [h]
@[simp] theorem charge_laybys (s : State) (a w d : Nat) (c : Option Nat) : (charge s a w d c).laybys = s.laybys := by
  obtain ⟨_, _, _, _, _, h⟩ := charge_eq s a w d c; rw [h]
@[simp] theorem charge_crews (s : State) (a w d : Nat) (c : Option Nat) : (charge s a w d c).crews = s.crews := by
  obtain ⟨_, _, _, _, _, h⟩ := charge_eq s a w d c; rw [h]
@[simp] theorem charge_runs (s : State) (a w d : Nat) (c : Option Nat) : (charge s a w d c).runs = s.runs := by
  obtain ⟨_, _, _, _, _, h⟩ := charge_eq s a w d c; rw [h]
@[simp] theorem charge_islands (s : State) (a w d : Nat) (c : Option Nat) : (charge s a w d c).islands = s.islands := by
  obtain ⟨_, _, _, _, _, h⟩ := charge_eq s a w d c; rw [h]
@[simp] theorem charge_mem (s : State) (a w d : Nat) (c : Option Nat) : (charge s a w d c).mem = s.mem := by
  obtain ⟨_, _, _, _, _, h⟩ := charge_eq s a w d c; rw [h]
@[simp] theorem charge_stage (s : State) (a w d : Nat) (c : Option Nat) : (charge s a w d c).stage = s.stage := by
  obtain ⟨_, _, _, _, _, h⟩ := charge_eq s a w d c; rw [h]
@[simp] theorem charge_acc (s : State) (a w d : Nat) (c : Option Nat) : (charge s a w d c).acc = s.acc := by
  obtain ⟨_, _, _, _, _, h⟩ := charge_eq s a w d c; rw [h]
@[simp] theorem charge_ob (s : State) (a w d : Nat) (c : Option Nat) : (charge s a w d c).ob = s.ob := by
  obtain ⟨_, _, _, _, _, h⟩ := charge_eq s a w d c; rw [h]
@[simp] theorem charge_flight (s : State) (a w d : Nat) (c : Option Nat) : (charge s a w d c).flight = s.flight := by
  obtain ⟨_, _, _, _, _, h⟩ := charge_eq s a w d c; rw [h]
@[simp] theorem charge_msc (s : State) (a w d : Nat) (c : Option Nat) : (charge s a w d c).msc = s.msc := by
  obtain ⟨_, _, _, _, _, h⟩ := charge_eq s a w d c; rw [h]
@[simp] theorem charge_sealing (s : State) (a w d : Nat) (c : Option Nat) : (charge s a w d c).sealing = s.sealing := by
  obtain ⟨_, _, _, _, _, h⟩ := charge_eq s a w d c; rw [h]
@[simp] theorem charge_hbm (s : State) (a w d : Nat) (c : Option Nat) : (charge s a w d c).hbm = s.hbm := by
  obtain ⟨_, _, _, _, _, h⟩ := charge_eq s a w d c; rw [h]
@[simp] theorem charge_scrub (s : State) (a w d : Nat) (c : Option Nat) : (charge s a w d c).scrub = s.scrub := by
  obtain ⟨_, _, _, _, _, h⟩ := charge_eq s a w d c; rw [h]
@[simp] theorem charge_parts (s : State) (a w d : Nat) (c : Option Nat) : (charge s a w d c).parts = s.parts := by
  obtain ⟨_, _, _, _, _, h⟩ := charge_eq s a w d c; rw [h]
@[simp] theorem charge_vds (s : State) (a w d : Nat) (c : Option Nat) : (charge s a w d c).vds = s.vds := by
  obtain ⟨_, _, _, _, _, h⟩ := charge_eq s a w d c; rw [h]
@[simp] theorem charge_host (s : State) (a w d : Nat) (c : Option Nat) : (charge s a w d c).host = s.host := by
  obtain ⟨_, _, _, _, _, h⟩ := charge_eq s a w d c; rw [h]
@[simp] theorem charge_power (s : State) (a w d : Nat) (c : Option Nat) : (charge s a w d c).power = s.power := by
  obtain ⟨_, _, _, _, _, h⟩ := charge_eq s a w d c; rw [h]
@[simp] theorem charge_fabric (s : State) (a w d : Nat) (c : Option Nat) : (charge s a w d c).fabric = s.fabric := by
  obtain ⟨_, _, _, _, _, h⟩ := charge_eq s a w d c; rw [h]
@[simp] theorem charge_fw (s : State) (a w d : Nat) (c : Option Nat) : (charge s a w d c).fw = s.fw := by
  obtain ⟨_, _, _, _, _, h⟩ := charge_eq s a w d c; rw [h]
@[simp] theorem charge_sec (s : State) (a w d : Nat) (c : Option Nat) : (charge s a w d c).sec = s.sec := by
  obtain ⟨_, _, _, _, _, h⟩ := charge_eq s a w d c; rw [h]
@[simp] theorem charge_queues (s : State) (a w d : Nat) (c : Option Nat) : (charge s a w d c).queues = s.queues := by
  obtain ⟨_, _, _, _, _, h⟩ := charge_eq s a w d c; rw [h]
@[simp] theorem chargeFor_issue (s : State) (a c w d : Nat) (k : Option Nat) : (chargeFor s a c w d k).issue = s.issue := by
  obtain ⟨_, _, _, _, _, _, h⟩ := chargeFor_eq s a c w d k; rw [h]
@[simp] theorem chargeIssue_issue (s : State) (k w : Nat) : (chargeIssue s k w).issue = s.issue := chargeFor_issue ..
@[simp] theorem chargeFor_barBytes (s : State) (a c w d : Nat) (k : Option Nat) : (chargeFor s a c w d k).barBytes = s.barBytes := by
  obtain ⟨_, _, _, _, _, _, h⟩ := chargeFor_eq s a c w d k; rw [h]
@[simp] theorem chargeIssue_barBytes (s : State) (k w : Nat) : (chargeIssue s k w).barBytes = s.barBytes := chargeFor_barBytes ..
@[simp] theorem chargeFor_cur (s : State) (a c w d : Nat) (k : Option Nat) : (chargeFor s a c w d k).cur = s.cur := by
  obtain ⟨_, _, _, _, _, _, h⟩ := chargeFor_eq s a c w d k; rw [h]
@[simp] theorem chargeIssue_cur (s : State) (k w : Nat) : (chargeIssue s k w).cur = s.cur := chargeFor_cur ..
@[simp] theorem chargeFor_fwIssue (s : State) (a c w d : Nat) (k : Option Nat) : (chargeFor s a c w d k).fwIssue = s.fwIssue := by
  obtain ⟨_, _, _, _, _, _, h⟩ := chargeFor_eq s a c w d k; rw [h]
@[simp] theorem chargeIssue_fwIssue (s : State) (k w : Nat) : (chargeIssue s k w).fwIssue = s.fwIssue := chargeFor_fwIssue ..
@[simp] theorem chargeFor_turn (s : State) (a c w d : Nat) (k : Option Nat) : (chargeFor s a c w d k).turn = s.turn := by
  obtain ⟨_, _, _, _, _, _, h⟩ := chargeFor_eq s a c w d k; rw [h]
@[simp] theorem chargeIssue_turn (s : State) (k w : Nat) : (chargeIssue s k w).turn = s.turn := chargeFor_turn ..
@[simp] theorem chargeFor_fresh (s : State) (a c w d : Nat) (k : Option Nat) : (chargeFor s a c w d k).fresh = s.fresh := by
  obtain ⟨_, _, _, _, _, _, h⟩ := chargeFor_eq s a c w d k; rw [h]
@[simp] theorem chargeIssue_fresh (s : State) (k w : Nat) : (chargeIssue s k w).fresh = s.fresh := chargeFor_fresh ..
@[simp] theorem chargeFor_threads (s : State) (a c w d : Nat) (k : Option Nat) : (chargeFor s a c w d k).threads = s.threads := by
  obtain ⟨_, _, _, _, _, _, h⟩ := chargeFor_eq s a c w d k; rw [h]
@[simp] theorem chargeIssue_threads (s : State) (k w : Nat) : (chargeIssue s k w).threads = s.threads := chargeFor_threads ..
@[simp] theorem chargeFor_convoys (s : State) (a c w d : Nat) (k : Option Nat) : (chargeFor s a c w d k).convoys = s.convoys := by
  obtain ⟨_, _, _, _, _, _, h⟩ := chargeFor_eq s a c w d k; rw [h]
@[simp] theorem chargeIssue_convoys (s : State) (k w : Nat) : (chargeIssue s k w).convoys = s.convoys := chargeFor_convoys ..
@[simp] theorem chargeFor_words (s : State) (a c w d : Nat) (k : Option Nat) : (chargeFor s a c w d k).words = s.words := by
  obtain ⟨_, _, _, _, _, _, h⟩ := chargeFor_eq s a c w d k; rw [h]
@[simp] theorem chargeIssue_words (s : State) (k w : Nat) : (chargeIssue s k w).words = s.words := chargeFor_words ..
@[simp] theorem chargeFor_laybys (s : State) (a c w d : Nat) (k : Option Nat) : (chargeFor s a c w d k).laybys = s.laybys := by
  obtain ⟨_, _, _, _, _, _, h⟩ := chargeFor_eq s a c w d k; rw [h]
@[simp] theorem chargeIssue_laybys (s : State) (k w : Nat) : (chargeIssue s k w).laybys = s.laybys := chargeFor_laybys ..
@[simp] theorem chargeFor_crews (s : State) (a c w d : Nat) (k : Option Nat) : (chargeFor s a c w d k).crews = s.crews := by
  obtain ⟨_, _, _, _, _, _, h⟩ := chargeFor_eq s a c w d k; rw [h]
@[simp] theorem chargeIssue_crews (s : State) (k w : Nat) : (chargeIssue s k w).crews = s.crews := chargeFor_crews ..
@[simp] theorem chargeFor_runs (s : State) (a c w d : Nat) (k : Option Nat) : (chargeFor s a c w d k).runs = s.runs := by
  obtain ⟨_, _, _, _, _, _, h⟩ := chargeFor_eq s a c w d k; rw [h]
@[simp] theorem chargeIssue_runs (s : State) (k w : Nat) : (chargeIssue s k w).runs = s.runs := chargeFor_runs ..
@[simp] theorem chargeFor_islands (s : State) (a c w d : Nat) (k : Option Nat) : (chargeFor s a c w d k).islands = s.islands := by
  obtain ⟨_, _, _, _, _, _, h⟩ := chargeFor_eq s a c w d k; rw [h]
@[simp] theorem chargeIssue_islands (s : State) (k w : Nat) : (chargeIssue s k w).islands = s.islands := chargeFor_islands ..
@[simp] theorem chargeFor_mem (s : State) (a c w d : Nat) (k : Option Nat) : (chargeFor s a c w d k).mem = s.mem := by
  obtain ⟨_, _, _, _, _, _, h⟩ := chargeFor_eq s a c w d k; rw [h]
@[simp] theorem chargeIssue_mem (s : State) (k w : Nat) : (chargeIssue s k w).mem = s.mem := chargeFor_mem ..
@[simp] theorem chargeFor_stage (s : State) (a c w d : Nat) (k : Option Nat) : (chargeFor s a c w d k).stage = s.stage := by
  obtain ⟨_, _, _, _, _, _, h⟩ := chargeFor_eq s a c w d k; rw [h]
@[simp] theorem chargeIssue_stage (s : State) (k w : Nat) : (chargeIssue s k w).stage = s.stage := chargeFor_stage ..
@[simp] theorem chargeFor_acc (s : State) (a c w d : Nat) (k : Option Nat) : (chargeFor s a c w d k).acc = s.acc := by
  obtain ⟨_, _, _, _, _, _, h⟩ := chargeFor_eq s a c w d k; rw [h]
@[simp] theorem chargeIssue_acc (s : State) (k w : Nat) : (chargeIssue s k w).acc = s.acc := chargeFor_acc ..
@[simp] theorem chargeFor_ob (s : State) (a c w d : Nat) (k : Option Nat) : (chargeFor s a c w d k).ob = s.ob := by
  obtain ⟨_, _, _, _, _, _, h⟩ := chargeFor_eq s a c w d k; rw [h]
@[simp] theorem chargeIssue_ob (s : State) (k w : Nat) : (chargeIssue s k w).ob = s.ob := chargeFor_ob ..
@[simp] theorem chargeFor_flight (s : State) (a c w d : Nat) (k : Option Nat) : (chargeFor s a c w d k).flight = s.flight := by
  obtain ⟨_, _, _, _, _, _, h⟩ := chargeFor_eq s a c w d k; rw [h]
@[simp] theorem chargeIssue_flight (s : State) (k w : Nat) : (chargeIssue s k w).flight = s.flight := chargeFor_flight ..
@[simp] theorem chargeFor_msc (s : State) (a c w d : Nat) (k : Option Nat) : (chargeFor s a c w d k).msc = s.msc := by
  obtain ⟨_, _, _, _, _, _, h⟩ := chargeFor_eq s a c w d k; rw [h]
@[simp] theorem chargeIssue_msc (s : State) (k w : Nat) : (chargeIssue s k w).msc = s.msc := chargeFor_msc ..
@[simp] theorem chargeFor_sealing (s : State) (a c w d : Nat) (k : Option Nat) : (chargeFor s a c w d k).sealing = s.sealing := by
  obtain ⟨_, _, _, _, _, _, h⟩ := chargeFor_eq s a c w d k; rw [h]
@[simp] theorem chargeIssue_sealing (s : State) (k w : Nat) : (chargeIssue s k w).sealing = s.sealing := chargeFor_sealing ..
@[simp] theorem chargeFor_hbm (s : State) (a c w d : Nat) (k : Option Nat) : (chargeFor s a c w d k).hbm = s.hbm := by
  obtain ⟨_, _, _, _, _, _, h⟩ := chargeFor_eq s a c w d k; rw [h]
@[simp] theorem chargeIssue_hbm (s : State) (k w : Nat) : (chargeIssue s k w).hbm = s.hbm := chargeFor_hbm ..
@[simp] theorem chargeFor_scrub (s : State) (a c w d : Nat) (k : Option Nat) : (chargeFor s a c w d k).scrub = s.scrub := by
  obtain ⟨_, _, _, _, _, _, h⟩ := chargeFor_eq s a c w d k; rw [h]
@[simp] theorem chargeIssue_scrub (s : State) (k w : Nat) : (chargeIssue s k w).scrub = s.scrub := chargeFor_scrub ..
@[simp] theorem chargeFor_parts (s : State) (a c w d : Nat) (k : Option Nat) : (chargeFor s a c w d k).parts = s.parts := by
  obtain ⟨_, _, _, _, _, _, h⟩ := chargeFor_eq s a c w d k; rw [h]
@[simp] theorem chargeIssue_parts (s : State) (k w : Nat) : (chargeIssue s k w).parts = s.parts := chargeFor_parts ..
@[simp] theorem chargeFor_vds (s : State) (a c w d : Nat) (k : Option Nat) : (chargeFor s a c w d k).vds = s.vds := by
  obtain ⟨_, _, _, _, _, _, h⟩ := chargeFor_eq s a c w d k; rw [h]
@[simp] theorem chargeIssue_vds (s : State) (k w : Nat) : (chargeIssue s k w).vds = s.vds := chargeFor_vds ..
@[simp] theorem chargeFor_host (s : State) (a c w d : Nat) (k : Option Nat) : (chargeFor s a c w d k).host = s.host := by
  obtain ⟨_, _, _, _, _, _, h⟩ := chargeFor_eq s a c w d k; rw [h]
@[simp] theorem chargeIssue_host (s : State) (k w : Nat) : (chargeIssue s k w).host = s.host := chargeFor_host ..
@[simp] theorem chargeFor_power (s : State) (a c w d : Nat) (k : Option Nat) : (chargeFor s a c w d k).power = s.power := by
  obtain ⟨_, _, _, _, _, _, h⟩ := chargeFor_eq s a c w d k; rw [h]
@[simp] theorem chargeIssue_power (s : State) (k w : Nat) : (chargeIssue s k w).power = s.power := chargeFor_power ..
@[simp] theorem chargeFor_fabric (s : State) (a c w d : Nat) (k : Option Nat) : (chargeFor s a c w d k).fabric = s.fabric := by
  obtain ⟨_, _, _, _, _, _, h⟩ := chargeFor_eq s a c w d k; rw [h]
@[simp] theorem chargeIssue_fabric (s : State) (k w : Nat) : (chargeIssue s k w).fabric = s.fabric := chargeFor_fabric ..
@[simp] theorem chargeFor_fw (s : State) (a c w d : Nat) (k : Option Nat) : (chargeFor s a c w d k).fw = s.fw := by
  obtain ⟨_, _, _, _, _, _, h⟩ := chargeFor_eq s a c w d k; rw [h]
@[simp] theorem chargeIssue_fw (s : State) (k w : Nat) : (chargeIssue s k w).fw = s.fw := chargeFor_fw ..
@[simp] theorem chargeFor_sec (s : State) (a c w d : Nat) (k : Option Nat) : (chargeFor s a c w d k).sec = s.sec := by
  obtain ⟨_, _, _, _, _, _, h⟩ := chargeFor_eq s a c w d k; rw [h]
@[simp] theorem chargeIssue_sec (s : State) (k w : Nat) : (chargeIssue s k w).sec = s.sec := chargeFor_sec ..
@[simp] theorem chargeIssue_thread (s : State) (k w j : Nat) : (chargeIssue s k w).thread j = s.thread j := by unfold State.thread; rw [chargeIssue_threads]
@[simp] theorem chargeIssue_convoy (s : State) (k w j : Nat) : (chargeIssue s k w).convoy j = s.convoy j := by unfold State.convoy; rw [chargeIssue_convoys]
@[simp] theorem chargeIssue_crew (s : State) (k w j : Nat) : (chargeIssue s k w).crew j = s.crew j := by unfold State.crew; rw [chargeIssue_crews]
@[simp] theorem chargeIssue_run (s : State) (k w j : Nat) : (chargeIssue s k w).run j = s.run j := by unfold State.run; rw [chargeIssue_runs]
@[simp] theorem chargeIssue_island (s : State) (k w j : Nat) : (chargeIssue s k w).island j = s.island j := by unfold State.island; rw [chargeIssue_islands]
@[simp] theorem chargeIssue_part (s : State) (k w j : Nat) : (chargeIssue s k w).part j = s.part j := by unfold State.part; rw [chargeIssue_parts]
@[simp] theorem chargeIssue_vd (s : State) (k w j : Nat) : (chargeIssue s k w).vd j = s.vd j := by unfold State.vd; rw [chargeIssue_vds]
@[simp] theorem chargeIssue_pchan (s : State) (k w j : Nat) : (chargeIssue s k w).pchan j = s.pchan j := by unfold State.pchan; rw [chargeIssue_hbm]
@[simp] theorem chargeIssue_proc (s : State) (k w j : Nat) : (chargeIssue s k w).proc j = s.proc j := by unfold State.proc; rw [chargeIssue_fw]
@[simp] theorem chargeIssue_g (s : State) (k w j n : Nat) : (chargeIssue s k w).g j n = s.g j n := by simp [State.g]
@[simp] theorem chargeIssue_cycle (s : State) (k w c : Nat) : (chargeIssue s k w).cycle c = s.cycle c := by simp [State.cycle]

/-! ### The convoy's step to the next instruction -/

@[simp] theorem advance_due (s : State) (k : Nat) (i : Instr) : (advance s k i).due = s.due := rfl
@[simp] theorem advance_issue (s : State) (k : Nat) (i : Instr) : (advance s k i).issue = s.issue := rfl
@[simp] theorem advance_barBytes (s : State) (k : Nat) (i : Instr) : (advance s k i).barBytes = s.barBytes := rfl
@[simp] theorem advance_cur (s : State) (k : Nat) (i : Instr) : (advance s k i).cur = s.cur := rfl
@[simp] theorem advance_fwIssue (s : State) (k : Nat) (i : Instr) : (advance s k i).fwIssue = s.fwIssue := rfl
@[simp] theorem advance_turn (s : State) (k : Nat) (i : Instr) : (advance s k i).turn = s.turn := rfl
@[simp] theorem advance_fresh (s : State) (k : Nat) (i : Instr) : (advance s k i).fresh = s.fresh := rfl
@[simp] theorem advance_threads (s : State) (k : Nat) (i : Instr) : (advance s k i).threads = s.threads := rfl
@[simp] theorem advance_laybys (s : State) (k : Nat) (i : Instr) : (advance s k i).laybys = s.laybys := rfl
@[simp] theorem advance_crews (s : State) (k : Nat) (i : Instr) : (advance s k i).crews = s.crews := rfl
@[simp] theorem advance_runs (s : State) (k : Nat) (i : Instr) : (advance s k i).runs = s.runs := rfl
@[simp] theorem advance_cores (s : State) (k : Nat) (i : Instr) : (advance s k i).cores = s.cores := rfl
@[simp] theorem advance_islands (s : State) (k : Nat) (i : Instr) : (advance s k i).islands = s.islands := rfl
@[simp] theorem advance_doms (s : State) (k : Nat) (i : Instr) : (advance s k i).doms = s.doms := rfl
@[simp] theorem advance_accts (s : State) (k : Nat) (i : Instr) : (advance s k i).accts = s.accts := rfl
@[simp] theorem advance_mem (s : State) (k : Nat) (i : Instr) : (advance s k i).mem = s.mem := rfl
@[simp] theorem advance_stage (s : State) (k : Nat) (i : Instr) : (advance s k i).stage = s.stage := rfl
@[simp] theorem advance_acc (s : State) (k : Nat) (i : Instr) : (advance s k i).acc = s.acc := rfl
@[simp] theorem advance_ob (s : State) (k : Nat) (i : Instr) : (advance s k i).ob = s.ob := rfl
@[simp] theorem advance_flight (s : State) (k : Nat) (i : Instr) : (advance s k i).flight = s.flight := rfl
@[simp] theorem advance_msc (s : State) (k : Nat) (i : Instr) : (advance s k i).msc = s.msc := rfl
@[simp] theorem advance_sealing (s : State) (k : Nat) (i : Instr) : (advance s k i).sealing = s.sealing := rfl
@[simp] theorem advance_hbm (s : State) (k : Nat) (i : Instr) : (advance s k i).hbm = s.hbm := rfl
@[simp] theorem advance_scrub (s : State) (k : Nat) (i : Instr) : (advance s k i).scrub = s.scrub := rfl
@[simp] theorem advance_ctxs (s : State) (k : Nat) (i : Instr) : (advance s k i).ctxs = s.ctxs := rfl
@[simp] theorem advance_parts (s : State) (k : Nat) (i : Instr) : (advance s k i).parts = s.parts := rfl
@[simp] theorem advance_vds (s : State) (k : Nat) (i : Instr) : (advance s k i).vds = s.vds := rfl
@[simp] theorem advance_queues (s : State) (k : Nat) (i : Instr) : (advance s k i).queues = s.queues := rfl
@[simp] theorem advance_host (s : State) (k : Nat) (i : Instr) : (advance s k i).host = s.host := rfl
@[simp] theorem advance_power (s : State) (k : Nat) (i : Instr) : (advance s k i).power = s.power := rfl
@[simp] theorem advance_fabric (s : State) (k : Nat) (i : Instr) : (advance s k i).fabric = s.fabric := rfl
@[simp] theorem advance_fw (s : State) (k : Nat) (i : Instr) : (advance s k i).fw = s.fw := rfl
@[simp] theorem advance_sec (s : State) (k : Nat) (i : Instr) : (advance s k i).sec = s.sec := rfl
@[simp] theorem advance_thread (s : State) (k : Nat) (i : Instr) (j : Nat) : (advance s k i).thread j = s.thread j := rfl
@[simp] theorem advance_crew (s : State) (k : Nat) (i : Instr) (j : Nat) : (advance s k i).crew j = s.crew j := rfl
@[simp] theorem advance_run (s : State) (k : Nat) (i : Instr) (j : Nat) : (advance s k i).run j = s.run j := rfl
@[simp] theorem advance_core (s : State) (k : Nat) (i : Instr) (j : Nat) : (advance s k i).core j = s.core j := rfl
@[simp] theorem advance_island (s : State) (k : Nat) (i : Instr) (j : Nat) : (advance s k i).island j = s.island j := rfl
@[simp] theorem advance_dom (s : State) (k : Nat) (i : Instr) (j : Nat) : (advance s k i).dom j = s.dom j := rfl
@[simp] theorem advance_acct (s : State) (k : Nat) (i : Instr) (j : Nat) : (advance s k i).acct j = s.acct j := rfl
@[simp] theorem advance_ctx (s : State) (k : Nat) (i : Instr) (j : Nat) : (advance s k i).ctx j = s.ctx j := rfl
@[simp] theorem advance_part (s : State) (k : Nat) (i : Instr) (j : Nat) : (advance s k i).part j = s.part j := rfl
@[simp] theorem advance_vd (s : State) (k : Nat) (i : Instr) (j : Nat) : (advance s k i).vd j = s.vd j := rfl
@[simp] theorem advance_queue (s : State) (k : Nat) (i : Instr) (j : Nat) : (advance s k i).queue j = s.queue j := rfl
@[simp] theorem advance_pchan (s : State) (k : Nat) (i : Instr) (j : Nat) : (advance s k i).pchan j = s.pchan j := rfl
@[simp] theorem advance_proc (s : State) (k : Nat) (i : Instr) (j : Nat) : (advance s k i).proc j = s.proc j := rfl
theorem advance_convoy (s : State) (k : Nat) (i : Instr) (j : Nat) : (advance s k i).convoy j = if j = k then { s.convoy k with pc := (s.convoy k).pc + byteLen i, hold := .none, checked := false, tolled := false, since := none } else s.convoy j := State.setConvoy_convoy ..
@[simp] theorem continueAt_due (s : State) (k a : Nat) : (continueAt s k a).due = s.due := rfl
@[simp] theorem continueAt_issue (s : State) (k a : Nat) : (continueAt s k a).issue = s.issue := rfl
@[simp] theorem continueAt_barBytes (s : State) (k a : Nat) : (continueAt s k a).barBytes = s.barBytes := rfl
@[simp] theorem continueAt_cur (s : State) (k a : Nat) : (continueAt s k a).cur = s.cur := rfl
@[simp] theorem continueAt_fwIssue (s : State) (k a : Nat) : (continueAt s k a).fwIssue = s.fwIssue := rfl
@[simp] theorem continueAt_turn (s : State) (k a : Nat) : (continueAt s k a).turn = s.turn := rfl
@[simp] theorem continueAt_fresh (s : State) (k a : Nat) : (continueAt s k a).fresh = s.fresh := rfl
@[simp] theorem continueAt_threads (s : State) (k a : Nat) : (continueAt s k a).threads = s.threads := rfl
@[simp] theorem continueAt_laybys (s : State) (k a : Nat) : (continueAt s k a).laybys = s.laybys := rfl
@[simp] theorem continueAt_crews (s : State) (k a : Nat) : (continueAt s k a).crews = s.crews := rfl
@[simp] theorem continueAt_runs (s : State) (k a : Nat) : (continueAt s k a).runs = s.runs := rfl
@[simp] theorem continueAt_cores (s : State) (k a : Nat) : (continueAt s k a).cores = s.cores := rfl
@[simp] theorem continueAt_islands (s : State) (k a : Nat) : (continueAt s k a).islands = s.islands := rfl
@[simp] theorem continueAt_doms (s : State) (k a : Nat) : (continueAt s k a).doms = s.doms := rfl
@[simp] theorem continueAt_accts (s : State) (k a : Nat) : (continueAt s k a).accts = s.accts := rfl
@[simp] theorem continueAt_mem (s : State) (k a : Nat) : (continueAt s k a).mem = s.mem := rfl
@[simp] theorem continueAt_stage (s : State) (k a : Nat) : (continueAt s k a).stage = s.stage := rfl
@[simp] theorem continueAt_acc (s : State) (k a : Nat) : (continueAt s k a).acc = s.acc := rfl
@[simp] theorem continueAt_ob (s : State) (k a : Nat) : (continueAt s k a).ob = s.ob := rfl
@[simp] theorem continueAt_flight (s : State) (k a : Nat) : (continueAt s k a).flight = s.flight := rfl
@[simp] theorem continueAt_msc (s : State) (k a : Nat) : (continueAt s k a).msc = s.msc := rfl
@[simp] theorem continueAt_sealing (s : State) (k a : Nat) : (continueAt s k a).sealing = s.sealing := rfl
@[simp] theorem continueAt_hbm (s : State) (k a : Nat) : (continueAt s k a).hbm = s.hbm := rfl
@[simp] theorem continueAt_scrub (s : State) (k a : Nat) : (continueAt s k a).scrub = s.scrub := rfl
@[simp] theorem continueAt_ctxs (s : State) (k a : Nat) : (continueAt s k a).ctxs = s.ctxs := rfl
@[simp] theorem continueAt_parts (s : State) (k a : Nat) : (continueAt s k a).parts = s.parts := rfl
@[simp] theorem continueAt_vds (s : State) (k a : Nat) : (continueAt s k a).vds = s.vds := rfl
@[simp] theorem continueAt_queues (s : State) (k a : Nat) : (continueAt s k a).queues = s.queues := rfl
@[simp] theorem continueAt_host (s : State) (k a : Nat) : (continueAt s k a).host = s.host := rfl
@[simp] theorem continueAt_power (s : State) (k a : Nat) : (continueAt s k a).power = s.power := rfl
@[simp] theorem continueAt_fabric (s : State) (k a : Nat) : (continueAt s k a).fabric = s.fabric := rfl
@[simp] theorem continueAt_fw (s : State) (k a : Nat) : (continueAt s k a).fw = s.fw := rfl
@[simp] theorem continueAt_sec (s : State) (k a : Nat) : (continueAt s k a).sec = s.sec := rfl
@[simp] theorem continueAt_thread (s : State) (k a : Nat) (j : Nat) : (continueAt s k a).thread j = s.thread j := rfl
@[simp] theorem continueAt_crew (s : State) (k a : Nat) (j : Nat) : (continueAt s k a).crew j = s.crew j := rfl
@[simp] theorem continueAt_run (s : State) (k a : Nat) (j : Nat) : (continueAt s k a).run j = s.run j := rfl
@[simp] theorem continueAt_core (s : State) (k a : Nat) (j : Nat) : (continueAt s k a).core j = s.core j := rfl
@[simp] theorem continueAt_island (s : State) (k a : Nat) (j : Nat) : (continueAt s k a).island j = s.island j := rfl
@[simp] theorem continueAt_dom (s : State) (k a : Nat) (j : Nat) : (continueAt s k a).dom j = s.dom j := rfl
@[simp] theorem continueAt_acct (s : State) (k a : Nat) (j : Nat) : (continueAt s k a).acct j = s.acct j := rfl
@[simp] theorem continueAt_ctx (s : State) (k a : Nat) (j : Nat) : (continueAt s k a).ctx j = s.ctx j := rfl
@[simp] theorem continueAt_part (s : State) (k a : Nat) (j : Nat) : (continueAt s k a).part j = s.part j := rfl
@[simp] theorem continueAt_vd (s : State) (k a : Nat) (j : Nat) : (continueAt s k a).vd j = s.vd j := rfl
@[simp] theorem continueAt_queue (s : State) (k a : Nat) (j : Nat) : (continueAt s k a).queue j = s.queue j := rfl
@[simp] theorem continueAt_pchan (s : State) (k a : Nat) (j : Nat) : (continueAt s k a).pchan j = s.pchan j := rfl
@[simp] theorem continueAt_proc (s : State) (k a : Nat) (j : Nat) : (continueAt s k a).proc j = s.proc j := rfl
theorem continueAt_convoy (s : State) (k a : Nat) (j : Nat) : (continueAt s k a).convoy j = if j = k then { s.convoy k with pc := a, hold := .none, checked := false, tolled := false, since := none } else s.convoy j := State.setConvoy_convoy ..
@[simp] theorem holdAt_due (s : State) (k : Nat) (h : Hold) : (holdAt s k h).due = s.due := rfl
@[simp] theorem holdAt_issue (s : State) (k : Nat) (h : Hold) : (holdAt s k h).issue = s.issue := rfl
@[simp] theorem holdAt_barBytes (s : State) (k : Nat) (h : Hold) : (holdAt s k h).barBytes = s.barBytes := rfl
@[simp] theorem holdAt_cur (s : State) (k : Nat) (h : Hold) : (holdAt s k h).cur = s.cur := rfl
@[simp] theorem holdAt_fwIssue (s : State) (k : Nat) (h : Hold) : (holdAt s k h).fwIssue = s.fwIssue := rfl
@[simp] theorem holdAt_turn (s : State) (k : Nat) (h : Hold) : (holdAt s k h).turn = s.turn := rfl
@[simp] theorem holdAt_fresh (s : State) (k : Nat) (h : Hold) : (holdAt s k h).fresh = s.fresh := rfl
@[simp] theorem holdAt_threads (s : State) (k : Nat) (h : Hold) : (holdAt s k h).threads = s.threads := rfl
@[simp] theorem holdAt_laybys (s : State) (k : Nat) (h : Hold) : (holdAt s k h).laybys = s.laybys := rfl
@[simp] theorem holdAt_crews (s : State) (k : Nat) (h : Hold) : (holdAt s k h).crews = s.crews := rfl
@[simp] theorem holdAt_runs (s : State) (k : Nat) (h : Hold) : (holdAt s k h).runs = s.runs := rfl
@[simp] theorem holdAt_cores (s : State) (k : Nat) (h : Hold) : (holdAt s k h).cores = s.cores := rfl
@[simp] theorem holdAt_islands (s : State) (k : Nat) (h : Hold) : (holdAt s k h).islands = s.islands := rfl
@[simp] theorem holdAt_doms (s : State) (k : Nat) (h : Hold) : (holdAt s k h).doms = s.doms := rfl
@[simp] theorem holdAt_accts (s : State) (k : Nat) (h : Hold) : (holdAt s k h).accts = s.accts := rfl
@[simp] theorem holdAt_mem (s : State) (k : Nat) (h : Hold) : (holdAt s k h).mem = s.mem := rfl
@[simp] theorem holdAt_stage (s : State) (k : Nat) (h : Hold) : (holdAt s k h).stage = s.stage := rfl
@[simp] theorem holdAt_acc (s : State) (k : Nat) (h : Hold) : (holdAt s k h).acc = s.acc := rfl
@[simp] theorem holdAt_ob (s : State) (k : Nat) (h : Hold) : (holdAt s k h).ob = s.ob := rfl
@[simp] theorem holdAt_flight (s : State) (k : Nat) (h : Hold) : (holdAt s k h).flight = s.flight := rfl
@[simp] theorem holdAt_msc (s : State) (k : Nat) (h : Hold) : (holdAt s k h).msc = s.msc := rfl
@[simp] theorem holdAt_sealing (s : State) (k : Nat) (h : Hold) : (holdAt s k h).sealing = s.sealing := rfl
@[simp] theorem holdAt_hbm (s : State) (k : Nat) (h : Hold) : (holdAt s k h).hbm = s.hbm := rfl
@[simp] theorem holdAt_scrub (s : State) (k : Nat) (h : Hold) : (holdAt s k h).scrub = s.scrub := rfl
@[simp] theorem holdAt_ctxs (s : State) (k : Nat) (h : Hold) : (holdAt s k h).ctxs = s.ctxs := rfl
@[simp] theorem holdAt_parts (s : State) (k : Nat) (h : Hold) : (holdAt s k h).parts = s.parts := rfl
@[simp] theorem holdAt_vds (s : State) (k : Nat) (h : Hold) : (holdAt s k h).vds = s.vds := rfl
@[simp] theorem holdAt_queues (s : State) (k : Nat) (h : Hold) : (holdAt s k h).queues = s.queues := rfl
@[simp] theorem holdAt_host (s : State) (k : Nat) (h : Hold) : (holdAt s k h).host = s.host := rfl
@[simp] theorem holdAt_power (s : State) (k : Nat) (h : Hold) : (holdAt s k h).power = s.power := rfl
@[simp] theorem holdAt_fabric (s : State) (k : Nat) (h : Hold) : (holdAt s k h).fabric = s.fabric := rfl
@[simp] theorem holdAt_fw (s : State) (k : Nat) (h : Hold) : (holdAt s k h).fw = s.fw := rfl
@[simp] theorem holdAt_sec (s : State) (k : Nat) (h : Hold) : (holdAt s k h).sec = s.sec := rfl
@[simp] theorem holdAt_thread (s : State) (k : Nat) (h : Hold) (j : Nat) : (holdAt s k h).thread j = s.thread j := rfl
@[simp] theorem holdAt_crew (s : State) (k : Nat) (h : Hold) (j : Nat) : (holdAt s k h).crew j = s.crew j := rfl
@[simp] theorem holdAt_run (s : State) (k : Nat) (h : Hold) (j : Nat) : (holdAt s k h).run j = s.run j := rfl
@[simp] theorem holdAt_core (s : State) (k : Nat) (h : Hold) (j : Nat) : (holdAt s k h).core j = s.core j := rfl
@[simp] theorem holdAt_island (s : State) (k : Nat) (h : Hold) (j : Nat) : (holdAt s k h).island j = s.island j := rfl
@[simp] theorem holdAt_dom (s : State) (k : Nat) (h : Hold) (j : Nat) : (holdAt s k h).dom j = s.dom j := rfl
@[simp] theorem holdAt_acct (s : State) (k : Nat) (h : Hold) (j : Nat) : (holdAt s k h).acct j = s.acct j := rfl
@[simp] theorem holdAt_ctx (s : State) (k : Nat) (h : Hold) (j : Nat) : (holdAt s k h).ctx j = s.ctx j := rfl
@[simp] theorem holdAt_part (s : State) (k : Nat) (h : Hold) (j : Nat) : (holdAt s k h).part j = s.part j := rfl
@[simp] theorem holdAt_vd (s : State) (k : Nat) (h : Hold) (j : Nat) : (holdAt s k h).vd j = s.vd j := rfl
@[simp] theorem holdAt_queue (s : State) (k : Nat) (h : Hold) (j : Nat) : (holdAt s k h).queue j = s.queue j := rfl
@[simp] theorem holdAt_pchan (s : State) (k : Nat) (h : Hold) (j : Nat) : (holdAt s k h).pchan j = s.pchan j := rfl
@[simp] theorem holdAt_proc (s : State) (k : Nat) (h : Hold) (j : Nat) : (holdAt s k h).proc j = s.proc j := rfl
theorem holdAt_convoy (s : State) (k : Nat) (h : Hold) (j : Nat) : (holdAt s k h).convoy j = if j = k then { s.convoy k with hold := h } else s.convoy j := State.setConvoy_convoy ..

/-! ### What a charge does to the rest -/

/-- The account charged rises by the charge, and by the weight (09 R240). -/
theorem charge_acct (s : State) (a w d : Nat) (c : Option Nat) (j : Nat) :
    (charge s a w d c).acct j = if j = a then { s.acct a with acct := (s.acct a).acct + charged w (s.dom d).cf, est := (s.acct a).est + w }
      else s.acct j := by
  have h : (charge s a w d c).accts = Tab.set {} a { s.acct a with acct := (s.acct a).acct + charged w (s.dom d).cf, est := (s.acct a).est + w } s.accts := by
    unfold charge; dsimp only; split
    · exact (spend_accts ..).trans rfl
    · rfl
  unfold State.acct; rw [h]; exact Tab.get_set ..

/-- Other domains are as they were. -/
theorem charge_dom_ne (s : State) (a w d : Nat) (c : Option Nat) (j : Nat) (h : j ≠ d) : (charge s a w d c).dom j = s.dom j := by
  have e : (charge s a w d c).doms = (State.setDom s d { s.dom d with e := (s.dom d).e + charged w (s.dom d).cf, part := Tab.set 0 a (Tab.get 0 (s.dom d).part a + charged w (s.dom d).cf) (s.dom d).part }).doms := by
    unfold charge; dsimp only; split
    · exact (spend_doms ..).trans rfl
    · rfl
  unfold State.dom; rw [e]; exact Tab.get_set_ne _ _ _ _ _ h

theorem askLease_ctxs (s : State) (k c : Nat) : (askLease s k c).ctxs = s.ctxs := by unfold askLease; dsimp only; split <;> rfl

/-- Every context keeps all but LEVEL. -/
theorem spend_ctx (s : State) (a n : Nat) (c : Option Nat) (j : Nat) : ∃ l, (spend s a n c).ctx j = { s.ctx j with level := l } := by
  have base : ∃ l, s.ctx j = { s.ctx j with level := l } := ⟨(s.ctx j).level, rfl⟩
  have lev (x : Int) : ∃ l, (s.setCtx a { s.ctx a with level := x }).ctx j = { s.ctx j with level := l } := by
    rw [State.setCtx_ctx]; split
    · subst_vars; exact ⟨x, rfl⟩
    · exact base
  have ask (u : State) (k : Nat) (h : u.ctxs = s.ctxs) : ∃ l, (askLease u k a).ctx j = { s.ctx j with level := l } := by
    unfold State.ctx; rw [askLease_ctxs, h]; exact base
  unfold spend; dsimp only; split
  · split
    · split
      · rw [State.post_ctx]; exact ask _ _ rfl
      · exact ask _ _ rfl
    · exact lev _
  · exact lev _

theorem charge_ctx (s : State) (a w d : Nat) (c : Option Nat) (j : Nat) :
    ∃ l, (charge s a w d c).ctx j = { s.ctx j with level := l } := by
  unfold charge; dsimp only; split
  · exact spend_ctx _ a _ c j
  · exact ⟨(s.ctx j).level, rfl⟩

/-- Two cores that differ in leases and fair counts only. -/
def SameCore (x y : Core) : Prop := ∃ l a b, y = { x with leases := l, fc0 := a, fc1 := b }

theorem SameCore.refl (x : Core) : SameCore x x := ⟨x.leases, x.fc0, x.fc1, rfl⟩

theorem SameCore.trans {x y z : Core} (h : SameCore x y) (h' : SameCore y z) : SameCore x z := by
  obtain ⟨l, a, b, rfl⟩ := h; obtain ⟨l', a', b', rfl⟩ := h'; exact ⟨l', a', b', rfl⟩

theorem setCore_same (s : State) (k j : Nat) (y : Core) (h : SameCore (s.core k) y) : SameCore (s.core j) ((s.setCore k y).core j) := by
  rw [State.setCore_core]; split
  · subst_vars; exact h
  · exact .refl _

theorem setLease_same (s : State) (k c j : Nat) (l : Lease) : SameCore (s.core j) ((s.setLease k c l).core j) :=
  setCore_same s k j _ ⟨Tab.set {} c l (s.core k).leases, (s.core k).fc0, (s.core k).fc1, rfl⟩

theorem addFair_same (s : State) (k c n j : Nat) : SameCore (s.core j) ((addFair s k c n).core j) := by
  unfold addFair; dsimp only
  exact setCore_same s k j _ ⟨(s.core k).leases, _, _, rfl⟩

theorem askLease_same (s : State) (k c j : Nat) : SameCore (s.core j) ((askLease s k c).core j) := by
  unfold askLease; dsimp only; split
  · exact setLease_same s k c j _
  · exact .refl _

/-- Every core keeps all but its leases and fair counts. -/
theorem spend_core (s : State) (a n : Nat) (c : Option Nat) (j : Nat) : SameCore (s.core j) ((spend s a n c).core j) := by
  have ask (k : Nat) (l : Lease) : SameCore (s.core j) ((askLease (addFair (s.setLease k a l) k a n) k a).core j) :=
    ((setLease_same ..).trans (addFair_same ..)).trans (askLease_same ..)
  unfold spend; dsimp only; split
  · split
    · split
      · rw [State.post_core]; exact ask _ _
      · exact ask _ _
    · exact .refl _
  · exact .refl _

theorem charge_core (s : State) (a w d : Nat) (c : Option Nat) (j : Nat) : SameCore (s.core j) ((charge s a w d c).core j) := by
  have h (u : State) (n : Nat) (e : u.core j = s.core j) : SameCore (s.core j) ((spend u a n c).core j) := e ▸ spend_core u a n c j
  unfold charge; dsimp only; split
  · exact h _ _ (by rw [State.setDom_core, State.setAcct_core])
  · exact .refl _

/-- Every queue keeps all but the energy counted for it (09 R260). -/
theorem chargeFor_queue (s : State) (a c w d : Nat) (k : Option Nat) (j : Nat) :
    ∃ e, (chargeFor s a c w d k).queue j = { s.queue j with energy := e } := by
  have h : (charge s a w d k).queue = s.queue := by funext n; unfold State.queue; rw [charge_queues]
  unfold chargeFor; dsimp only; split
  · rw [State.setQueue_queue, h]; split
    · subst_vars; exact ⟨_, rfl⟩
    · exact ⟨_, rfl⟩
  · rw [h]; exact ⟨_, rfl⟩

/-- The issue's charge (09 R240, R242) to the context of the convoy's crew. -/
theorem chargeIssue_acct (s : State) (k w j : Nat) :
    (chargeIssue s k w).acct j =
      if j = (s.crew (s.convoy k).crew).ctx then
        { s.acct j with acct := (s.acct j).acct + charged w (s.dom ((s.convoy k).core / 2)).cf, est := (s.acct j).est + w }
      else s.acct j := by
  have h (u : State) (q : Nat) (x : Queue) : (u.setQueue q x).acct = u.acct := rfl
  unfold chargeIssue chargeCore chargeFor; dsimp only; split
  · rw [h, charge_acct]; split
    · subst_vars; rfl
    · rfl
  · rw [charge_acct]; split
    · subst_vars; rfl
    · rfl

theorem chargeIssue_ctx (s : State) (k w j : Nat) : ∃ l, (chargeIssue s k w).ctx j = { s.ctx j with level := l } := by
  unfold chargeIssue chargeCore chargeFor; dsimp only; split
  · exact charge_ctx ..
  · exact charge_ctx ..

theorem chargeIssue_core (s : State) (k w j : Nat) : SameCore (s.core j) ((chargeIssue s k w).core j) := by
  unfold chargeIssue chargeCore chargeFor; dsimp only; split
  · exact charge_core ..
  · exact charge_core ..

theorem chargeIssue_queue (s : State) (k w j : Nat) : ∃ e, (chargeIssue s k w).queue j = { s.queue j with energy := e } :=
  chargeFor_queue ..

/-! ### Issue -/

/-- An instruction whose checks pass acts by its body (14 R374). -/
theorem gated_ready (i : Instr) (toll : Nat) (illegal : State → Nat → Bool) (check : State → Nat → Option Nat)
    (body : State → Nat → State) (s : State) (hm : (s.convoy s.cur).members ≠ []) (hi : illegal s s.cur = false)
    (ht : toll ≤ (s.island ((s.convoy s.cur).core / 2)).pool ∨ (s.convoy s.cur).checked = true) (hc : check s s.cur = none) :
    gated i toll illegal check body s = body s s.cur := by
  have h1 : (s.convoy s.cur).members.isEmpty = false := by
    cases h : (s.convoy s.cur).members with
    | nil => exact absurd h hm
    | cons => rfl
  have h2 : tollFault s s.cur toll = false := by
    unfold tollFault; rcases ht with h | h
    · simp; omega
    · simp [h]
  unfold gated; simp [h1, h2, hi, hc]

/-- A lane instruction that issues: the charge, the active members' threads, the next instruction. -/
theorem laneOp_ready (i : Instr) (toll g : Nat) (illegal : State → Nat → Bool) (check : State → Nat → Option Nat)
    (h : State → Nat → Nat → Thread) (s : State) (hm : (s.convoy s.cur).members ≠ []) (hi : illegal s s.cur = false)
    (ht : toll ≤ (s.island ((s.convoy s.cur).core / 2)).pool ∨ (s.convoy s.cur).checked = true) (hc : check s s.cur = none) :
    laneOp i toll g illegal check h s =
      advance ((chargeIssue s s.cur (s.weights.ofLane toll (activeKeys s s.cur g).length)).setThreads (activeKeys s s.cur g) (h s s.cur)) s.cur i :=
  gated_ready i toll illegal check _ s hm hi ht hc

/-- A thread after a lane instruction. -/
theorem laneOp_thread (i : Instr) (toll g : Nat) (illegal : State → Nat → Bool) (check : State → Nat → Option Nat)
    (h : State → Nat → Nat → Thread) (s : State) (hm : (s.convoy s.cur).members ≠ []) (hi : illegal s s.cur = false)
    (ht : toll ≤ (s.island ((s.convoy s.cur).core / 2)).pool ∨ (s.convoy s.cur).checked = true) (hc : check s s.cur = none) (x : Nat) :
    (laneOp i toll g illegal check h s).thread x = if x ∈ activeKeys s s.cur g then h s s.cur x else s.thread x := by
  rw [laneOp_ready i toll g illegal check h s hm hi ht hc, advance_thread, State.setThreads_thread, chargeIssue_thread]

/-- A group instruction that issues. -/
theorem groupOp_ready (i : Instr) (illegal : State → Nat → Bool) (check : State → Nat → Option Nat) (body : State → Nat → State)
    (s : State) (hm : (s.convoy s.cur).members ≠ []) (hi : illegal s s.cur = false) (hc : check s s.cur = none) :
    groupOp i illegal check body s = advance (body (chargeGroup s s.cur) s.cur) s.cur i :=
  gated_ready i 0 illegal check _ s hm hi (Or.inl (Nat.zero_le _)) hc

/-! ### g registers -/

/-- Writing a g register (03 R88): g0–g15 discard it. -/
theorem State.setG_g (s : State) (k n m : Nat) (x : DWord) :
    (s.setG k n x).g k m = if 16 ≤ n ∧ m = n then x else s.g k m := by
  unfold State.setG State.g; dsimp only
  by_cases h : n < 16
  · have : ¬ (16 ≤ n ∧ m = n) := by omega
    simp [h, this]
  · by_cases h1 : m < 16
    · have : ¬ (16 ≤ n ∧ m = n) := by omega
      simp [h, h1, this]
    · by_cases h2 : m = n
      · subst h2; have : 16 ≤ m := by omega
        simp [h, this]
      · simp [h, h1, h2, Tab.get_set_ne _ _ _ _ _ h2]

@[simp] theorem State.setG_due (s : State) (k n : Nat) (x : DWord) : (s.setG k n x).due = s.due := by unfold State.setG; dsimp only; split <;> rfl
@[simp] theorem State.setG_issue (s : State) (k n : Nat) (x : DWord) : (s.setG k n x).issue = s.issue := by unfold State.setG; dsimp only; split <;> rfl
@[simp] theorem State.setG_barBytes (s : State) (k n : Nat) (x : DWord) : (s.setG k n x).barBytes = s.barBytes := by unfold State.setG; dsimp only; split <;> rfl
@[simp] theorem State.setG_cur (s : State) (k n : Nat) (x : DWord) : (s.setG k n x).cur = s.cur := by unfold State.setG; dsimp only; split <;> rfl
@[simp] theorem State.setG_fwIssue (s : State) (k n : Nat) (x : DWord) : (s.setG k n x).fwIssue = s.fwIssue := by unfold State.setG; dsimp only; split <;> rfl
@[simp] theorem State.setG_turn (s : State) (k n : Nat) (x : DWord) : (s.setG k n x).turn = s.turn := by unfold State.setG; dsimp only; split <;> rfl
@[simp] theorem State.setG_fresh (s : State) (k n : Nat) (x : DWord) : (s.setG k n x).fresh = s.fresh := by unfold State.setG; dsimp only; split <;> rfl
@[simp] theorem State.setG_threads (s : State) (k n : Nat) (x : DWord) : (s.setG k n x).threads = s.threads := by unfold State.setG; dsimp only; split <;> rfl
@[simp] theorem State.setG_laybys (s : State) (k n : Nat) (x : DWord) : (s.setG k n x).laybys = s.laybys := by unfold State.setG; dsimp only; split <;> rfl
@[simp] theorem State.setG_crews (s : State) (k n : Nat) (x : DWord) : (s.setG k n x).crews = s.crews := by unfold State.setG; dsimp only; split <;> rfl
@[simp] theorem State.setG_runs (s : State) (k n : Nat) (x : DWord) : (s.setG k n x).runs = s.runs := by unfold State.setG; dsimp only; split <;> rfl
@[simp] theorem State.setG_cores (s : State) (k n : Nat) (x : DWord) : (s.setG k n x).cores = s.cores := by unfold State.setG; dsimp only; split <;> rfl
@[simp] theorem State.setG_islands (s : State) (k n : Nat) (x : DWord) : (s.setG k n x).islands = s.islands := by unfold State.setG; dsimp only; split <;> rfl
@[simp] theorem State.setG_doms (s : State) (k n : Nat) (x : DWord) : (s.setG k n x).doms = s.doms := by unfold State.setG; dsimp only; split <;> rfl
@[simp] theorem State.setG_accts (s : State) (k n : Nat) (x : DWord) : (s.setG k n x).accts = s.accts := by unfold State.setG; dsimp only; split <;> rfl
@[simp] theorem State.setG_mem (s : State) (k n : Nat) (x : DWord) : (s.setG k n x).mem = s.mem := by unfold State.setG; dsimp only; split <;> rfl
@[simp] theorem State.setG_stage (s : State) (k n : Nat) (x : DWord) : (s.setG k n x).stage = s.stage := by unfold State.setG; dsimp only; split <;> rfl
@[simp] theorem State.setG_acc (s : State) (k n : Nat) (x : DWord) : (s.setG k n x).acc = s.acc := by unfold State.setG; dsimp only; split <;> rfl
@[simp] theorem State.setG_ob (s : State) (k n : Nat) (x : DWord) : (s.setG k n x).ob = s.ob := by unfold State.setG; dsimp only; split <;> rfl
@[simp] theorem State.setG_flight (s : State) (k n : Nat) (x : DWord) : (s.setG k n x).flight = s.flight := by unfold State.setG; dsimp only; split <;> rfl
@[simp] theorem State.setG_msc (s : State) (k n : Nat) (x : DWord) : (s.setG k n x).msc = s.msc := by unfold State.setG; dsimp only; split <;> rfl
@[simp] theorem State.setG_sealing (s : State) (k n : Nat) (x : DWord) : (s.setG k n x).sealing = s.sealing := by unfold State.setG; dsimp only; split <;> rfl
@[simp] theorem State.setG_hbm (s : State) (k n : Nat) (x : DWord) : (s.setG k n x).hbm = s.hbm := by unfold State.setG; dsimp only; split <;> rfl
@[simp] theorem State.setG_scrub (s : State) (k n : Nat) (x : DWord) : (s.setG k n x).scrub = s.scrub := by unfold State.setG; dsimp only; split <;> rfl
@[simp] theorem State.setG_ctxs (s : State) (k n : Nat) (x : DWord) : (s.setG k n x).ctxs = s.ctxs := by unfold State.setG; dsimp only; split <;> rfl
@[simp] theorem State.setG_parts (s : State) (k n : Nat) (x : DWord) : (s.setG k n x).parts = s.parts := by unfold State.setG; dsimp only; split <;> rfl
@[simp] theorem State.setG_vds (s : State) (k n : Nat) (x : DWord) : (s.setG k n x).vds = s.vds := by unfold State.setG; dsimp only; split <;> rfl
@[simp] theorem State.setG_queues (s : State) (k n : Nat) (x : DWord) : (s.setG k n x).queues = s.queues := by unfold State.setG; dsimp only; split <;> rfl
@[simp] theorem State.setG_host (s : State) (k n : Nat) (x : DWord) : (s.setG k n x).host = s.host := by unfold State.setG; dsimp only; split <;> rfl
@[simp] theorem State.setG_power (s : State) (k n : Nat) (x : DWord) : (s.setG k n x).power = s.power := by unfold State.setG; dsimp only; split <;> rfl
@[simp] theorem State.setG_fabric (s : State) (k n : Nat) (x : DWord) : (s.setG k n x).fabric = s.fabric := by unfold State.setG; dsimp only; split <;> rfl
@[simp] theorem State.setG_fw (s : State) (k n : Nat) (x : DWord) : (s.setG k n x).fw = s.fw := by unfold State.setG; dsimp only; split <;> rfl
@[simp] theorem State.setG_sec (s : State) (k n : Nat) (x : DWord) : (s.setG k n x).sec = s.sec := by unfold State.setG; dsimp only; split <;> rfl

end Sys2Proof.Machine
end

