-- ==== Sys2Proof/Laws/Memory.lean ====
section
/-! SUPPORT. Memory: what a run of bytes reads as after it is written, copied or cleared, and that every operation on memory and
stage memory keeps the canonical form (Memory.wf), which the state after reset has. -/

namespace Sys2Proof

variable {α : Type}

/-! ### Reads after the writes of whole runs -/

theorem Tab.get_append_left (d : α) (k : Nat) (u : Tab α) (hu : ∀ p ∈ u, p.1 ≠ k) : ∀ t : Tab α, Tab.get d (t ++ u) k = Tab.get d t k
  | (j, v) :: t => by
    by_cases h : j = k
    · simp [Tab.get, h]
    · simp [Tab.get, h, Tab.get_append_left d k u hu t]
  | [] => by
    induction u with
    | nil => rfl
    | cons p u ih =>
      obtain ⟨j, v⟩ := p
      have h : ¬ j = k := hu (j, v) (by simp)
      have := ih fun q hq => hu q (by simp [hq])
      simpa [Tab.get, h] using this

theorem Tab.get_append_right (d : α) (k : Nat) (u : Tab α) : ∀ t : Tab α, (∀ p ∈ t, p.1 ≠ k) → Tab.get d (t ++ u) k = Tab.get d u k
  | [], _ => rfl
  | (j, v) :: t, ht => by
    have h : ¬ j = k := ht (j, v) (by simp)
    simpa [Tab.get, h] using Tab.get_append_right d k u t fun q hq => ht q (by simp [hq])

theorem Tab.get_below (d : α) (lo k : Nat) (t : Tab α) :
    Tab.get d (t.filter fun p => decide (p.1 < lo)) k = if k < lo then Tab.get d t k else d := by
  simpa using Tab.get_filter_of d (fun k => decide (k < lo)) k t

theorem Tab.get_above (d : α) (hi k : Nat) (t : Tab α) :
    Tab.get d (t.filter fun p => decide (hi ≤ p.1)) k = if hi ≤ k then Tab.get d t k else d := by
  simpa using Tab.get_filter_of d (fun k => decide (hi ≤ k)) k t

/-- Three parts of a table below, within and above a range of keys. -/
theorem Tab.get_three (d : α) (lo hi k : Nat) (t m : Tab α) (hm : ∀ p ∈ m, lo ≤ p.1 ∧ p.1 < hi) (h : lo ≤ hi) :
    Tab.get d ((t.filter fun p => decide (p.1 < lo)) ++ m ++ (t.filter fun p => decide (hi ≤ p.1))) k =
      if lo ≤ k ∧ k < hi then Tab.get d m k else Tab.get d t k := by
  have below : ∀ p ∈ (t.filter fun p => decide (p.1 < lo)), p.1 < lo := fun p hp => by simpa using (List.mem_filter.mp hp).2
  have above : ∀ p ∈ (t.filter fun p => decide (hi ≤ p.1)), hi ≤ p.1 := fun p hp => by simpa using (List.mem_filter.mp hp).2
  by_cases h1 : k < lo
  · rw [if_neg (by omega), List.append_assoc, Tab.get_append_left, Tab.get_below, if_pos h1]
    intro p hp e
    rcases List.mem_append.mp hp with hp | hp
    · have := hm p hp; omega
    · have := above p hp; omega
  · by_cases h2 : k < hi
    · rw [if_pos (by omega), Tab.get_append_left d k _ (fun p hp e => by have := above p hp; omega),
        Tab.get_append_right d k _ _ (fun p hp e => by have := below p hp; omega)]
    · rw [if_neg (by omega), Tab.get_append_right, Tab.get_above, if_pos (by omega)]
      intro p hp e
      rcases List.mem_append.mp hp with hp | hp
      · have := below p hp; omega
      · have := hm p hp; omega

theorem Tab.get_zipRun [DecidableEq α] (d : α) (vs : List α) : ∀ (lo k : Nat),
    Tab.get d ((((List.range vs.length).map (lo + ·)).zip vs).filter fun p => decide (p.2 ≠ d)) k =
      if lo ≤ k then (vs[k - lo]?).getD d else d := by
  induction vs with
  | nil => intro lo k; simp [Tab.get]
  | cons v vs ih =>
    intro lo k
    have e : (List.range (v :: vs).length).map (lo + ·) = lo :: (List.range vs.length).map (lo + 1 + ·) := by
      simp only [List.length_cons, List.range_succ_eq_map, List.map_cons, List.map_map, Nat.add_zero]
      congr 1; apply List.map_congr_left; intro a _; simp; omega
    rw [e, List.zip_cons_cons]
    have rest := ih (lo + 1) k
    by_cases hk : k = lo
    · subst hk
      rw [if_neg (by omega)] at rest
      by_cases hv : v = d
      · simpa [hv] using rest
      · simp [hv, Tab.get]
    · have hn : ¬ lo = k := fun h => hk h.symm
      have tail : (if lo ≤ k then ((v :: vs)[k - lo]?).getD d else d) = if lo + 1 ≤ k then (vs[k - (lo + 1)]?).getD d else d := by
        by_cases h : lo + 1 ≤ k
        · have h3 : k - lo = (k - (lo + 1)) + 1 := by omega
          rw [if_pos h, if_pos (by omega), h3, List.getElem?_cons_succ]
        · rw [if_neg h, if_neg (by omega)]
      rw [tail, ← rest]
      by_cases hv : v = d
      · simp [hv]
      · simp [hv, Tab.get, hn]

theorem Tab.get_putRun [DecidableEq α] (d : α) (lo : Nat) (vs : List α) (t : Tab α) (k : Nat) :
    Tab.get d (Tab.putRun d lo vs t) k = if lo ≤ k ∧ k < lo + vs.length then (vs[k - lo]?).getD d else Tab.get d t k := by
  unfold Tab.putRun
  rw [Tab.get_three d lo (lo + vs.length) k t _ _ (by omega), Tab.get_zipRun]
  · by_cases h : lo ≤ k ∧ k < lo + vs.length
    · rw [if_pos h, if_pos h, if_pos h.1]
    · rw [if_neg h, if_neg h]
  · intro p hp
    have := List.of_mem_zip (List.mem_filter.mp hp).1
    simp only [List.mem_map, List.mem_range] at this
    omega

theorem Tab.get_shift (d : α) (a b k : Nat) (hk : b ≤ k) : ∀ t : Tab α, (∀ p ∈ t, a ≤ p.1) →
    Tab.get d (t.map fun p => (p.1 - a + b, p.2)) k = Tab.get d t (k - b + a)
  | [], _ => rfl
  | (j, v) :: t, ht => by
    have hj : a ≤ j := ht (j, v) (by simp)
    have ih := Tab.get_shift d a b k hk t fun q hq => ht q (by simp [hq])
    by_cases h : j = k - b + a
    · have h2 : j - a + b = k := by omega
      simp [Tab.get, h]; omega
    · have h2 : ¬ j - a + b = k := by omega
      simp only [List.map_cons, Tab.get, h, h2, if_false]
      exact ih

theorem Tab.get_copyRun (d : α) (src : Tab α) (a n b : Nat) (t : Tab α) (k : Nat) :
    Tab.get d (Tab.copyRun src a n b t) k = if b ≤ k ∧ k < b + n then Tab.get d src (k - b + a) else Tab.get d t k := by
  unfold Tab.copyRun
  rw [Tab.get_three d b (b + n) k t _ _ (by omega)]
  · by_cases h : b ≤ k ∧ k < b + n
    · rw [if_pos h, if_pos h, Tab.get_shift d a b k h.1]
      · have e := Tab.get_filter_of d (fun k => decide (a ≤ k) && decide (k < a + n)) (k - b + a) src
        rw [e, if_pos (by simp; omega)]
      · intro p hp; simpa using And.left (by simpa using (List.mem_filter.mp hp).2)
    · rw [if_neg h, if_neg h]
  · intro p hp
    simp only [List.mem_map, List.mem_filter, Bool.and_eq_true, decide_eq_true_eq] at hp
    obtain ⟨q, ⟨_, h1, h2⟩, rfl⟩ := hp
    simp only; omega

theorem Tab.getRun_eq (d : α) (t : Tab α) (n : Nat) : ∀ k, Tab.getRun d t k n = (List.range n).map fun i => Tab.get d t (k + i) := by
  induction n with
  | zero => intro k; rfl
  | succ n ih =>
    intro k
    rw [Tab.getRun, ih, List.range_succ_eq_map, List.map_cons, List.map_map]
    congr 1; apply List.map_congr_left; intro i _; simp; congr 1; omega

theorem Tab.getRun_setRun_self [DecidableEq α] (d : α) (k : Nat) (vs : List α) (t : Tab α) :
    Tab.getRun d (Tab.setRun d k vs t) k vs.length = vs := by
  rw [Tab.getRun_eq]
  apply List.ext_getElem (by simp)
  intro i h1 h2
  simp only [List.getElem_map, List.getElem_range]
  rw [Tab.get_setRun, if_pos (by omega), Nat.add_sub_cancel_left, List.getElem?_eq_getElem h2]; rfl

theorem Tab.getRun_setRun_apart [DecidableEq α] (d : α) (k j n : Nat) (vs : List α) (t : Tab α)
    (h : j + n ≤ k ∨ k + vs.length ≤ j) : Tab.getRun d (Tab.setRun d k vs t) j n = Tab.getRun d t j n := by
  rw [Tab.getRun_eq, Tab.getRun_eq]
  apply List.map_congr_left
  intro i hi
  rw [List.mem_range] at hi
  rw [Tab.get_setRun, if_neg (by omega)]

theorem leBytes_length (v n : Nat) : (leBytes v n).length = n := by
  induction n generalizing v with
  | zero => rfl
  | succ n ih => simp [leBytes, ih]

/-- The bytes of a number give it back within their width (00 R5). -/
theorem leNat_leBytes (v n : Nat) : leNat (leBytes v n) = v % 256^n := by
  induction n generalizing v with
  | zero => simp [leBytes, leNat, Nat.mod_one]
  | succ n ih =>
    have e : (256 : Nat)^(n + 1) = 256 * 256^n := by rw [Nat.pow_succ, Nat.mul_comm]
    rw [leBytes, leNat, ih, BitVec.toNat_ofNat, e, Nat.mod_mul (a := 256)]

/-! ### The canonical form -/

theorem Tab.wf_foldl_set [DecidableEq α] (d : α) (bs : List (Nat × α)) (t : Tab α) (h : Tab.wf d t = true) :
    Tab.wf d (bs.foldl (fun m b => Tab.set d b.1 b.2 m) t) = true := by
  induction bs generalizing t with
  | nil => exact h
  | cons b bs ih => exact ih _ (Tab.wf_set d _ _ t h)

theorem Tab.wf_foldl_set_at [DecidableEq α] (d : α) (base : Nat) (bs : List (Nat × α)) (t : Tab α) (h : Tab.wf d t = true) :
    Tab.wf d (bs.foldl (fun m b => Tab.set d (base + b.1) b.2 m) t) = true := by
  induction bs generalizing t with
  | nil => exact h
  | cons b bs ih => exact ih _ (Tab.wf_set d _ _ t h)

theorem Tab.wf_foldl_putRun [DecidableEq α] {β : Type} (d : α) (f : β → Nat) (g : β → List α) (xs : List β) (t : Tab α)
    (h : Tab.wf d t = true) : Tab.wf d (xs.foldl (fun m x => Tab.putRun d (f x) (g x) m) t) = true := by
  induction xs generalizing t with
  | nil => exact h
  | cons x xs ih => exact ih _ (Tab.wf_putRun d _ _ t h)

namespace Machine

theorem reset_mem_wf : Memory.wf State.reset.mem = true := rfl
theorem reset_stage_wf : Memory.wf State.reset.stage = true := rfl

theorem writeBytes_wf (s : State) (pa : Nat) (bs : List Byte) (h : Memory.wf s.mem = true) : Memory.wf (s.writeBytes pa bs).mem = true :=
  Tab.wf_setRun 0 bs pa s.mem h

theorem writeBytes_byte (s : State) (pa : Nat) (bs : List Byte) (a : Nat) :
    Tab.get 0 (s.writeBytes pa bs).mem a = if pa ≤ a ∧ a < pa + bs.length then (bs[a - pa]?).getD 0 else Tab.get 0 s.mem a :=
  Tab.get_setRun 0 bs pa s.mem a

theorem readBytes_writeBytes (s : State) (pa : Nat) (bs : List Byte) : (s.writeBytes pa bs).readBytes pa bs.length = bs :=
  Tab.getRun_setRun_self 0 pa bs s.mem

theorem readBytes_writeBytes_apart (s : State) (pa a n : Nat) (bs : List Byte) (h : a + n ≤ pa ∨ pa + bs.length ≤ a) :
    (s.writeBytes pa bs).readBytes a n = s.readBytes a n :=
  Tab.getRun_setRun_apart 0 pa a n bs s.mem h

theorem readNat_writeBytes (s : State) (pa v n : Nat) : (s.writeBytes pa (leBytes v n)).readNat pa n = v % 256^n := by
  have h := readBytes_writeBytes s pa (leBytes v n)
  rw [leBytes_length] at h
  rw [State.readNat, h, leNat_leBytes]

theorem writeSparse_wf (s : State) (bs : List (Nat × Byte)) (h : Memory.wf s.mem = true) : Memory.wf (writeSparse s bs).mem = true :=
  Tab.wf_foldl_set 0 bs s.mem h

theorem moveTab_wf (a n b : Nat) (t : Tab Byte) (h : Memory.wf t = true) : Memory.wf (moveTab t a n b) = true :=
  Tab.wf_copyRun 0 t a n b _ h (Tab.wf_clearRun 0 a n t h)

theorem moveTab_byte (a n b : Nat) (t : Tab Byte) (k : Nat) :
    Tab.get 0 (moveTab t a n b) k =
      if b ≤ k ∧ k < b + n then Tab.get 0 t (k - b + a) else if a ≤ k ∧ k < a + n then 0 else Tab.get 0 t k := by
  rw [moveTab, Tab.get_copyRun, Tab.get_clearRun]

/-- An atomic's operations on a byte table keep its form (06 R158). -/
theorem atomFold_wf (op : AtomOp) (place : AtomPart → Nat) (parts : List AtomPart) (m : Tab Byte) (h : Memory.wf m = true) :
    Memory.wf (atomFold op parts place m).1 = true := by
  unfold atomFold
  suffices ∀ acc : Tab Byte × List (Who × Nat) × List (Nat × Nat), Memory.wf acc.1 = true → ∀ f,
      (∀ (a : Tab Byte × List (Who × Nat) × List (Nat × Nat)) p, Memory.wf a.1 = true → Memory.wf (f a p).1 = true) →
      Memory.wf (parts.foldl f acc).1 = true by
    apply this (m, [], []) h
    intro a p ha
    dsimp only
    split
    · exact ha
    · exact Tab.wf_setRun 0 _ _ _ ha
  intro acc hacc f hf
  induction parts generalizing acc with
  | nil => exact hacc
  | cons p ps ih => exact ih _ (hf _ p hacc)

end Machine

end Sys2Proof
end

