-- ==== Sys2Proof/Laws/Ops.lean ====
section
/-! SUPPORT. For each shared operation of Ops.lean besides the charges: all that it can write, and that it keeps the canonical form of
memory and stage memory. -/

namespace Sys2Proof.Machine

/-- A holding given up (08 R233, R234) writes the convoy and the island. -/
theorem giveUpHolding_eq (s : State) (k : Nat) : ∃ V I, giveUpHolding s k = { s with convoys := V, islands := I } := by
  unfold giveUpHolding; dsimp only; split
  · exact ⟨s.convoys, s.islands, rfl⟩
  · exact ⟨_, _, rfl⟩

/-- A convoy that ends leaves the list of those that issue besides. -/
theorem endConvoy_eq (s : State) (k : Nat) : ∃ V I J, endConvoy s k = { s with convoys := V, islands := I, issue := J } := by
  obtain ⟨V, I, h⟩ := giveUpHolding_eq s k
  unfold endConvoy; dsimp only; rw [h]; exact ⟨_, _, _, rfl⟩

/-- Members that leave (02 R58, R83). -/
theorem dropMembers_eq (s : State) (k : Nat) (ks : List Nat) :
    ∃ V I J, dropMembers s k ks = { s with convoys := V, islands := I, issue := J } := by
  unfold dropMembers; dsimp only; split
  · exact endConvoy_eq s k
  · exact ⟨_, s.islands, s.issue, rfl⟩

/-- Spill (02 R49) writes the thread and its layby. -/
theorem spill_eq (s : State) (crew core quad : Nat) (j : Bool) (t a : Nat) :
    ∃ T L, spill s crew core quad j t a = { s with threads := T, laybys := L } := by
  unfold spill; dsimp only; split
  · exact ⟨_, _, rfl⟩
  · exact ⟨_, _, rfl⟩

theorem spill_fold_eq (crew core quad : Nat) (j : Bool) (l : List (Nat × Nat)) (s : State) :
    ∃ T L, l.foldl (fun s p => spill s crew core quad j p.1 p.2) s = { s with threads := T, laybys := L } := by
  induction l generalizing s with
  | nil => exact ⟨s.threads, s.laybys, rfl⟩
  | cons p l ih =>
    obtain ⟨T, L, h⟩ := spill_eq s crew core quad j p.1 p.2
    obtain ⟨T', L', h'⟩ := ih (spill s crew core quad j p.1 p.2)
    exact ⟨T', L', by rw [List.foldl_cons, h', h]⟩

/-- SpillAll (02 R49): nothing where the table lacks room, else threads and laybys. -/
theorem spillAll_eq (s t : State) (crew core quad : Nat) (j : Bool) (l : List (Nat × Nat))
    (h : spillAll s crew core quad j l = some t) : ∃ T L, t = { s with threads := T, laybys := L } := by
  unfold spillAll at h; dsimp only at h; split at h
  · exact absurd h (by simp)
  · obtain ⟨T, L, e⟩ := spill_fold_eq crew core quad j l s
    exact ⟨T, L, by rw [← e]; exact (Option.some.inj h).symm⟩

/-- SpillAll fails exactly where the new addresses do not fit the 64 entries. -/
theorem spillAll_none (s : State) (crew core quad : Nat) (j : Bool) (l : List (Nat × Nat)) :
    spillAll s crew core quad j l = none ↔
      64 < ((dedup (l.map (·.2))).filter fun a => (s.layby? crew core quad a).isNone).length + s.laybyCount crew core quad := by
  unfold spillAll; dsimp only; split <;> simp <;> omega

/-- A signal (13 R357) writes the processor and may post the answer of its XSWAIT. -/
theorem raiseSignal_eq (s : State) (n bit : Nat) : ∃ F U, raiseSignal s n bit = { s with fw := F, due := U } := by
  unfold raiseSignal; dsimp only; split
  · split
    · exact ⟨_, s.due, rfl⟩
    · exact ⟨_, _, rfl⟩
  · exact ⟨_, s.due, rfl⟩

/-- What taking an exception, a context fault or an event record may write: threads, laybys, convoys, islands, contexts, accounts, domains,
cores' leases, queues' energy, VDs, runs, the host's ring, signals, the agenda, and memory in canonical form. All else is as it was. -/
structure Exc (s t : State) : Prop where
  barBytes : t.barBytes = s.barBytes
  cur : t.cur = s.cur
  fwIssue : t.fwIssue = s.fwIssue
  turn : t.turn = s.turn
  fresh : t.fresh = s.fresh
  words : t.words = s.words
  crews : t.crews = s.crews
  stage : t.stage = s.stage
  acc : t.acc = s.acc
  ob : t.ob = s.ob
  flight : t.flight = s.flight
  msc : t.msc = s.msc
  sealing : t.sealing = s.sealing
  hbm : t.hbm = s.hbm
  scrub : t.scrub = s.scrub
  parts : t.parts = s.parts
  power : t.power = s.power
  fabric : t.fabric = s.fabric
  sec : t.sec = s.sec
  mem : Memory.wf s.mem = true → Memory.wf t.mem = true

theorem Exc.refl (s : State) : Exc s s := by constructor <;> first | rfl | exact id

theorem Exc.trans {s t u : State} (h : Exc s t) (g : Exc t u) : Exc s u where
  barBytes := g.barBytes.trans h.barBytes
  cur := g.cur.trans h.cur
  fwIssue := g.fwIssue.trans h.fwIssue
  turn := g.turn.trans h.turn
  fresh := g.fresh.trans h.fresh
  words := g.words.trans h.words
  crews := g.crews.trans h.crews
  stage := g.stage.trans h.stage
  acc := g.acc.trans h.acc
  ob := g.ob.trans h.ob
  flight := g.flight.trans h.flight
  msc := g.msc.trans h.msc
  sealing := g.sealing.trans h.sealing
  hbm := g.hbm.trans h.hbm
  scrub := g.scrub.trans h.scrub
  parts := g.parts.trans h.parts
  power := g.power.trans h.power
  fabric := g.fabric.trans h.fabric
  sec := g.sec.trans h.sec
  mem := fun w => g.mem (h.mem w)

theorem Exc.setConvoy (s : State) (k : Nat) (c : Convoy) : Exc s (s.setConvoy k c) := by constructor <;> first | rfl | exact id
theorem Exc.setThread (s : State) (k : Nat) (t : Thread) : Exc s (s.setThread k t) := by constructor <;> first | rfl | exact id
theorem Exc.post (s : State) (l : List Instr) : Exc s (s.post l) := by constructor <;> first | rfl | exact id

theorem Exc.dropMembers (s : State) (k : Nat) (ks : List Nat) : Exc s (dropMembers s k ks) := by
  obtain ⟨V, I, J, h⟩ := dropMembers_eq s k ks
  rw [h]; constructor <;> first | rfl | exact id

theorem Exc.spillAll {s t : State} {crew core quad : Nat} {j : Bool} {l : List (Nat × Nat)}
    (h : spillAll s crew core quad j l = some t) : Exc s t := by
  obtain ⟨T, L, h⟩ := spillAll_eq s t crew core quad j l h
  rw [h]; constructor <;> first | rfl | exact id

theorem Exc.raiseSignal (s : State) (n bit : Nat) : Exc s (raiseSignal s n bit) := by
  obtain ⟨F, U, h⟩ := raiseSignal_eq s n bit
  rw [h]; constructor <;> first | rfl | exact id

theorem Exc.chargeIssue (s : State) (k w : Nat) : Exc s (chargeIssue s k w) := by
  obtain ⟨A, D, C, X, U, Q, h⟩ := chargeIssue_eq s k w
  rw [h]; constructor <;> first | rfl | exact id

/-- Writing kept event records into the ring (12 R329). -/
theorem Exc.flushEvents (n : Nat) : ∀ s : State, Exc s (flushEvents n s) := by
  induction n with
  | zero => exact Exc.refl
  | succ n ih =>
    intro s
    unfold Machine.flushEvents; dsimp only
    cases s.host.kept with
    | nil => exact Exc.refl s
    | cons e rest =>
      dsimp only
      generalize List.take 256 _ = b
      split
      · refine Exc.trans ?_ (ih _)
        have w := writeBytes_wf s (hostPa (s.host.ringBase + 256 * ((s.host.evSeq + 1) % s.host.slotCount))) b
        split <;> constructor <;> first | rfl | exact w
      · exact Exc.refl s

/-- An event record (12 R329), with the signal of a context fault or page request. -/
theorem Exc.eventPost (s : State) (type : Nat) (body : List Byte) : Exc s (eventPost s type body) := by
  have keep (u : State) : Exc u (eventKeep u type body) := by constructor <;> first | rfl | exact id
  unfold Machine.eventPost; dsimp only; split
  · exact ((Exc.raiseSignal ..).trans (keep _)).trans (Exc.flushEvents ..)
  · split
    · exact ((Exc.raiseSignal ..).trans (keep _)).trans (Exc.flushEvents ..)
    · exact (keep _).trans (Exc.flushEvents ..)

/-- A context fault (10 R287, R288). -/
theorem Exc.contextFault (s : State) (ctx : Nat) (f : FaultRec) : Exc s (contextFault s ctx f) := by
  unfold Machine.contextFault; dsimp only; split
  · exact Exc.refl s
  · refine Exc.trans (Exc.trans ?_ (Exc.eventPost ..)) (Exc.post ..)
    constructor <;> first | rfl | exact id

/-- A stopped context takes no second fault (10 R288). -/
theorem contextFault_stopped (s : State) (ctx : Nat) (f : FaultRec) (h : (s.ctx ctx).stop ≠ none) : contextFault s ctx f = s := by
  unfold Machine.contextFault; dsimp only; rw [if_pos h]

theorem Exc.foldl {β : Type} (f : State → β → State) (h : ∀ s b, Exc s (f s b)) (l : List β) (s : State) : Exc s (l.foldl f s) := by
  induction l generalizing s with
  | nil => exact Exc.refl s
  | cons b l ih => exact (h s b).trans (ih _)

/-- Taking an exception (10 R284, R285). -/
theorem Exc.trapEntry (s : State) (k : Nat) (w : IWord) (a : Nat) (fs : List MFault) : Exc s (trapEntry s k w a fs) := by
  unfold Machine.trapEntry; dsimp only; split
  · exact Exc.refl s
  · split
    · exact ((Exc.foldl _ (fun _ _ => Exc.setThread ..) _ s).trans (Exc.dropMembers ..)).trans (Exc.contextFault ..)
    · split
      · rename_i h
        exact ((Exc.foldl _ (fun _ _ => Exc.setThread ..) _ s).trans (Exc.spillAll h)).trans (Exc.dropMembers ..)
      · exact (Exc.foldl _ (fun _ _ => Exc.setThread ..) _ s).trans (Exc.setConvoy ..)

/-- An instruction that traps some members and goes on in the others. -/
theorem Exc.finish (s : State) (k : Nat) (i : Instr) (fs : List MFault) : Exc s (finish s k i fs) :=
  (Exc.setConvoy s k _).trans (Exc.trapEntry ..)

/-- A fault of all members before any effect (09 R242): a charge, then the exception. -/
theorem Exc.faultAll (s : State) (k : Nat) (w : IWord) (cause addr : Nat) (val : Nat → Option Nat) : Exc s (faultAll s k w cause addr val) :=
  ((Exc.chargeIssue s k s.weights.group).trans (Exc.setConvoy ..)).trans (Exc.trapEntry ..)

/-- The spill of trapped members that had to wait (02 R49). -/
theorem Exc.trapSpillRetry (s : State) (k : Nat) : Exc s (trapSpillRetry s k) := by
  unfold Machine.trapSpillRetry; dsimp only; split
  · split
    · rename_i h
      exact ((Exc.spillAll h).trans (Exc.setConvoy ..)).trans (Exc.dropMembers ..)
    · exact Exc.refl s
  · exact Exc.refl s

/-! ### Instructions of a convoy -/

/-- An instruction behind the issue gate (14 R374): nothing, the exception of a failed check, or its body. -/
theorem gated_cases (i : Instr) (toll : Nat) (illegal : State → Nat → Bool) (check : State → Nat → Option Nat)
    (body : State → Nat → State) (s : State) :
    Exc s (gated i toll illegal check body s) ∨ gated i toll illegal check body s = body s s.cur := by
  unfold gated; dsimp only; split
  · exact .inl (Exc.refl s)
  · split
    · exact .inl (Exc.faultAll ..)
    · split
      · exact .inl (Exc.faultAll ..)
      · split
        · exact .inl (Exc.faultAll ..)
        · exact .inr rfl

theorem Exc.setThreads (s : State) (ks : List Nat) (h : Nat → Thread) : Exc s (s.setThreads ks h) := by
  constructor <;> first | rfl | exact id
theorem Exc.setG (s : State) (k n : Nat) (x : DWord) : Exc s (s.setG k n x) := by
  unfold State.setG; dsimp only; split
  · exact Exc.refl s
  · exact Exc.setConvoy ..

/-- A lane instruction writes nothing beyond what an exception may write. -/
theorem Exc.laneOp (i : Instr) (toll g : Nat) (illegal : State → Nat → Bool) (check : State → Nat → Option Nat)
    (h : State → Nat → Nat → Thread) (s : State) : Exc s (laneOp i toll g illegal check h s) := by
  unfold Machine.laneOp
  rcases gated_cases i toll illegal check _ s with e | e
  · exact e
  · rw [e]; exact ((Exc.chargeIssue ..).trans (Exc.setThreads ..)).trans (Exc.setConvoy ..)

/-- Nor does a group instruction whose body does not. -/
theorem Exc.groupOp (i : Instr) (illegal : State → Nat → Bool) (check : State → Nat → Option Nat) (body : State → Nat → State)
    (hb : ∀ s k, Exc s (body s k)) (s : State) : Exc s (groupOp i illegal check body s) := by
  unfold Machine.groupOp
  rcases gated_cases i 0 illegal check _ s with e | e
  · exact e
  · rw [e]; exact ((Exc.chargeIssue ..).trans (hb ..)).trans (Exc.setConvoy ..)

end Sys2Proof.Machine
end

