-- ==== Sys2Proof/Laws/PerInstr.lean ====
section
/-! SUPPORT. Per-instruction family Fits: the words of a well-formed instruction are 32-bit words (14 R370, R375). -/

namespace Sys2Proof.Laws.Fits

/-- Both words of the instruction fit 32 bits where it is well formed. -/
def Statement (i : Instr) : Prop := i.wf = true → encode0 i < 2^32 ∧ encode1 i < 2^32

/-- What `fits` says. -/
theorem fits_lt (v w : Nat) : fits v w = true ↔ v < 2^w := by simp [fits]

/-- An event has no words. -/
theorem zero_fits : (0 : Nat) < 2^32 ∧ (0 : Nat) < 2^32 := by decide

/-- One word fits where the other is none. -/
theorem one_fits (n : Nat) (h : n < 2^32) : n < 2^32 ∧ (0 : Nat) < 2^32 := ⟨h, by decide⟩

theorem iadd : ∀ d a b g m : Nat, Statement (.iadd d a b g m) := by
  intro d a b g m h
  have h : (fits d 6 && fits a 6 && fits b 7 && fits g 3 && fits m 3 && decide (m ≤ 4)) = true := h
  show 0x00000000 + put d 19 + put a 13 + put b 6 + put g 3 + put m 0 < 2^32 ∧ 0 < 2^32
  simp only [fits_lt, Bool.and_eq_true, decide_eq_true_eq, put] at h ⊢
  omega
theorem isub : ∀ d a b g m : Nat, Statement (.isub d a b g m) := by
  intro d a b g m h
  have h : (fits d 6 && fits a 6 && fits b 7 && fits g 3 && fits m 3 && decide (m ≤ 4)) = true := h
  show 0x02000000 + put d 19 + put a 13 + put b 6 + put g 3 + put m 0 < 2^32 ∧ 0 < 2^32
  simp only [fits_lt, Bool.and_eq_true, decide_eq_true_eq, put] at h ⊢
  omega
theorem imul : ∀ d a b g m : Nat, Statement (.imul d a b g m) := by
  intro d a b g m h
  have h : (fits d 6 && fits a 6 && fits b 7 && fits g 3 && fits m 3 && decide (m ≤ 4)) = true := h
  show 0x04000000 + put d 19 + put a 13 + put b 6 + put g 3 + put m 0 < 2^32 ∧ 0 < 2^32
  simp only [fits_lt, Bool.and_eq_true, decide_eq_true_eq, put] at h ⊢
  omega
theorem imulh : ∀ d a b g m : Nat, Statement (.imulh d a b g m) := by
  intro d a b g m h
  have h : (fits d 6 && fits a 6 && fits b 7 && fits g 3 && fits m 3 && decide (m ≤ 4)) = true := h
  show 0x06000000 + put d 19 + put a 13 + put b 6 + put g 3 + put m 0 < 2^32 ∧ 0 < 2^32
  simp only [fits_lt, Bool.and_eq_true, decide_eq_true_eq, put] at h ⊢
  omega
theorem imulhu : ∀ d a b g m : Nat, Statement (.imulhu d a b g m) := by
  intro d a b g m h
  have h : (fits d 6 && fits a 6 && fits b 7 && fits g 3 && fits m 3 && decide (m ≤ 4)) = true := h
  show 0x08000000 + put d 19 + put a 13 + put b 6 + put g 3 + put m 0 < 2^32 ∧ 0 < 2^32
  simp only [fits_lt, Bool.and_eq_true, decide_eq_true_eq, put] at h ⊢
  omega
theorem imad : ∀ d a b g m : Nat, Statement (.imad d a b g m) := by
  intro d a b g m h
  have h : (fits d 6 && fits a 6 && fits b 7 && fits g 3 && fits m 3 && decide (m ≤ 4)) = true := h
  show 0x0A000000 + put d 19 + put a 13 + put b 6 + put g 3 + put m 0 < 2^32 ∧ 0 < 2^32
  simp only [fits_lt, Bool.and_eq_true, decide_eq_true_eq, put] at h ⊢
  omega
theorem imin : ∀ d a b g m : Nat, Statement (.imin d a b g m) := by
  intro d a b g m h
  have h : (fits d 6 && fits a 6 && fits b 7 && fits g 3 && fits m 3 && decide (m ≤ 4)) = true := h
  show 0x0C000000 + put d 19 + put a 13 + put b 6 + put g 3 + put m 0 < 2^32 ∧ 0 < 2^32
  simp only [fits_lt, Bool.and_eq_true, decide_eq_true_eq, put] at h ⊢
  omega
theorem imax : ∀ d a b g m : Nat, Statement (.imax d a b g m) := by
  intro d a b g m h
  have h : (fits d 6 && fits a 6 && fits b 7 && fits g 3 && fits m 3 && decide (m ≤ 4)) = true := h
  show 0x0E000000 + put d 19 + put a 13 + put b 6 + put g 3 + put m 0 < 2^32 ∧ 0 < 2^32
  simp only [fits_lt, Bool.and_eq_true, decide_eq_true_eq, put] at h ⊢
  omega
theorem iminu : ∀ d a b g m : Nat, Statement (.iminu d a b g m) := by
  intro d a b g m h
  have h : (fits d 6 && fits a 6 && fits b 7 && fits g 3 && fits m 3 && decide (m ≤ 4)) = true := h
  show 0x10000000 + put d 19 + put a 13 + put b 6 + put g 3 + put m 0 < 2^32 ∧ 0 < 2^32
  simp only [fits_lt, Bool.and_eq_true, decide_eq_true_eq, put] at h ⊢
  omega
theorem imaxu : ∀ d a b g m : Nat, Statement (.imaxu d a b g m) := by
  intro d a b g m h
  have h : (fits d 6 && fits a 6 && fits b 7 && fits g 3 && fits m 3 && decide (m ≤ 4)) = true := h
  show 0x12000000 + put d 19 + put a 13 + put b 6 + put g 3 + put m 0 < 2^32 ∧ 0 < 2^32
  simp only [fits_lt, Bool.and_eq_true, decide_eq_true_eq, put] at h ⊢
  omega
theorem iadds : ∀ d a b g m : Nat, Statement (.iadds d a b g m) := by
  intro d a b g m h
  have h : (fits d 6 && fits a 6 && fits b 7 && fits g 3 && fits m 3 && decide (m ≤ 4)) = true := h
  show 0x14000000 + put d 19 + put a 13 + put b 6 + put g 3 + put m 0 < 2^32 ∧ 0 < 2^32
  simp only [fits_lt, Bool.and_eq_true, decide_eq_true_eq, put] at h ⊢
  omega
theorem isubs : ∀ d a b g m : Nat, Statement (.isubs d a b g m) := by
  intro d a b g m h
  have h : (fits d 6 && fits a 6 && fits b 7 && fits g 3 && fits m 3 && decide (m ≤ 4)) = true := h
  show 0x16000000 + put d 19 + put a 13 + put b 6 + put g 3 + put m 0 < 2^32 ∧ 0 < 2^32
  simp only [fits_lt, Bool.and_eq_true, decide_eq_true_eq, put] at h ⊢
  omega
theorem iabs : ∀ d a g m : Nat, Statement (.iabs d a g m) := by
  intro d a g m h
  have h : (fits d 6 && fits a 6 && fits g 3 && fits m 3 && decide (m ≤ 4)) = true := h
  show 0x18000000 + put d 19 + put a 13 + put g 3 + put m 0 < 2^32 ∧ 0 < 2^32
  simp only [fits_lt, Bool.and_eq_true, decide_eq_true_eq, put] at h ⊢
  omega
theorem andl : ∀ d a b g : Nat, Statement (.andl d a b g) := by
  intro d a b g h
  have h : (fits d 6 && fits a 6 && fits b 7 && fits g 3) = true := h
  show 0x1A000000 + put d 19 + put a 13 + put b 6 + put g 3 < 2^32 ∧ 0 < 2^32
  simp only [fits_lt, Bool.and_eq_true, put] at h ⊢
  omega
theorem orl : ∀ d a b g : Nat, Statement (.orl d a b g) := by
  intro d a b g h
  have h : (fits d 6 && fits a 6 && fits b 7 && fits g 3) = true := h
  show 0x1C000000 + put d 19 + put a 13 + put b 6 + put g 3 < 2^32 ∧ 0 < 2^32
  simp only [fits_lt, Bool.and_eq_true, put] at h ⊢
  omega
theorem xorl : ∀ d a b g : Nat, Statement (.xorl d a b g) := by
  intro d a b g h
  have h : (fits d 6 && fits a 6 && fits b 7 && fits g 3) = true := h
  show 0x1E000000 + put d 19 + put a 13 + put b 6 + put g 3 < 2^32 ∧ 0 < 2^32
  simp only [fits_lt, Bool.and_eq_true, put] at h ⊢
  omega
theorem andnl : ∀ d a b g : Nat, Statement (.andnl d a b g) := by
  intro d a b g h
  have h : (fits d 6 && fits a 6 && fits b 7 && fits g 3) = true := h
  show 0x20000000 + put d 19 + put a 13 + put b 6 + put g 3 < 2^32 ∧ 0 < 2^32
  simp only [fits_lt, Bool.and_eq_true, put] at h ⊢
  omega
theorem shl : ∀ d a b g m : Nat, Statement (.shl d a b g m) := by
  intro d a b g m h
  have h : (fits d 6 && fits a 6 && fits b 7 && fits g 3 && fits m 3 && decide (m ≤ 4)) = true := h
  show 0x22000000 + put d 19 + put a 13 + put b 6 + put g 3 + put m 0 < 2^32 ∧ 0 < 2^32
  simp only [fits_lt, Bool.and_eq_true, decide_eq_true_eq, put] at h ⊢
  omega
theorem shr : ∀ d a b g m : Nat, Statement (.shr d a b g m) := by
  intro d a b g m h
  have h : (fits d 6 && fits a 6 && fits b 7 && fits g 3 && fits m 3 && decide (m ≤ 4)) = true := h
  show 0x24000000 + put d 19 + put a 13 + put b 6 + put g 3 + put m 0 < 2^32 ∧ 0 < 2^32
  simp only [fits_lt, Bool.and_eq_true, decide_eq_true_eq, put] at h ⊢
  omega
theorem sar : ∀ d a b g m : Nat, Statement (.sar d a b g m) := by
  intro d a b g m h
  have h : (fits d 6 && fits a 6 && fits b 7 && fits g 3 && fits m 3 && decide (m ≤ 4)) = true := h
  show 0x26000000 + put d 19 + put a 13 + put b 6 + put g 3 + put m 0 < 2^32 ∧ 0 < 2^32
  simp only [fits_lt, Bool.and_eq_true, decide_eq_true_eq, put] at h ⊢
  omega
theorem rol : ∀ d a b g m : Nat, Statement (.rol d a b g m) := by
  intro d a b g m h
  have h : (fits d 6 && fits a 6 && fits b 7 && fits g 3 && fits m 3 && decide (m ≤ 4)) = true := h
  show 0x28000000 + put d 19 + put a 13 + put b 6 + put g 3 + put m 0 < 2^32 ∧ 0 < 2^32
  simp only [fits_lt, Bool.and_eq_true, decide_eq_true_eq, put] at h ⊢
  omega
theorem popc : ∀ d a g m : Nat, Statement (.popc d a g m) := by
  intro d a g m h
  have h : (fits d 6 && fits a 6 && fits g 3 && fits m 3 && decide (m ≤ 4)) = true := h
  show 0x2A000000 + put d 19 + put a 13 + put g 3 + put m 0 < 2^32 ∧ 0 < 2^32
  simp only [fits_lt, Bool.and_eq_true, decide_eq_true_eq, put] at h ⊢
  omega
theorem clz : ∀ d a g m : Nat, Statement (.clz d a g m) := by
  intro d a g m h
  have h : (fits d 6 && fits a 6 && fits g 3 && fits m 3 && decide (m ≤ 4)) = true := h
  show 0x2A000040 + put d 19 + put a 13 + put g 3 + put m 0 < 2^32 ∧ 0 < 2^32
  simp only [fits_lt, Bool.and_eq_true, decide_eq_true_eq, put] at h ⊢
  omega
theorem brev : ∀ d a g m : Nat, Statement (.brev d a g m) := by
  intro d a g m h
  have h : (fits d 6 && fits a 6 && fits g 3 && fits m 3 && decide (m ≤ 4)) = true := h
  show 0x2A000080 + put d 19 + put a 13 + put g 3 + put m 0 < 2^32 ∧ 0 < 2^32
  simp only [fits_lt, Bool.and_eq_true, decide_eq_true_eq, put] at h ⊢
  omega
theorem icmp : ∀ d a b c m : Nat, Statement (.icmp d a b c m) := by
  intro d a b c m h
  have h : (fits d 6 && fits a 6 && fits b 7 && fits c 3 && fits m 3 && decide (c ≤ 5) && decide (m ≤ 4)) = true := h
  show 0x2C000000 + put d 19 + put a 13 + put b 6 + put c 3 + put m 0 < 2^32 ∧ 0 < 2^32
  simp only [fits_lt, Bool.and_eq_true, decide_eq_true_eq, put] at h ⊢
  omega
theorem sel : ∀ d a b q : Nat, Statement (.sel d a b q) := by
  intro d a b q h
  have h : (fits d 6 && fits a 6 && fits b 7 && fits q 3 && decide (q ≠ 0)) = true := h
  show 0x2E000000 + put d 19 + put a 13 + put b 6 + put q 3 < 2^32 ∧ 0 < 2^32
  simp only [fits_lt, Bool.and_eq_true, decide_eq_true_eq, put] at h ⊢
  omega
theorem mov : ∀ d b g : Nat, Statement (.mov d b g) := by
  intro d b g h
  have h : (fits d 6 && fits b 7 && fits g 3) = true := h
  show 0x30000000 + put d 19 + put b 6 + put g 3 < 2^32 ∧ 0 < 2^32
  simp only [fits_lt, Bool.and_eq_true, put] at h ⊢
  omega
theorem perm : ∀ d a b g : Nat, Statement (.perm d a b g) := by
  intro d a b g h
  have h : (fits d 6 && fits a 6 && fits b 7 && fits g 3) = true := h
  show 0x32000000 + put d 19 + put a 13 + put b 6 + put g 3 < 2^32 ∧ 0 < 2^32
  simp only [fits_lt, Bool.and_eq_true, put] at h ⊢
  omega
theorem movi : ∀ d i m : Nat, Statement (.movi d i m) := by
  intro d i m h
  have h : (fits d 6 && fits i 16 && fits m 3 && decide (m ≤ 4)) = true := h
  show 0x34000000 + put d 19 + put i 3 + put m 0 < 2^32 ∧ 0 < 2^32
  simp only [fits_lt, Bool.and_eq_true, decide_eq_true_eq, put] at h ⊢
  omega
theorem movx : ∀ d m imm : Nat, Statement (.movx d m imm) := by
  intro d m imm h
  have h : (fits d 6 && fits m 3 && fits imm 32 && decide (m ≤ 2)) = true := h
  show 0x36000000 + put d 19 + m < 2^32 ∧ imm < 2^32
  simp only [fits_lt, Bool.and_eq_true, decide_eq_true_eq, put] at h ⊢
  omega
theorem bfx : ∀ d a b g s : Nat, Statement (.bfx d a b g s) := by
  intro d a b g s h
  have h : (fits d 6 && fits a 6 && fits b 7 && fits g 3 && fits s 1) = true := h
  show 0x38000000 + put d 19 + put a 13 + put b 6 + put g 3 + put s 0 < 2^32 ∧ 0 < 2^32
  simp only [fits_lt, Bool.and_eq_true, put] at h ⊢
  omega
theorem bfi : ∀ d a b g : Nat, Statement (.bfi d a b g) := by
  intro d a b g h
  have h : (fits d 6 && fits a 6 && fits b 7 && fits g 3) = true := h
  show 0x3A000000 + put d 19 + put a 13 + put b 6 + put g 3 < 2^32 ∧ 0 < 2^32
  simp only [fits_lt, Bool.and_eq_true, put] at h ⊢
  omega
theorem fadd : ∀ d a b g n : Nat, Statement (.fadd d a b g n) := by
  intro d a b g n h
  have h : (fits d 6 && fits a 6 && fits b 7 && fits g 3 && fits n 3) = true := h
  show 0x3C000000 + put d 19 + put a 13 + put b 6 + put g 3 + put n 0 < 2^32 ∧ 0 < 2^32
  simp only [fits_lt, Bool.and_eq_true, put] at h ⊢
  omega
theorem fsub : ∀ d a b g n : Nat, Statement (.fsub d a b g n) := by
  intro d a b g n h
  have h : (fits d 6 && fits a 6 && fits b 7 && fits g 3 && fits n 3) = true := h
  show 0x3E000000 + put d 19 + put a 13 + put b 6 + put g 3 + put n 0 < 2^32 ∧ 0 < 2^32
  simp only [fits_lt, Bool.and_eq_true, put] at h ⊢
  omega
theorem fmul : ∀ d a b g n : Nat, Statement (.fmul d a b g n) := by
  intro d a b g n h
  have h : (fits d 6 && fits a 6 && fits b 7 && fits g 3 && fits n 3) = true := h
  show 0x40000000 + put d 19 + put a 13 + put b 6 + put g 3 + put n 0 < 2^32 ∧ 0 < 2^32
  simp only [fits_lt, Bool.and_eq_true, put] at h ⊢
  omega
theorem ffma : ∀ d a b g n : Nat, Statement (.ffma d a b g n) := by
  intro d a b g n h
  have h : (fits d 6 && fits a 6 && fits b 7 && fits g 3 && fits n 3) = true := h
  show 0x42000000 + put d 19 + put a 13 + put b 6 + put g 3 + put n 0 < 2^32 ∧ 0 < 2^32
  simp only [fits_lt, Bool.and_eq_true, put] at h ⊢
  omega
theorem ffms : ∀ d a b g n : Nat, Statement (.ffms d a b g n) := by
  intro d a b g n h
  have h : (fits d 6 && fits a 6 && fits b 7 && fits g 3 && fits n 3) = true := h
  show 0x44000000 + put d 19 + put a 13 + put b 6 + put g 3 + put n 0 < 2^32 ∧ 0 < 2^32
  simp only [fits_lt, Bool.and_eq_true, put] at h ⊢
  omega
theorem fmin : ∀ d a b g n : Nat, Statement (.fmin d a b g n) := by
  intro d a b g n h
  have h : (fits d 6 && fits a 6 && fits b 7 && fits g 3 && fits n 3) = true := h
  show 0x46000000 + put d 19 + put a 13 + put b 6 + put g 3 + put n 0 < 2^32 ∧ 0 < 2^32
  simp only [fits_lt, Bool.and_eq_true, put] at h ⊢
  omega
theorem fmax : ∀ d a b g n : Nat, Statement (.fmax d a b g n) := by
  intro d a b g n h
  have h : (fits d 6 && fits a 6 && fits b 7 && fits g 3 && fits n 3) = true := h
  show 0x48000000 + put d 19 + put a 13 + put b 6 + put g 3 + put n 0 < 2^32 ∧ 0 < 2^32
  simp only [fits_lt, Bool.and_eq_true, put] at h ⊢
  omega
theorem fcmp : ∀ d a b c n : Nat, Statement (.fcmp d a b c n) := by
  intro d a b c n h
  have h : (fits d 6 && fits a 6 && fits b 7 && fits c 3 && fits n 3 && decide (c ≤ 6)) = true := h
  show 0x4A000000 + put d 19 + put a 13 + put b 6 + put c 3 + put n 0 < 2^32 ∧ 0 < 2^32
  simp only [fits_lt, Bool.and_eq_true, decide_eq_true_eq, put] at h ⊢
  omega
theorem fsgn : ∀ d a b o n : Nat, Statement (.fsgn d a b o n) := by
  intro d a b o n h
  have h : (fits d 6 && fits a 6 && fits b 7 && fits o 3 && fits n 3 && decide (o ≤ 3) && decide ((2 ≤ o ∨ b = 0))) = true := h
  show 0x4C000000 + put d 19 + put a 13 + put b 6 + put o 3 + put n 0 < 2^32 ∧ 0 < 2^32
  simp only [fits_lt, Bool.and_eq_true, decide_eq_true_eq, put] at h ⊢
  omega
theorem fspc : ∀ d a o n : Nat, Statement (.fspc d a o n) := by
  intro d a o n h
  have h : (fits d 6 && fits a 6 && fits o 3 && fits n 3 && decide (o ≤ 5)) = true := h
  show 0x4E000000 + put d 19 + put a 13 + put o 3 + put n 0 < 2^32 ∧ 0 < 2^32
  simp only [fits_lt, Bool.and_eq_true, decide_eq_true_eq, put] at h ⊢
  omega
theorem fclass : ∀ d a e n : Nat, Statement (.fclass d a e n) := by
  intro d a e n h
  have h : (fits d 6 && fits a 6 && fits e 3 && fits n 3) = true := h
  show 0x50000000 + put d 19 + put a 13 + put e 3 + put n 0 < 2^32 ∧ 0 < 2^32
  simp only [fits_lt, Bool.and_eq_true, put] at h ⊢
  omega
theorem cvt : ∀ d a s p g f : Nat, Statement (.cvt d a s p g f) := by
  intro d a s p g f h
  have h : (fits d 6 && fits a 6 && fits s 3 && fits p 4 && fits g 3 && fits f 3) = true := h
  show 0x52000000 + put d 19 + put a 13 + put s 10 + put p 6 + put g 3 + put f 0 < 2^32 ∧ 0 < 2^32
  simp only [fits_lt, Bool.and_eq_true, put] at h ⊢
  omega
theorem cvti : ∀ d a s p g m : Nat, Statement (.cvti d a s p g m) := by
  intro d a s p g m h
  have h : (fits d 6 && fits a 6 && fits s 3 && fits p 4 && fits g 3 && fits m 3 && decide (m ≤ 4)) = true := h
  show 0x54000000 + put d 19 + put a 13 + put s 10 + put p 6 + put g 3 + put m 0 < 2^32 ∧ 0 < 2^32
  simp only [fits_lt, Bool.and_eq_true, decide_eq_true_eq, put] at h ⊢
  omega
theorem cvtf : ∀ d a w p g f : Nat, Statement (.cvtf d a w p g f) := by
  intro d a w p g f h
  have h : (fits d 6 && fits a 6 && fits w 3 && fits p 4 && fits g 3 && fits f 3 && decide (w ≤ 4)) = true := h
  show 0x56000000 + put d 19 + put a 13 + put w 10 + put p 6 + put g 3 + put f 0 < 2^32 ∧ 0 < 2^32
  simp only [fits_lt, Bool.and_eq_true, decide_eq_true_eq, put] at h ⊢
  omega
theorem fdot : ∀ d a b i f : Nat, Statement (.fdot d a b i f) := by
  intro d a b i f h
  have h : (fits d 6 && fits a 6 && fits b 7 && fits i 3 && fits f 3) = true := h
  show 0x58000000 + put d 19 + put a 13 + put b 6 + put i 3 + put f 0 < 2^32 ∧ 0 < 2^32
  simp only [fits_lt, Bool.and_eq_true, put] at h ⊢
  omega
theorem shfl : ∀ d a b q m : Nat, Statement (.shfl d a b q m) := by
  intro d a b q m h
  have h : (fits d 6 && fits a 6 && fits b 7 && fits q 3 && fits m 3 && decide (m ≤ 4)) = true := h
  show 0x5A000000 + put d 19 + put a 13 + put b 6 + put q 3 + put m 0 < 2^32 ∧ 0 < 2^32
  simp only [fits_lt, Bool.and_eq_true, decide_eq_true_eq, put] at h ⊢
  omega
theorem vote : ∀ d b q m : Nat, Statement (.vote d b q m) := by
  intro d b q m h
  have h : (fits d 6 && fits b 7 && fits q 3 && fits m 3 && decide (m ≤ 3)) = true := h
  show 0x5C000000 + put d 19 + put b 6 + put q 3 + put m 0 < 2^32 ∧ 0 < 2^32
  simp only [fits_lt, Bool.and_eq_true, decide_eq_true_eq, put] at h ⊢
  omega
theorem scan : ∀ d a x o m : Nat, Statement (.scan d a x o m) := by
  intro d a x o m h
  have h : (fits d 6 && fits a 6 && fits x 1 && fits o 3 && fits m 3 && decide (m ≤ 4)) = true := h
  show 0x5E000000 + put d 19 + put a 13 + put x 6 + put o 3 + put m 0 < 2^32 ∧ 0 < 2^32
  simp only [fits_lt, Bool.and_eq_true, decide_eq_true_eq, put] at h ⊢
  omega
theorem scanFadd : ∀ d a n x : Nat, Statement (.scanFadd d a n x) := by
  intro d a n x h
  have h : (fits d 6 && fits a 6 && fits n 3 && fits x 1) = true := h
  show 0x5E000080 + put d 19 + put a 13 + put n 8 + put x 6 < 2^32 ∧ 0 < 2^32
  simp only [fits_lt, Bool.and_eq_true, put] at h ⊢
  omega
theorem red : ∀ d a o m : Nat, Statement (.red d a o m) := by
  intro d a o m h
  have h : (fits d 6 && fits a 6 && fits o 3 && fits m 3 && decide (m ≤ 4)) = true := h
  show 0x60000000 + put d 19 + put a 13 + put o 3 + put m 0 < 2^32 ∧ 0 < 2^32
  simp only [fits_lt, Bool.and_eq_true, decide_eq_true_eq, put] at h ⊢
  omega
theorem redFadd : ∀ d a n : Nat, Statement (.redFadd d a n) := by
  intro d a n h
  have h : (fits d 6 && fits a 6 && fits n 3) = true := h
  show 0x60000080 + put d 19 + put a 13 + put n 8 < 2^32 ∧ 0 < 2^32
  simp only [fits_lt, Bool.and_eq_true, put] at h ⊢
  omega
theorem qop : ∀ d a b g m : Nat, Statement (.qop d a b g m) := by
  intro d a b g m h
  have h : (fits d 3 && fits a 3 && fits b 3 && fits g 3 && fits m 3 && decide (d ≠ 0) && decide (m ≤ 6) && decide ((m ≤ 3 ∨ b = 0)) && decide ((m ≤ 4 ∨ a = 0))) = true := h
  show 0x62000000 + put d 19 + put a 13 + put b 6 + put g 3 + put m 0 < 2^32 ∧ 0 < 2^32
  simp only [fits_lt, Bool.and_eq_true, decide_eq_true_eq, put] at h ⊢
  omega
theorem movqToPredicate : ∀ q a g : Nat, Statement (.movqToPredicate q a g) := by
  intro q a g h
  have h : (fits q 3 && fits a 6 && fits g 3 && decide (q ≠ 0)) = true := h
  show 0x64000000 + put q 19 + put a 13 + put g 3 < 2^32 ∧ 0 < 2^32
  simp only [fits_lt, Bool.and_eq_true, decide_eq_true_eq, put] at h ⊢
  omega
theorem movqToVector : ∀ d q g : Nat, Statement (.movqToVector d q g) := by
  intro d q g h
  have h : (fits d 6 && fits q 3 && fits g 3) = true := h
  show 0x64000001 + put d 19 + put q 13 + put g 3 < 2^32 ∧ 0 < 2^32
  simp only [fits_lt, Bool.and_eq_true, put] at h ⊢
  omega
theorem ld : ∀ v i k o w : Nat, Statement (.ld v i k o w) := by
  intro v i k o w h
  have h : (fits v 6 && fits i 6 && fits k 4 && fits o 6 && fits w 3 && decide (w ≤ 6) && decide (v + lmRegs w ≤ 64)) = true := h
  show 0x66000000 + put v 19 + put i 13 + put k 9 + put o 3 + put w 0 < 2^32 ∧ 0 < 2^32
  simp only [fits_lt, Bool.and_eq_true, decide_eq_true_eq, put] at h ⊢
  omega
theorem st : ∀ v i k o w : Nat, Statement (.st v i k o w) := by
  intro v i k o w h
  have h : (fits v 6 && fits i 6 && fits k 4 && fits o 6 && fits w 3 && decide (w ≤ 6) && decide (v + lmRegs w ≤ 64)) = true := h
  show 0x68000000 + put v 19 + put i 13 + put k 9 + put o 3 + put w 0 < 2^32 ∧ 0 < 2^32
  simp only [fits_lt, Bool.and_eq_true, decide_eq_true_eq, put] at h ⊢
  omega
theorem aadd : ∀ v i k sr w scope order n : Nat, Statement (.aadd v i k sr w scope order n) := by
  intro v i k sr w scope order n h
  have h : (fits v 6 && fits i 6 && fits k 4 && fits sr 6 && fits w 3 && fits scope 3 && fits order 2 && fits n 1 && decide (w ≤ 1) && decide (scope ≤ 4) && decide ((n = 0 ∨ v = 0))) = true := h
  show 0x6A000000 + put v 19 + put i 13 + put k 9 + put sr 3 + w < 2^32 ∧ put 0 28 + put scope 25 + put order 23 + put n 19 < 2^32
  simp only [fits_lt, Bool.and_eq_true, decide_eq_true_eq, put] at h ⊢
  omega
theorem aand : ∀ v i k sr w scope order n : Nat, Statement (.aand v i k sr w scope order n) := by
  intro v i k sr w scope order n h
  have h : (fits v 6 && fits i 6 && fits k 4 && fits sr 6 && fits w 3 && fits scope 3 && fits order 2 && fits n 1 && decide (w ≤ 1) && decide (scope ≤ 4) && decide ((n = 0 ∨ v = 0))) = true := h
  show 0x6A000000 + put v 19 + put i 13 + put k 9 + put sr 3 + w < 2^32 ∧ put 1 28 + put scope 25 + put order 23 + put n 19 < 2^32
  simp only [fits_lt, Bool.and_eq_true, decide_eq_true_eq, put] at h ⊢
  omega
theorem aor : ∀ v i k sr w scope order n : Nat, Statement (.aor v i k sr w scope order n) := by
  intro v i k sr w scope order n h
  have h : (fits v 6 && fits i 6 && fits k 4 && fits sr 6 && fits w 3 && fits scope 3 && fits order 2 && fits n 1 && decide (w ≤ 1) && decide (scope ≤ 4) && decide ((n = 0 ∨ v = 0))) = true := h
  show 0x6A000000 + put v 19 + put i 13 + put k 9 + put sr 3 + w < 2^32 ∧ put 2 28 + put scope 25 + put order 23 + put n 19 < 2^32
  simp only [fits_lt, Bool.and_eq_true, decide_eq_true_eq, put] at h ⊢
  omega
theorem axor : ∀ v i k sr w scope order n : Nat, Statement (.axor v i k sr w scope order n) := by
  intro v i k sr w scope order n h
  have h : (fits v 6 && fits i 6 && fits k 4 && fits sr 6 && fits w 3 && fits scope 3 && fits order 2 && fits n 1 && decide (w ≤ 1) && decide (scope ≤ 4) && decide ((n = 0 ∨ v = 0))) = true := h
  show 0x6A000000 + put v 19 + put i 13 + put k 9 + put sr 3 + w < 2^32 ∧ put 3 28 + put scope 25 + put order 23 + put n 19 < 2^32
  simp only [fits_lt, Bool.and_eq_true, decide_eq_true_eq, put] at h ⊢
  omega
theorem amin : ∀ v i k sr w scope order n : Nat, Statement (.amin v i k sr w scope order n) := by
  intro v i k sr w scope order n h
  have h : (fits v 6 && fits i 6 && fits k 4 && fits sr 6 && fits w 3 && fits scope 3 && fits order 2 && fits n 1 && decide (w ≤ 1) && decide (scope ≤ 4) && decide ((n = 0 ∨ v = 0))) = true := h
  show 0x6A000000 + put v 19 + put i 13 + put k 9 + put sr 3 + w < 2^32 ∧ put 4 28 + put scope 25 + put order 23 + put n 19 < 2^32
  simp only [fits_lt, Bool.and_eq_true, decide_eq_true_eq, put] at h ⊢
  omega
theorem amax : ∀ v i k sr w scope order n : Nat, Statement (.amax v i k sr w scope order n) := by
  intro v i k sr w scope order n h
  have h : (fits v 6 && fits i 6 && fits k 4 && fits sr 6 && fits w 3 && fits scope 3 && fits order 2 && fits n 1 && decide (w ≤ 1) && decide (scope ≤ 4) && decide ((n = 0 ∨ v = 0))) = true := h
  show 0x6A000000 + put v 19 + put i 13 + put k 9 + put sr 3 + w < 2^32 ∧ put 5 28 + put scope 25 + put order 23 + put n 19 < 2^32
  simp only [fits_lt, Bool.and_eq_true, decide_eq_true_eq, put] at h ⊢
  omega
theorem aminu : ∀ v i k sr w scope order n : Nat, Statement (.aminu v i k sr w scope order n) := by
  intro v i k sr w scope order n h
  have h : (fits v 6 && fits i 6 && fits k 4 && fits sr 6 && fits w 3 && fits scope 3 && fits order 2 && fits n 1 && decide (w ≤ 1) && decide (scope ≤ 4) && decide ((n = 0 ∨ v = 0))) = true := h
  show 0x6A000000 + put v 19 + put i 13 + put k 9 + put sr 3 + w < 2^32 ∧ put 6 28 + put scope 25 + put order 23 + put n 19 < 2^32
  simp only [fits_lt, Bool.and_eq_true, decide_eq_true_eq, put] at h ⊢
  omega
theorem amaxu : ∀ v i k sr w scope order n : Nat, Statement (.amaxu v i k sr w scope order n) := by
  intro v i k sr w scope order n h
  have h : (fits v 6 && fits i 6 && fits k 4 && fits sr 6 && fits w 3 && fits scope 3 && fits order 2 && fits n 1 && decide (w ≤ 1) && decide (scope ≤ 4) && decide ((n = 0 ∨ v = 0))) = true := h
  show 0x6A000000 + put v 19 + put i 13 + put k 9 + put sr 3 + w < 2^32 ∧ put 7 28 + put scope 25 + put order 23 + put n 19 < 2^32
  simp only [fits_lt, Bool.and_eq_true, decide_eq_true_eq, put] at h ⊢
  omega
theorem axchg : ∀ v i k sr w scope order n : Nat, Statement (.axchg v i k sr w scope order n) := by
  intro v i k sr w scope order n h
  have h : (fits v 6 && fits i 6 && fits k 4 && fits sr 6 && fits w 3 && fits scope 3 && fits order 2 && fits n 1 && decide (w ≤ 1) && decide (scope ≤ 4) && decide ((n = 0 ∨ v = 0))) = true := h
  show 0x6A000000 + put v 19 + put i 13 + put k 9 + put sr 3 + w < 2^32 ∧ put 8 28 + put scope 25 + put order 23 + put n 19 < 2^32
  simp only [fits_lt, Bool.and_eq_true, decide_eq_true_eq, put] at h ⊢
  omega
theorem acas : ∀ v i k sr w scope order n : Nat, Statement (.acas v i k sr w scope order n) := by
  intro v i k sr w scope order n h
  have h : (fits v 6 && fits i 6 && fits k 4 && fits sr 6 && fits w 3 && fits scope 3 && fits order 2 && fits n 1 && decide (w ≤ 1) && decide (scope ≤ 4)) = true := h
  show 0x6A000000 + put v 19 + put i 13 + put k 9 + put sr 3 + w < 2^32 ∧ put 9 28 + put scope 25 + put order 23 + put n 19 < 2^32
  simp only [fits_lt, Bool.and_eq_true, decide_eq_true_eq, put] at h ⊢
  omega
theorem afadd : ∀ v i k sr w scope order f n : Nat, Statement (.afadd v i k sr w scope order f n) := by
  intro v i k sr w scope order f n h
  have h : (fits v 6 && fits i 6 && fits k 4 && fits sr 6 && fits w 3 && fits scope 3 && fits order 2 && fits f 3 && fits n 1 && decide (w ≤ 1) && decide (scope ≤ 4) && decide ((n = 0 ∨ v = 0))) = true := h
  show 0x6A000000 + put v 19 + put i 13 + put k 9 + put sr 3 + w < 2^32 ∧ put 10 28 + put scope 25 + put order 23 + put f 20 + put n 19 < 2^32
  simp only [fits_lt, Bool.and_eq_true, decide_eq_true_eq, put] at h ⊢
  omega
theorem msign : ∀ v w n f s : Nat, Statement (.msign v w n f s) := by
  intro v w n f s h
  have h : (fits v 6 && fits w 4 && fits n 5 && fits f 3 && fits s 1 && decide (v + n + 4 * s ≤ 63) && decide ((s = 0 ∨ f ≠ 7))) = true := h
  show 0x6C000000 + put v 19 + put w 15 + put n 10 + put f 7 + put s 6 < 2^32 ∧ 0 < 2^32
  simp only [fits_lt, Bool.and_eq_true, decide_eq_true_eq, put] at h ⊢
  omega
theorem gadd : ∀ d a b : Nat, Statement (.gadd d a b) := by
  intro d a b h
  have h : (fits d 6 && fits a 6 && fits b 6 && decide (16 ≤ d)) = true := h
  show 0x80000000 + put d 19 + put a 13 + put b 7 < 2^32 ∧ 0 < 2^32
  simp only [fits_lt, Bool.and_eq_true, decide_eq_true_eq, put] at h ⊢
  omega
theorem gsub : ∀ d a b : Nat, Statement (.gsub d a b) := by
  intro d a b h
  have h : (fits d 6 && fits a 6 && fits b 6 && decide (16 ≤ d)) = true := h
  show 0x82000000 + put d 19 + put a 13 + put b 7 < 2^32 ∧ 0 < 2^32
  simp only [fits_lt, Bool.and_eq_true, decide_eq_true_eq, put] at h ⊢
  omega
theorem gmul : ∀ d a b : Nat, Statement (.gmul d a b) := by
  intro d a b h
  have h : (fits d 6 && fits a 6 && fits b 6 && decide (16 ≤ d)) = true := h
  show 0x84000000 + put d 19 + put a 13 + put b 7 < 2^32 ∧ 0 < 2^32
  simp only [fits_lt, Bool.and_eq_true, decide_eq_true_eq, put] at h ⊢
  omega
theorem gand : ∀ d a b : Nat, Statement (.gand d a b) := by
  intro d a b h
  have h : (fits d 6 && fits a 6 && fits b 6 && decide (16 ≤ d)) = true := h
  show 0x86000000 + put d 19 + put a 13 + put b 7 < 2^32 ∧ 0 < 2^32
  simp only [fits_lt, Bool.and_eq_true, decide_eq_true_eq, put] at h ⊢
  omega
theorem gor : ∀ d a b : Nat, Statement (.gor d a b) := by
  intro d a b h
  have h : (fits d 6 && fits a 6 && fits b 6 && decide (16 ≤ d)) = true := h
  show 0x88000000 + put d 19 + put a 13 + put b 7 < 2^32 ∧ 0 < 2^32
  simp only [fits_lt, Bool.and_eq_true, decide_eq_true_eq, put] at h ⊢
  omega
theorem gxor : ∀ d a b : Nat, Statement (.gxor d a b) := by
  intro d a b h
  have h : (fits d 6 && fits a 6 && fits b 6 && decide (16 ≤ d)) = true := h
  show 0x8A000000 + put d 19 + put a 13 + put b 7 < 2^32 ∧ 0 < 2^32
  simp only [fits_lt, Bool.and_eq_true, decide_eq_true_eq, put] at h ⊢
  omega
theorem gshl : ∀ d a b : Nat, Statement (.gshl d a b) := by
  intro d a b h
  have h : (fits d 6 && fits a 6 && fits b 6 && decide (16 ≤ d)) = true := h
  show 0x8C000000 + put d 19 + put a 13 + put b 7 < 2^32 ∧ 0 < 2^32
  simp only [fits_lt, Bool.and_eq_true, decide_eq_true_eq, put] at h ⊢
  omega
theorem gshr : ∀ d a b : Nat, Statement (.gshr d a b) := by
  intro d a b h
  have h : (fits d 6 && fits a 6 && fits b 6 && decide (16 ≤ d)) = true := h
  show 0x8E000000 + put d 19 + put a 13 + put b 7 < 2^32 ∧ 0 < 2^32
  simp only [fits_lt, Bool.and_eq_true, decide_eq_true_eq, put] at h ⊢
  omega
theorem gsar : ∀ d a b : Nat, Statement (.gsar d a b) := by
  intro d a b h
  have h : (fits d 6 && fits a 6 && fits b 6 && decide (16 ≤ d)) = true := h
  show 0x90000000 + put d 19 + put a 13 + put b 7 < 2^32 ∧ 0 < 2^32
  simp only [fits_lt, Bool.and_eq_true, decide_eq_true_eq, put] at h ⊢
  omega
theorem gmin : ∀ d a b : Nat, Statement (.gmin d a b) := by
  intro d a b h
  have h : (fits d 6 && fits a 6 && fits b 6 && decide (16 ≤ d)) = true := h
  show 0x92000000 + put d 19 + put a 13 + put b 7 < 2^32 ∧ 0 < 2^32
  simp only [fits_lt, Bool.and_eq_true, decide_eq_true_eq, put] at h ⊢
  omega
theorem gmax : ∀ d a b : Nat, Statement (.gmax d a b) := by
  intro d a b h
  have h : (fits d 6 && fits a 6 && fits b 6 && decide (16 ≤ d)) = true := h
  show 0x94000000 + put d 19 + put a 13 + put b 7 < 2^32 ∧ 0 < 2^32
  simp only [fits_lt, Bool.and_eq_true, decide_eq_true_eq, put] at h ⊢
  omega
theorem gsel : ∀ d a b t : Nat, Statement (.gsel d a b t) := by
  intro d a b t h
  have h : (fits d 6 && fits a 6 && fits b 6 && fits t 6 && decide (16 ≤ d)) = true := h
  show 0x96000000 + put d 19 + put a 13 + put b 7 + put t 0 < 2^32 ∧ 0 < 2^32
  simp only [fits_lt, Bool.and_eq_true, decide_eq_true_eq, put] at h ⊢
  omega
theorem gaddi : ∀ d a i : Nat, Statement (.gaddi d a i) := by
  intro d a i h
  have h : (fits d 6 && fits a 6 && fits i 13 && decide (16 ≤ d)) = true := h
  show 0x98000000 + put d 19 + put a 13 + put i 0 < 2^32 ∧ 0 < 2^32
  simp only [fits_lt, Bool.and_eq_true, decide_eq_true_eq, put] at h ⊢
  omega
theorem gmovi : ∀ d i : Nat, Statement (.gmovi d i) := by
  intro d i h
  have h : (fits d 6 && fits i 19 && decide (16 ≤ d)) = true := h
  show 0x9A000000 + put d 19 + put i 0 < 2^32 ∧ 0 < 2^32
  simp only [fits_lt, Bool.and_eq_true, decide_eq_true_eq, put] at h ⊢
  omega
theorem glui : ∀ d i : Nat, Statement (.glui d i) := by
  intro d i h
  have h : (fits d 6 && fits i 19 && decide (16 ≤ d)) = true := h
  show 0x9C000000 + put d 19 + put i 0 < 2^32 ∧ 0 < 2^32
  simp only [fits_lt, Bool.and_eq_true, decide_eq_true_eq, put] at h ⊢
  omega
theorem grdl : ∀ d a n : Nat, Statement (.grdl d a n) := by
  intro d a n h
  have h : (fits d 6 && fits a 6 && fits n 5 && decide (16 ≤ d)) = true := h
  show 0x9E000000 + put d 19 + put a 13 + put n 0 < 2^32 ∧ 0 < 2^32
  simp only [fits_lt, Bool.and_eq_true, decide_eq_true_eq, put] at h ⊢
  omega
theorem br : ∀ q n d : Nat, Statement (.br q n d) := by
  intro q n d h
  have h : (fits q 3 && fits n 1 && fits d 21 && decide (¬(q = 0 ∧ n = 1))) = true := h
  show 0xA0000000 + put q 22 + put n 21 + put d 0 < 2^32 ∧ 0 < 2^32
  simp only [fits_lt, Bool.and_eq_true, decide_eq_true_eq, put] at h ⊢
  omega
theorem brg : ∀ a c d : Nat, Statement (.brg a c d) := by
  intro a c d h
  have h : (fits a 6 && fits c 2 && fits d 17) = true := h
  show 0xA2000000 + put a 19 + put c 17 + put d 0 < 2^32 ∧ 0 < 2^32
  simp only [fits_lt, Bool.and_eq_true, put] at h ⊢
  omega
theorem jmp : ∀ a : Nat, Statement (.jmp a) := by
  intro a h
  have h : (fits a 6) = true := h
  show 0xA4000000 + put a 13 < 2^32 ∧ 0 < 2^32
  simp only [fits_lt, put] at h ⊢
  omega
theorem call : ∀ d : Nat, Statement (.call d) := by
  intro d h
  have h : (fits d 21) = true := h
  show 0xA6000000 + put d 0 < 2^32 ∧ 0 < 2^32
  simp only [fits_lt, put] at h ⊢
  omega
theorem join : ∀ n : Nat, Statement (.join n) := by
  intro n h
  have h : (fits n 6 && decide (1 ≤ n) && decide (n ≤ 32)) = true := h
  show 0xAA000000 + put n 0 < 2^32 ∧ 0 < 2^32
  simp only [fits_lt, Bool.and_eq_true, decide_eq_true_eq, put] at h ⊢
  omega
theorem spawn : ∀ e s a : Nat, Statement (.spawn e s a) := by
  intro e s a h
  have h : (fits e 4 && fits s 3 && fits a 6) = true := h
  show 0xAE000000 + put e 21 + put s 18 + put a 12 < 2^32 ∧ 0 < 2^32
  simp only [fits_lt, Bool.and_eq_true, put] at h ⊢
  omega
theorem trap : ∀ c : Nat, Statement (.trap c) := by
  intro c h
  have h : (fits c 16) = true := h
  show 0xB0000000 + put c 0 < 2^32 ∧ 0 < 2^32
  simp only [fits_lt, put] at h ⊢
  omega
theorem eret : ∀ s : Nat, Statement (.eret s) := by
  intro s h
  have h : (fits s 1) = true := h
  show 0xB2000000 + put s 0 < 2^32 ∧ 0 < 2^32
  simp only [fits_lt, put] at h ⊢
  omega
theorem bari : ∀ b a c : Nat, Statement (.bari b a c) := by
  intro b a c h
  have h : (fits b 7 && fits a 6 && fits c 6) = true := h
  show 0xBA000000 + put b 18 + put a 12 + put c 6 < 2^32 ∧ 0 < 2^32
  simp only [fits_lt, Bool.and_eq_true, put] at h ⊢
  omega
theorem bara : ∀ b : Nat, Statement (.bara b) := by
  intro b h
  have h : (fits b 7) = true := h
  show 0xBC000000 + put b 18 < 2^32 ∧ 0 < 2^32
  simp only [fits_lt, put] at h ⊢
  omega
theorem barw : ∀ b a : Nat, Statement (.barw b a) := by
  intro b a h
  have h : (fits b 7 && fits a 6) = true := h
  show 0xBE000000 + put b 18 + put a 12 < 2^32 ∧ 0 < 2^32
  simp only [fits_lt, Bool.and_eq_true, put] at h ⊢
  omega
theorem bart : ∀ b a : Nat, Statement (.bart b a) := by
  intro b a h
  have h : (fits b 7 && fits a 6) = true := h
  show 0xC0000000 + put b 18 + put a 12 < 2^32 ∧ 0 < 2^32
  simp only [fits_lt, Bool.and_eq_true, put] at h ⊢
  omega
theorem syncm : ∀ a : Nat, Statement (.syncm a) := by
  intro a h
  have h : (fits a 6) = true := h
  show 0xC2000000 + put a 12 < 2^32 ∧ 0 < 2^32
  simp only [fits_lt, put] at h ⊢
  omega
theorem mlwait : ∀ a m : Nat, Statement (.mlwait a m) := by
  intro a m h
  have h : (fits a 6 && fits m 7) = true := h
  show 0xC4000000 + put a 13 + put m 0 < 2^32 ∧ 0 < 2^32
  simp only [fits_lt, Bool.and_eq_true, put] at h ⊢
  omega
theorem mlpass : ∀ a m : Nat, Statement (.mlpass a m) := by
  intro a m h
  have h : (fits a 6 && fits m 7) = true := h
  show 0xC6000000 + put a 13 + put m 0 < 2^32 ∧ 0 < 2^32
  simp only [fits_lt, Bool.and_eq_true, put] at h ⊢
  omega
theorem wait : ∀ l s c t : Nat, Statement (.wait l s c t) := by
  intro l s c t h
  have h : (fits l 6 && fits s 6 && fits c 4 && fits t 4) = true := h
  show 0xC8000000 + put l 19 + put s 13 + put c 9 + put t 5 < 2^32 ∧ 0 < 2^32
  simp only [fits_lt, Bool.and_eq_true, put] at h ⊢
  omega
theorem fence : ∀ s k d : Nat, Statement (.fence s k d) := by
  intro s k d h
  have h : (fits s 3 && fits k 4 && fits d 2 && decide (s ≤ 4) && decide (k ≠ 0) && decide (d ≠ 0)) = true := h
  show 0xCA000000 + put s 22 + put k 18 + put d 16 < 2^32 ∧ 0 < 2^32
  simp only [fits_lt, Bool.and_eq_true, decide_eq_true_eq, put] at h ⊢
  omega
theorem tfence : ∀ s : Nat, Statement (.tfence s) := by
  intro s h
  have h : (fits s 3 && decide (s ≤ 4)) = true := h
  show 0xCC000000 + put s 22 < 2^32 ∧ 0 < 2^32
  simp only [fits_lt, Bool.and_eq_true, decide_eq_true_eq, put] at h ⊢
  omega
theorem ifence : ∀ s : Nat, Statement (.ifence s) := by
  intro s h
  have h : (fits s 3 && decide (s ≤ 4)) = true := h
  show 0xCE000000 + put s 22 < 2^32 ∧ 0 < 2^32
  simp only [fits_lt, Bool.and_eq_true, decide_eq_true_eq, put] at h ⊢
  omega
theorem take : ∀ d : Nat, Statement (.take d) := by
  intro d h
  have h : (fits d 6 && decide (16 ≤ d)) = true := h
  show 0xD0000000 + put d 19 < 2^32 ∧ 0 < 2^32
  simp only [fits_lt, Bool.and_eq_true, decide_eq_true_eq, put] at h ⊢
  omega
theorem hput : ∀ a n : Nat, Statement (.hput a n) := by
  intro a n h
  have h : (fits a 6 && fits n 3) = true := h
  show 0xD2000000 + put a 13 + put n 0 < 2^32 ∧ 0 < 2^32
  simp only [fits_lt, Bool.and_eq_true, put] at h ⊢
  omega
theorem hget : ∀ d n : Nat, Statement (.hget d n) := by
  intro d n h
  have h : (fits d 6 && fits n 3 && decide (16 ≤ d)) = true := h
  show 0xD4000000 + put d 19 + put n 0 < 2^32 ∧ 0 < 2^32
  simp only [fits_lt, Bool.and_eq_true, decide_eq_true_eq, put] at h ⊢
  omega
theorem cpy : ∀ c s x dir k cmp bar : Nat, Statement (.cpy c s x dir k cmp bar) := by
  intro c s x dir k cmp bar h
  have h : (fits c 6 && fits s 6 && fits x 6 && fits dir 1 && fits k 4 && fits cmp 2 && fits bar 7 && decide (cmp ≤ 1) && decide ((cmp = 1 ∨ bar = 0))) = true := h
  show 0xD6000000 + put c 19 + put s 13 + put x 7 + put dir 4 + k < 2^32 ∧ put cmp 24 + put bar 17 < 2^32
  simp only [fits_lt, Bool.and_eq_true, decide_eq_true_eq, put] at h ⊢
  omega
theorem cpyg : ∀ c s x dir k cmp bar : Nat, Statement (.cpyg c s x dir k cmp bar) := by
  intro c s x dir k cmp bar h
  have h : (fits c 6 && fits s 6 && fits x 6 && fits dir 1 && fits k 4 && fits cmp 2 && fits bar 7 && decide (cmp ≤ 1) && decide ((cmp = 1 ∨ bar = 0))) = true := h
  show 0xD8000000 + put c 19 + put s 13 + put x 7 + put dir 4 + k < 2^32 ∧ put cmp 24 + put bar 17 < 2^32
  simp only [fits_lt, Bool.and_eq_true, decide_eq_true_eq, put] at h ⊢
  omega
theorem cpyt : ∀ t a tgt dir cmp bar len row : Nat, Statement (.cpyt t a tgt dir cmp bar len row) := by
  intro t a tgt dir cmp bar len row h
  have h : (fits t 6 && fits a 6 && fits tgt 1 && fits dir 1 && fits cmp 2 && fits bar 7 && fits len 9 && fits row 7 && decide (cmp ≤ 1) && decide ((cmp = 1 ∨ bar = 0)) && decide ((if tgt = 1 then (len + 1) % 4 = 0 ∧ row + (len + 1) / 4 ≤ 128 else row = 0))) = true := h
  show 0xDA000000 + put t 19 + put a 13 + put tgt 1 + dir < 2^32 ∧ put cmp 24 + put bar 17 + put len 8 + row < 2^32
  simp only [fits_lt, Bool.and_eq_true, decide_eq_true_eq, put] at h ⊢
  omega
theorem resv : ∀ u c b bs s n bl soff : Nat, Statement (.resv u c b bs s n bl soff) := by
  intro u c b bs s n bl soff h
  have h : (fits u 6 && fits c 6 && fits b 6 && fits bs 1 && fits s 3 && fits n 3 && fits bl 2 && fits soff 8 && decide (c ≤ 7) && decide ((bs = 1 ∨ b = 0)) && decide ((bl ≠ 0 ∨ (s = 0 ∧ soff = 0)))) = true := h
  show 0xDC000000 + put u 19 + put c 13 + put b 7 + put bs 6 + put s 3 + n < 2^32 ∧ put bl 30 + put soff 22 < 2^32
  simp only [fits_lt, Bool.and_eq_true, decide_eq_true_eq, put] at h ⊢
  omega
theorem relsUnit : ∀ u : Nat, Statement (.relsUnit u) := by
  intro u h
  have h : (fits u 6) = true := h
  show 0xDE000000 + put u 0 < 2^32 ∧ 0 < 2^32
  simp only [fits_lt, put] at h ⊢
  omega
theorem relsWaypoint : ∀ n : Nat, Statement (.relsWaypoint n) := by
  intro n h
  have h : (fits n 4) = true := h
  show 0xDE000040 + put n 0 < 2^32 ∧ 0 < 2^32
  simp only [fits_lt, put] at h ⊢
  omega
theorem mma : ∀ d a b ba keep u cmp bar rf : Nat, Statement (.mma d a b ba keep u cmp bar rf) := by
  intro d a b ba keep u cmp bar rf h
  have h : (fits d 6 && fits a 6 && fits b 6 && fits ba 1 && fits keep 1 && fits u 6 && fits cmp 2 && fits bar 7 && fits rf 3 && decide (a ≤ 15) && decide ((ba = 1 ∨ b = 0)) && decide (cmp ≤ 1) && decide ((cmp = 1 ∨ bar = 0))) = true := h
  show 0xE0000000 + put d 19 + put a 13 + put b 7 + put ba 1 + keep < 2^32 ∧ put u 26 + put cmp 24 + put bar 17 + put rf 14 < 2^32
  simp only [fits_lt, Bool.and_eq_true, decide_eq_true_eq, put] at h ⊢
  omega
theorem mmab : ∀ d a b ba keep u cmp bar rf : Nat, Statement (.mmab d a b ba keep u cmp bar rf) := by
  intro d a b ba keep u cmp bar rf h
  have h : (fits d 6 && fits a 6 && fits b 6 && fits ba 1 && fits keep 1 && fits u 6 && fits cmp 2 && fits bar 7 && fits rf 3 && decide (a % 2 = 0) && decide (a ≤ 15) && decide ((ba = 1 ∨ b = 0)) && decide (cmp ≤ 1) && decide ((cmp = 1 ∨ bar = 0))) = true := h
  show 0xE2000000 + put d 19 + put a 13 + put b 7 + put ba 1 + keep < 2^32 ∧ put u 26 + put cmp 24 + put bar 17 + put rf 14 < 2^32
  simp only [fits_lt, Bool.and_eq_true, decide_eq_true_eq, put] at h ⊢
  omega
theorem mmaj : ∀ d a b ba keep u cmp bar rf : Nat, Statement (.mmaj d a b ba keep u cmp bar rf) := by
  intro d a b ba keep u cmp bar rf h
  have h : (fits d 6 && fits a 6 && fits b 6 && fits ba 1 && fits keep 1 && fits u 6 && fits cmp 2 && fits bar 7 && fits rf 3 && decide (a ≤ 15) && decide ((ba = 1 ∨ b = 0)) && decide (cmp ≤ 1) && decide ((cmp = 1 ∨ bar = 0))) = true := h
  show 0xE4000000 + put d 19 + put a 13 + put b 7 + put ba 1 + keep < 2^32 ∧ put u 26 + put cmp 24 + put bar 17 + put rf 14 < 2^32
  simp only [fits_lt, Bool.and_eq_true, decide_eq_true_eq, put] at h ⊢
  omega
theorem tzero : ∀ d : Nat, Statement (.tzero d) := by
  intro d h
  have h : (fits d 6) = true := h
  show 0xE6000000 + put d 19 < 2^32 ∧ 0 < 2^32
  simp only [fits_lt, put] at h ⊢
  omega
theorem tld : ∀ d a acc c n : Nat, Statement (.tld d a acc c n) := by
  intro d a acc c n h
  have h : (fits d 6 && fits a 6 && fits acc 6 && fits c 4 && fits n 3 && decide (d + c ≤ 63)) = true := h
  show 0xE8000000 + put d 19 + put a 13 + put acc 7 + put c 3 + n < 2^32 ∧ 0 < 2^32
  simp only [fits_lt, Bool.and_eq_true, decide_eq_true_eq, put] at h ⊢
  omega
theorem tst : ∀ d a acc c n cmp bar : Nat, Statement (.tst d a acc c n cmp bar) := by
  intro d a acc c n cmp bar h
  have h : (fits d 6 && fits a 6 && fits acc 6 && fits c 4 && fits n 3 && fits cmp 2 && fits bar 7 && decide (d + c ≤ 63) && decide (cmp ≤ 1) && decide ((cmp = 1 ∨ bar = 0))) = true := h
  show 0xEA000000 + put d 19 + put a 13 + put acc 7 + put c 3 + n < 2^32 ∧ put cmp 24 + put bar 17 < 2^32
  simp only [fits_lt, Bool.and_eq_true, decide_eq_true_eq, put] at h ⊢
  omega
theorem fmtw : ∀ a n : Nat, Statement (.fmtw a n) := by
  intro a n h
  have h : (fits a 6 && fits n 3) = true := h
  show 0xEC000000 + put a 13 + put n 0 < 2^32 ∧ 0 < 2^32
  simp only [fits_lt, Bool.and_eq_true, put] at h ⊢
  omega
theorem fmtr : ∀ d n : Nat, Statement (.fmtr d n) := by
  intro d n h
  have h : (fits d 6 && fits n 3 && decide (16 ≤ d)) = true := h
  show 0xEE000000 + put d 19 + put n 0 < 2^32 ∧ 0 < 2^32
  simp only [fits_lt, Bool.and_eq_true, decide_eq_true_eq, put] at h ⊢
  omega
theorem srr : ∀ d n : Nat, Statement (.srr d n) := by
  intro d n h
  have h : (fits d 6 && fits n 13 && srrOk d n) = true := h
  show 0xF0000000 + put d 19 + put n 0 < 2^32 ∧ 0 < 2^32
  simp only [fits_lt, Bool.and_eq_true, put] at h ⊢
  omega
theorem srw : ∀ a n : Nat, Statement (.srw a n) := by
  intro a n h
  have h : (fits a 6 && fits n 13 && srwOk n) = true := h
  show 0xF2000000 + put a 13 + put n 0 < 2^32 ∧ 0 < 2^32
  simp only [fits_lt, Bool.and_eq_true, put] at h ⊢
  omega
theorem tclaim : ∀ n : Nat, Statement (.tclaim n) := by
  intro n h
  have h : (fits n 8 && decide (1 ≤ n)) = true := h
  show 0xF4000000 + put n 0 < 2^32 ∧ 0 < 2^32
  simp only [fits_lt, Bool.and_eq_true, decide_eq_true_eq, put] at h ⊢
  omega
theorem xrfetch : ∀ b a d : Nat, Statement (.xrfetch b a d) := by
  intro b a d h
  have h : (fits b 5 && fits a 5 && fits d 5) = true := h
  show 0x0000000B + put b 20 + put a 15 + put d 7 < 2^32 ∧ 0 < 2^32
  simp only [fits_lt, Bool.and_eq_true, put] at h ⊢
  omega
theorem xbfext : ∀ l p a d : Nat, Statement (.xbfext l p a d) := by
  intro l p a d h
  have h : (fits l 6 && fits p 6 && fits a 5 && fits d 5) = true := h
  show 0x0000100B + put l 26 + put p 20 + put a 15 + put d 7 < 2^32 ∧ 0 < 2^32
  simp only [fits_lt, Bool.and_eq_true, put] at h ⊢
  omega
theorem xswait : ∀ b a d : Nat, Statement (.xswait b a d) := by
  intro b a d h
  have h : (fits b 5 && fits a 5 && fits d 5) = true := h
  show 0x0000200B + put b 20 + put a 15 + put d 7 < 2^32 ∧ 0 < 2^32
  simp only [fits_lt, Bool.and_eq_true, put] at h ⊢
  omega
theorem xdisp : ∀ a d : Nat, Statement (.xdisp a d) := by
  intro a d h
  have h : (fits a 5 && fits d 5) = true := h
  show 0x0000300B + put a 15 + put d 7 < 2^32 ∧ 0 < 2^32
  simp only [fits_lt, Bool.and_eq_true, put] at h ⊢
  omega
theorem xmeas : ∀ a d : Nat, Statement (.xmeas a d) := by
  intro a d h
  have h : (fits a 5 && fits d 5) = true := h
  show 0x0000400B + put a 15 + put d 7 < 2^32 ∧ 0 < 2^32
  simp only [fits_lt, Bool.and_eq_true, put] at h ⊢
  omega
theorem xswaitReturn : ∀ x0, Statement (.xswaitReturn x0) := fun _ _ => zero_fits
theorem evackWrite : ∀ x0, Statement (.evackWrite x0) := fun _ _ => zero_fits
theorem kick : ∀ x0 x1 x2, Statement (.kick x0 x1 x2) := fun _ _ _ _ => zero_fits
theorem rearm : ∀ x0 x1 x2, Statement (.rearm x0 x1 x2) := fun _ _ _ _ => zero_fits
theorem queueDrain : ∀ x0 x1 x2, Statement (.queueDrain x0 x1 x2) := fun _ _ _ _ => zero_fits
theorem queueResume : ∀ x0 x1 x2, Statement (.queueResume x0 x1 x2) := fun _ _ _ _ => zero_fits
theorem queueEnable : ∀ x0 x1 x2, Statement (.queueEnable x0 x1 x2) := fun _ _ _ _ => zero_fits
theorem queueDisable : ∀ x0 x1 x2, Statement (.queueDisable x0 x1 x2) := fun _ _ _ _ => zero_fits
theorem pointRequest : ∀ x0 x1 x2, Statement (.pointRequest x0 x1 x2) := fun _ _ _ _ => zero_fits
theorem poolTableWrite : ∀ x0 x1 x2, Statement (.poolTableWrite x0 x1 x2) := fun _ _ _ _ => zero_fits
theorem registerWrite : ∀ x0 x1 x2 x3, Statement (.registerWrite x0 x1 x2 x3) := fun _ _ _ _ _ => zero_fits
theorem islandPowerUp : ∀ x0, Statement (.islandPowerUp x0) := fun _ _ => zero_fits
theorem ringCycle : ∀ x0, Statement (.ringCycle x0) := fun _ _ => zero_fits
theorem claimOpen : ∀ x0 x1, Statement (.claimOpen x0 x1) := fun _ _ _ => zero_fits
theorem holdWindowEnd : ∀ x0, Statement (.holdWindowEnd x0) := fun _ _ => zero_fits
theorem tclaimComplete : ∀ x0, Statement (.tclaimComplete x0) := fun _ _ => zero_fits
theorem spillRetry : ∀ x0, Statement (.spillRetry x0) := fun _ _ => zero_fits
theorem former : ∀ x0 x1 x2, Statement (.former x0 x1 x2) := fun _ _ _ _ => zero_fits
theorem formationWaitExpiry : ∀ x0 x1 x2 x3, Statement (.formationWaitExpiry x0 x1 x2 x3) := fun _ _ _ _ _ => zero_fits
theorem baraArrive : ∀ x0, Statement (.baraArrive x0) := fun _ _ => zero_fits
theorem barwRelease : ∀ x0, Statement (.barwRelease x0) := fun _ _ => zero_fits
theorem mlpassRecord : ∀ x0, Statement (.mlpassRecord x0) := fun _ _ => zero_fits
theorem mlwaitRelease : ∀ x0, Statement (.mlwaitRelease x0) := fun _ _ => zero_fits
theorem waitRelease : ∀ x0, Statement (.waitRelease x0) := fun _ _ => zero_fits
theorem fenceComplete : ∀ x0, Statement (.fenceComplete x0) := fun _ _ => zero_fits
theorem tfenceComplete : ∀ x0, Statement (.tfenceComplete x0) := fun _ _ => zero_fits
theorem ifenceComplete : ∀ x0, Statement (.ifenceComplete x0) := fun _ _ => zero_fits
theorem hputPerform : ∀ x0, Statement (.hputPerform x0) := fun _ _ => zero_fits
theorem hgetPerform : ∀ x0, Statement (.hgetPerform x0) := fun _ _ => zero_fits
theorem takeReturn : ∀ x0, Statement (.takeReturn x0) := fun _ _ => zero_fits
theorem spawnComplete : ∀ x0, Statement (.spawnComplete x0) := fun _ _ => zero_fits
theorem rowFree : ∀ x0, Statement (.rowFree x0) := fun _ _ => zero_fits
theorem regionWriteback : ∀ x0, Statement (.regionWriteback x0) := fun _ _ => zero_fits
theorem runComplete : ∀ x0, Statement (.runComplete x0) := fun _ _ => zero_fits
theorem fetchSlot : ∀ x0 x1, Statement (.fetchSlot x0 x1) := fun _ _ _ => zero_fits
theorem fetchRetry : ∀ x0 x1, Statement (.fetchRetry x0 x1) := fun _ _ _ => zero_fits
theorem eventWaitEval : ∀ x0, Statement (.eventWaitEval x0) := fun _ _ => zero_fits
theorem dispatch : ∀ x0, Statement (.dispatch x0) := fun _ _ => zero_fits
theorem crewStart : ∀ x0, Statement (.crewStart x0) := fun _ _ => zero_fits
theorem streamOut : ∀ x0, Statement (.streamOut x0) := fun _ _ => zero_fits
theorem streamIn : ∀ x0 x1 x2, Statement (.streamIn x0 x1 x2) := fun _ _ _ _ => zero_fits
theorem reselect : ∀ x0, Statement (.reselect x0) := fun _ _ => zero_fits
theorem residencyTimeout : ∀ x0 x1, Statement (.residencyTimeout x0 x1) := fun _ _ _ => zero_fits
theorem leaseAnswer : ∀ x0 x1, Statement (.leaseAnswer x0 x1) := fun _ _ _ => zero_fits
theorem correct : ∀ x0 x1, Statement (.correct x0 x1) := fun _ _ _ => zero_fits
theorem limitBindChange : ∀ x0, Statement (.limitBindChange x0) := fun _ _ => zero_fits
theorem poolHalve : ∀ x0, Statement (.poolHalve x0) := fun _ _ => zero_fits
theorem poolRestore : ∀ x0, Statement (.poolRestore x0) := fun _ _ => zero_fits
theorem budgetWindow : ∀ x0, Statement (.budgetWindow x0) := fun _ _ => zero_fits
theorem pointChangeComplete : ∀ x0, Statement (.pointChangeComplete x0) := fun _ _ => zero_fits
theorem plobritEpoch : ∀ x0, Statement (.plobritEpoch x0) := fun _ _ => zero_fits
theorem silentMember : ∀ x0, Statement (.silentMember x0) := fun _ _ => zero_fits
theorem budgetMessage : ∀ x0 x1 x2 x3 x4, Statement (.budgetMessage x0 x1 x2 x3 x4) := fun _ _ _ _ _ _ => zero_fits
theorem loadComplete : ∀ x0 x1, Statement (.loadComplete x0 x1) := fun _ _ _ => zero_fits
theorem storePerformed : ∀ x0, Statement (.storePerformed x0) := fun _ _ => zero_fits
theorem atomicPerformed : ∀ x0, Statement (.atomicPerformed x0) := fun _ _ => zero_fits
theorem sideLogReplay : ∀ x0 x1 x2, Statement (.sideLogReplay x0 x1 x2) := fun _ _ _ _ => zero_fits
theorem matrixEntryStart : ∀ x0, Statement (.matrixEntryStart x0) := fun _ _ => zero_fits
theorem matrixEntryComplete : ∀ x0, Statement (.matrixEntryComplete x0) := fun _ _ => zero_fits
theorem copyStart : ∀ x0, Statement (.copyStart x0) := fun _ _ => zero_fits
theorem copyComplete : ∀ x0, Statement (.copyComplete x0) := fun _ _ => zero_fits
theorem mscServe : ∀ x0, Statement (.mscServe x0) := fun _ _ => zero_fits
theorem resealTile : ∀ x0 x1, Statement (.resealTile x0 x1) := fun _ _ _ => zero_fits
theorem resealEnd : ∀ x0, Statement (.resealEnd x0) := fun _ _ => zero_fits
theorem fwSramUncorrectable : ∀ x0, Statement (.fwSramUncorrectable x0) := fun _ _ => zero_fits
theorem transferActivate : ∀ x0 x1, Statement (.transferActivate x0 x1) := fun _ _ _ => zero_fits
theorem tileTransferComplete : ∀ x0 x1 x2, Statement (.tileTransferComplete x0 x1 x2) := fun _ _ _ _ => zero_fits
theorem refreshDue : ∀ x0 x1, Statement (.refreshDue x0 x1) := fun _ _ _ => zero_fits
theorem pseudoChannelIdle : ∀ x0 x1, Statement (.pseudoChannelIdle x0 x1) := fun _ _ _ => zero_fits
theorem refpbIssue : ∀ x0 x1, Statement (.refpbIssue x0 x1) := fun _ _ _ => zero_fits
theorem refabIssue : ∀ x0 x1, Statement (.refabIssue x0 x1) := fun _ _ _ => zero_fits
theorem refabEnd : ∀ x0 x1, Statement (.refabEnd x0 x1) := fun _ _ _ => zero_fits
theorem scrubPassStart : ∀ x0, Statement (.scrubPassStart x0) := fun _ _ => zero_fits
theorem scrubTile : ∀ x0 x1, Statement (.scrubTile x0 x1) := fun _ _ _ => zero_fits
theorem clusterRetire : ∀ x0, Statement (.clusterRetire x0) := fun _ _ => zero_fits
theorem wearMonitorUpdate : ∀ x0 x1, Statement (.wearMonitorUpdate x0 x1) := fun _ _ _ => zero_fits
theorem surveyUpdate : ∀ x0, Statement (.surveyUpdate x0) := fun _ _ => zero_fits
theorem hostMemRequest : ∀ x0 x1 x2, Statement (.hostMemRequest x0 x1 x2) := fun _ _ _ _ => zero_fits
theorem hostTimeout : ∀ x0, Statement (.hostTimeout x0) := fun _ _ => zero_fits
theorem lockInterface : ∀ x0 x1, Statement (.lockInterface x0 x1) := fun _ _ _ => zero_fits
theorem startInterface : ∀ x0, Statement (.startInterface x0) := fun _ _ => zero_fits
theorem stopInterface : ∀ x0, Statement (.stopInterface x0) := fun _ _ => zero_fits
theorem interfaceError : ∀ x0, Statement (.interfaceError x0) := fun _ _ => zero_fits
theorem unlockToken : ∀ x0, Statement (.unlockToken x0) := fun _ _ => zero_fits
theorem deployCommand : ∀ x0, Statement (.deployCommand x0) := fun _ _ => zero_fits
theorem decommissionCommand : ∀ x0, Statement (.decommissionCommand x0) := fun _ _ => zero_fits
theorem handoverStage : ∀ x0 x1 x2, Statement (.handoverStage x0 x1 x2) := fun _ _ _ _ => zero_fits
theorem safePoint : ∀ x0, Statement (.safePoint x0) := fun _ _ => zero_fits
theorem flitReceive : ∀ x0 x1 x2 x3 x4, Statement (.flitReceive x0 x1 x2 x3 x4) := fun _ _ _ _ _ _ => zero_fits
theorem nak : ∀ x0 x1 x2, Statement (.nak x0 x1 x2) := fun _ _ _ _ => zero_fits
theorem ackTimeout : ∀ x0, Statement (.ackTimeout x0) := fun _ _ => zero_fits
theorem freezeEnd : ∀ x0, Statement (.freezeEnd x0) := fun _ _ => zero_fits
theorem freezeTimeout : ∀ x0, Statement (.freezeTimeout x0) := fun _ _ => zero_fits
theorem fabricRequest : ∀ x0 x1 x2 x3 x4 x5, Statement (.fabricRequest x0 x1 x2 x3 x4 x5) := fun _ _ _ _ _ _ _ => zero_fits
theorem islandPowerDown : ∀ x0, Statement (.islandPowerDown x0) := fun _ _ => zero_fits
theorem coreClockGate : ∀ x0, Statement (.coreClockGate x0) := fun _ _ => zero_fits
theorem coreClockUngate : ∀ x0, Statement (.coreClockUngate x0) := fun _ _ => zero_fits
theorem poisonedFrameRetire : ∀ x0, Statement (.poisonedFrameRetire x0) := fun _ _ => zero_fits
theorem ret : Statement (.ret) := fun _ => one_fits _ (by decide)
theorem exit : Statement (.exit) := fun _ => one_fits _ (by decide)
theorem brk : Statement (.brk) := fun _ => one_fits _ (by decide)
theorem nop : Statement (.nop) := fun _ => one_fits _ (by decide)
theorem yield : Statement (.yield) := fun _ => one_fits _ (by decide)
theorem tfree : Statement (.tfree) := fun _ => one_fits _ (by decide)
theorem contextCreate : Statement (.contextCreate) := fun _ => zero_fits
theorem contextRewrite : Statement (.contextRewrite) := fun _ => zero_fits
theorem bucketDeposit : Statement (.bucketDeposit) := fun _ => zero_fits
theorem bucketCapWrite : Statement (.bucketCapWrite) := fun _ => zero_fits
theorem bucketShareWrite : Statement (.bucketShareWrite) := fun _ => zero_fits
theorem bucketRead : Statement (.bucketRead) := fun _ => zero_fits
theorem setAllow : Statement (.setAllow) := fun _ => zero_fits
theorem wayMaskWrite : Statement (.wayMaskWrite) := fun _ => zero_fits
theorem hdmBind : Statement (.hdmBind) := fun _ => zero_fits
theorem hdmMove : Statement (.hdmMove) := fun _ => zero_fits
theorem hdmClear : Statement (.hdmClear) := fun _ => zero_fits
theorem setSustainedLimit : Statement (.setSustainedLimit) := fun _ => zero_fits
theorem setRackCap : Statement (.setRackCap) := fun _ => zero_fits
theorem meterRecordRequest : Statement (.meterRecordRequest) := fun _ => zero_fits
theorem streamOutOrder : Statement (.streamOutOrder) := fun _ => zero_fits
theorem vdDrainSet : Statement (.vdDrainSet) := fun _ => zero_fits
theorem vdDrainClear : Statement (.vdDrainClear) := fun _ => zero_fits
theorem deviceDrainSet : Statement (.deviceDrainSet) := fun _ => zero_fits
theorem deviceDrainClear : Statement (.deviceDrainClear) := fun _ => zero_fits
theorem pageResume : Statement (.pageResume) := fun _ => zero_fits
theorem pageInvalid : Statement (.pageInvalid) := fun _ => zero_fits
theorem frameOwnerChange : Statement (.frameOwnerChange) := fun _ => zero_fits
theorem partitionCreate : Statement (.partitionCreate) := fun _ => zero_fits
theorem partitionDestroy : Statement (.partitionDestroy) := fun _ => zero_fits
theorem vdAttach : Statement (.vdAttach) := fun _ => zero_fits
theorem vdDetach : Statement (.vdDetach) := fun _ => zero_fits
theorem importWrite : Statement (.importWrite) := fun _ => zero_fits
theorem importClear : Statement (.importClear) := fun _ => zero_fits
theorem contextDestroy : Statement (.contextDestroy) := fun _ => zero_fits
theorem eventRingEnable : Statement (.eventRingEnable) := fun _ => zero_fits
theorem eventRingDisable : Statement (.eventRingDisable) := fun _ => zero_fits
theorem deviceReset : Statement (.deviceReset) := fun _ => zero_fits
theorem dispatchWindow : Statement (.dispatchWindow) := fun _ => zero_fits
theorem softErrorWindow : Statement (.softErrorWindow) := fun _ => zero_fits
theorem linkLost : Statement (.linkLost) := fun _ => zero_fits
theorem getMeasurements : Statement (.getMeasurements) := fun _ => zero_fits
theorem keyExchange : Statement (.keyExchange) := fun _ => zero_fits
theorem handoverAbort : Statement (.handoverAbort) := fun _ => zero_fits
theorem unlockChallenge : Statement (.unlockChallenge) := fun _ => zero_fits
theorem mailboxUnknownCommand : Statement (.mailboxUnknownCommand) := fun _ => zero_fits

end Sys2Proof.Laws.Fits
end

