-- ==== Sys2Proof/Laws/Renvas.lean ====
section
/-! SUPPORT. What the assembler emits: words that the device decodes (14 R390). -/

namespace Sys2Proof.Renvas

/-- A row's words decode: the assembler never emits a reserved encoding (R390). -/
theorem rowWords_decodes {syms : List Sym} {pc : Nat} {g : Option Nat} {mods ops : List Text} {r : Row} {ws : List Nat}
    (h : rowWords syms pc g mods ops r = some ws) :
    ∃ w0 w1 i, decode w0 w1 = some i ∧ ws = if lenOf w0 = 2 then [w0, w1] else [w0] := by
  simp only [rowWords] at h
  split at h
  · cases h
  · split at h
    · split at h
      · rename_i i hd
        split at h
        · exact ⟨_, _, i, hd, by simpa using h.symm⟩
        · cases h
      · cases h
    · cases h

/-- So do the words of every statement. -/
theorem words_decode {syms : List Sym} {pc : Nat} {g : Option Nat} {mn : Text} {mods ops : List Text} {ws : List Nat}
    (h : words syms pc g mn mods ops = some ws) :
    ∃ w0 w1 i, decode w0 w1 = some i ∧ ws = if lenOf w0 = 2 then [w0, w1] else [w0] := by
  obtain ⟨_, -, hr⟩ := List.exists_of_findSome?_eq_some h
  exact rowWords_decodes hr

/-- A line in error emits nothing (R390). -/
theorem emitLine_error {bases : Text → Nat} {tab : List Sym} {bad : List Nat} {m : Asm} {n : Nat} {line : Line}
    (h : lineBytes bases tab m.lay line = none) : (emitLine bases tab bad m n (some line)).chunks = m.chunks := by
  simp [emitLine, h]

end Sys2Proof.Renvas
end

