-- ==== Sys2Proof/Tests/Slice0.lean ====
section
/-! SUPPORT. Tests: well-formedness refuses an ill-formed term for each check; words written out from the manual's encodings decode to their
instructions; one step of an instruction on a small state; a state and operands that meet the hypotheses of each statement. Expected values
are worked out by hand from the rule named, or are a worked example of the manual. -/

namespace Sys2Proof.Tests

set_option Elab.async false

open Sys2Proof.Machine Sys2Proof.Claims

/-! ### Words and well-formedness -/

def reads (l : List (Nat × Nat × Instr)) : Bool := l.all fun p => decide (decode p.1 p.2.1 = some p.2.2)
def readsX (l : List (Nat × Instr)) : Bool := l.all fun p => decide (decodeX p.1 = some p.2)
def refused (l : List Instr) : Bool := l.all fun i => !i.wf

theorem test_words_lane_integer : reads [
    (0x012AD6AB, 0x00000000, .iadd 37 22 90 5 3), (0x032AD6AB, 0x00000000, .isub 37 22 90 5 3),
    (0x052AD6AB, 0x00000000, .imul 37 22 90 5 3), (0x072AD6AB, 0x00000000, .imulh 37 22 90 5 3),
    (0x092AD6AB, 0x00000000, .imulhu 37 22 90 5 3), (0x0B2AD6AB, 0x00000000, .imad 37 22 90 5 3),
    (0x0D2AD6AB, 0x00000000, .imin 37 22 90 5 3), (0x0F2AD6AB, 0x00000000, .imax 37 22 90 5 3),
    (0x112AD6AB, 0x00000000, .iminu 37 22 90 5 3), (0x132AD6AB, 0x00000000, .imaxu 37 22 90 5 3),
    (0x152AD6AB, 0x00000000, .iadds 37 22 90 5 3), (0x172AD6AB, 0x00000000, .isubs 37 22 90 5 3),
    (0x192AC02B, 0x00000000, .iabs 37 22 5 3), (0x1B2AD6A8, 0x00000000, .andl 37 22 90 5), (0x1D2AD6A8, 0x00000000, .orl 37 22 90 5),
    (0x1F2AD6A8, 0x00000000, .xorl 37 22 90 5), (0x212AD6A8, 0x00000000, .andnl 37 22 90 5), (0x232AD6AB, 0x00000000, .shl 37 22 90 5 3),
    (0x252AD6AB, 0x00000000, .shr 37 22 90 5 3), (0x272AD6AB, 0x00000000, .sar 37 22 90 5 3), (0x292AD6AB, 0x00000000, .rol 37 22 90 5 3),
    (0x2B2AC02B, 0x00000000, .popc 37 22 5 3), (0x2B2AC06B, 0x00000000, .clz 37 22 5 3), (0x2B2AC0AB, 0x00000000, .brev 37 22 5 3),
    (0x2D2AD6AC, 0x00000000, .icmp 37 22 90 5 4), (0x2F2AD6B0, 0x00000000, .sel 37 22 90 6), (0x312816A8, 0x00000000, .mov 37 90 5),
    (0x332AD6A8, 0x00000000, .perm 37 22 90 5), (0x352D2E1B, 0x00000000, .movi 37 0xa5c3 3),
    (0x37280002, 0xDEADBEEF, .movx 37 2 0xdeadbeef), (0x392AD6A9, 0x00000000, .bfx 37 22 90 5 1),
    (0x3B2AD6A8, 0x00000000, .bfi 37 22 90 5)] = true := by decide +kernel

theorem test_words_lane_float : reads [
    (0x3D2AD6AE, 0x00000000, .fadd 37 22 90 5 6), (0x3F2AD6AE, 0x00000000, .fsub 37 22 90 5 6),
    (0x412AD6AE, 0x00000000, .fmul 37 22 90 5 6), (0x432AD6AE, 0x00000000, .ffma 37 22 90 5 6),
    (0x452AD6AE, 0x00000000, .ffms 37 22 90 5 6), (0x472AD6AE, 0x00000000, .fmin 37 22 90 5 6),
    (0x492AD6AE, 0x00000000, .fmax 37 22 90 5 6), (0x4B2AD6B6, 0x00000000, .fcmp 37 22 90 6 6),
    (0x4D2AD69E, 0x00000000, .fsgn 37 22 90 3 6), (0x4F2AC02E, 0x00000000, .fspc 37 22 5 6), (0x512AC02E, 0x00000000, .fclass 37 22 5 6),
    (0x532ACAEE, 0x00000000, .cvt 37 22 2 11 5 6), (0x552ADAEB, 0x00000000, .cvti 37 22 6 11 5 3),
    (0x572ACAEE, 0x00000000, .cvtf 37 22 2 11 5 6), (0x592AD69E, 0x00000000, .fdot 37 22 90 3 6)] = true := by decide +kernel

theorem test_words_cross_lane : reads [
    (0x5B2AD6B3, 0x00000000, .shfl 37 22 90 6 3), (0x5D2816B3, 0x00000000, .vote 37 90 6 3), (0x5F2AC07A, 0x00000000, .scan 37 22 1 7 2),
    (0x5F2AC6C0, 0x00000000, .scanFadd 37 22 6 1), (0x612AC031, 0x00000000, .red 37 22 6 1), (0x612AC680, 0x00000000, .redFadd 37 22 6)] = true := by decide +kernel

theorem test_words_predicate : reads [
    (0x6228C0EA, 0x00000000, .qop 5 6 3 5 2), (0x6432C028, 0x00000000, .movqToPredicate 6 22 5),
    (0x6528C029, 0x00000000, .movqToVector 37 6 5)] = true := by decide +kernel

theorem test_words_memory : reads [
    (0x675ADBCE, 0x00000000, .ld 43 22 13 57 6), (0x695ADB35, 0x00000000, .st 43 22 13 38 5),
    (0x6B5ADBC9, 0x07000000, .aadd 43 22 13 57 1 3 2 0), (0x6B5ADBC9, 0x17000000, .aand 43 22 13 57 1 3 2 0),
    (0x6B5ADBC9, 0x27000000, .aor 43 22 13 57 1 3 2 0), (0x6B5ADBC9, 0x37000000, .axor 43 22 13 57 1 3 2 0),
    (0x6B5ADBC9, 0x47000000, .amin 43 22 13 57 1 3 2 0), (0x6A02DBC9, 0x57080000, .amax 0 22 13 57 1 3 2 1),
    (0x6B5ADBC9, 0x67000000, .aminu 43 22 13 57 1 3 2 0), (0x6B5ADBC9, 0x77000000, .amaxu 43 22 13 57 1 3 2 0),
    (0x6B5ADBC9, 0x87000000, .axchg 43 22 13 57 1 3 2 0), (0x6B5ADBC9, 0x97080000, .acas 43 22 13 57 1 3 2 1),
    (0x6B5ADBC9, 0xA7500000, .afadd 43 22 13 57 1 3 2 5 0), (0x6D0CD6C0, 0x00000000, .msign 33 9 21 5 1)] = true := by decide +kernel

theorem test_words_group : reads [
    (0x812AC980, 0x00000000, .gadd 37 22 19), (0x832AC980, 0x00000000, .gsub 37 22 19), (0x852AC980, 0x00000000, .gmul 37 22 19),
    (0x872AC980, 0x00000000, .gand 37 22 19), (0x892AC980, 0x00000000, .gor 37 22 19), (0x8B2AC980, 0x00000000, .gxor 37 22 19),
    (0x8D2AC980, 0x00000000, .gshl 37 22 19), (0x8F2AC980, 0x00000000, .gshr 37 22 19), (0x912AC980, 0x00000000, .gsar 37 22 19),
    (0x932AC980, 0x00000000, .gmin 37 22 19), (0x952AC980, 0x00000000, .gmax 37 22 19), (0x972AC9B3, 0x00000000, .gsel 37 22 19 51),
    (0x992AD5A3, 0x00000000, .gaddi 37 22 0x15a3), (0x9B2EA5C3, 0x00000000, .gmovi 37 0x6a5c3),
    (0x9D2FABCD, 0x00000000, .glui 37 0x7abcd), (0x9F2AC01D, 0x00000000, .grdl 37 22 29)] = true := by decide +kernel

theorem test_words_control : reads [
    (0xA175A5C3, 0x00000000, .br 5 1 0x15a5c3), (0xA365A5C3, 0x00000000, .brg 44 2 0x1a5c3), (0xA402C000, 0x00000000, .jmp 22),
    (0xA60FA5C3, 0x00000000, .call 0xfa5c3), (0xA8000000, 0x00000000, .ret), (0xAA000020, 0x00000000, .join 32),
    (0xAC000000, 0x00000000, .exit), (0xAF76D000, 0x00000000, .spawn 11 5 45), (0xB000BEEF, 0x00000000, .trap 0xbeef),
    (0xB2000001, 0x00000000, .eret 1), (0xB4000000, 0x00000000, .brk), (0xB6000000, 0x00000000, .nop), (0xB8000000, 0x00000000, .yield)] = true := by decide +kernel

theorem test_words_sync : reads [
    (0xBB9726C0, 0x00000000, .bari 101 50 27), (0xBD940000, 0x00000000, .bara 101), (0xBF972000, 0x00000000, .barw 101 50),
    (0xC1372000, 0x00000000, .bart 77 50), (0xC202D000, 0x00000000, .syncm 45), (0xC402C065, 0x00000000, .mlwait 22 101),
    (0xC602C065, 0x00000000, .mlpass 22 101), (0xC94ADAC0, 0x00000000, .wait 41 22 13 6), (0xCB2E0000, 0x00000000, .fence 4 11 2),
    (0xCD000000, 0x00000000, .tfence 4), (0xCEC00000, 0x00000000, .ifence 3), (0xD1A80000, 0x00000000, .take 53),
    (0xD202C006, 0x00000000, .hput 22 6), (0xD5A80006, 0x00000000, .hget 53 6), (0xD72AD99D, 0x01CA0000, .cpy 37 22 51 1 13 1 101),
    (0xD92AD99D, 0x01CA0000, .cpyg 37 22 51 1 13 1 101)] = true := by decide +kernel

theorem test_words_engines : reads [
    (0xDA2AC003, 0x01CB4313, .cpyt 5 22 1 1 1 101 0x143 19), (0xDA22C000, 0x010C2700, .cpyt 4 22 0 0 1 6 39 0),
    (0xDC202AC8, 0x48000000, .resv 4 1 21 1 1 0 1 32), (0xDD60EB75, 0xA9400000, .resv 44 7 22 1 6 5 2 0xa5),
    (0xDE00002C, 0x00000000, .relsUnit 44), (0xDE00004D, 0x00000000, .relsWaypoint 13),
    (0xE029AB03, 0xB1CB8000, .mma 5 13 22 1 1 44 1 101 6), (0xE229CB03, 0xB1CB8000, .mmab 5 14 22 1 1 44 1 101 6),
    (0xE4296B03, 0xB1CB8000, .mmaj 5 11 22 1 1 44 1 101 6), (0xE7280000, 0x00000000, .tzero 37),
    (0xE92AC2F6, 0x00000000, .tld 37 22 5 14 6), (0xEB2AC2F6, 0x01CA0000, .tst 37 22 5 14 6 1 101), (0xEC02C006, 0x00000000, .fmtw 22 6)] = true := by decide +kernel

theorem test_words_system : reads [
    (0xEF280006, 0x00000000, .fmtr 37 6), (0xF1280123, 0x00000000, .srr 37 0x123), (0xF202C12E, 0x00000000, .srw 22 0x12e),
    (0xF40000A5, 0x00000000, .tclaim 0xa5), (0xF6000000, 0x00000000, .tfree)] = true := by decide +kernel
theorem test_refuses_lane_integer : refused [
    .iadd 64 22 90 5 3, .iadd 37 64 90 5 3, .iadd 37 22 128 5 3, .iadd 37 22 90 8 3, .iadd 37 22 90 5 8, .iadd 37 22 90 5 5,
    .isub 64 22 90 5 3, .isub 37 64 90 5 3, .isub 37 22 128 5 3, .isub 37 22 90 8 3, .isub 37 22 90 5 8, .isub 37 22 90 5 5,
    .imul 64 22 90 5 3, .imul 37 64 90 5 3, .imul 37 22 128 5 3, .imul 37 22 90 8 3, .imul 37 22 90 5 8, .imul 37 22 90 5 5,
    .imulh 64 22 90 5 3, .imulh 37 64 90 5 3, .imulh 37 22 128 5 3, .imulh 37 22 90 8 3, .imulh 37 22 90 5 8, .imulh 37 22 90 5 5,
    .imulhu 64 22 90 5 3, .imulhu 37 64 90 5 3, .imulhu 37 22 128 5 3, .imulhu 37 22 90 8 3, .imulhu 37 22 90 5 8, .imulhu 37 22 90 5 5,
    .imad 64 22 90 5 3, .imad 37 64 90 5 3, .imad 37 22 128 5 3, .imad 37 22 90 8 3, .imad 37 22 90 5 8, .imad 37 22 90 5 5,
    .imin 64 22 90 5 3, .imin 37 64 90 5 3, .imin 37 22 128 5 3, .imin 37 22 90 8 3, .imin 37 22 90 5 8, .imin 37 22 90 5 5,
    .imax 64 22 90 5 3, .imax 37 64 90 5 3, .imax 37 22 128 5 3, .imax 37 22 90 8 3, .imax 37 22 90 5 8, .imax 37 22 90 5 5,
    .iminu 64 22 90 5 3, .iminu 37 64 90 5 3, .iminu 37 22 128 5 3, .iminu 37 22 90 8 3, .iminu 37 22 90 5 8, .iminu 37 22 90 5 5,
    .imaxu 64 22 90 5 3, .imaxu 37 64 90 5 3, .imaxu 37 22 128 5 3, .imaxu 37 22 90 8 3, .imaxu 37 22 90 5 8, .imaxu 37 22 90 5 5,
    .iadds 64 22 90 5 3, .iadds 37 64 90 5 3, .iadds 37 22 128 5 3, .iadds 37 22 90 8 3, .iadds 37 22 90 5 8, .iadds 37 22 90 5 5,
    .isubs 64 22 90 5 3, .isubs 37 64 90 5 3, .isubs 37 22 128 5 3, .isubs 37 22 90 8 3, .isubs 37 22 90 5 8, .isubs 37 22 90 5 5,
    .iabs 64 22 5 3, .iabs 37 64 5 3, .iabs 37 22 8 3, .iabs 37 22 5 8, .iabs 37 22 5 5, .andl 64 22 90 5, .andl 37 64 90 5,
    .andl 37 22 128 5, .andl 37 22 90 8, .orl 64 22 90 5, .orl 37 64 90 5, .orl 37 22 128 5, .orl 37 22 90 8, .xorl 64 22 90 5,
    .xorl 37 64 90 5, .xorl 37 22 128 5, .xorl 37 22 90 8, .andnl 64 22 90 5, .andnl 37 64 90 5, .andnl 37 22 128 5, .andnl 37 22 90 8,
    .shl 64 22 90 5 3, .shl 37 64 90 5 3, .shl 37 22 128 5 3, .shl 37 22 90 8 3, .shl 37 22 90 5 8, .shl 37 22 90 5 5, .shr 64 22 90 5 3,
    .shr 37 64 90 5 3, .shr 37 22 128 5 3, .shr 37 22 90 8 3, .shr 37 22 90 5 8, .shr 37 22 90 5 5, .sar 64 22 90 5 3, .sar 37 64 90 5 3,
    .sar 37 22 128 5 3, .sar 37 22 90 8 3, .sar 37 22 90 5 8, .sar 37 22 90 5 5, .rol 64 22 90 5 3, .rol 37 64 90 5 3, .rol 37 22 128 5 3,
    .rol 37 22 90 8 3, .rol 37 22 90 5 8, .rol 37 22 90 5 5, .popc 64 22 5 3, .popc 37 64 5 3, .popc 37 22 8 3, .popc 37 22 5 8,
    .popc 37 22 5 5, .clz 64 22 5 3, .clz 37 64 5 3, .clz 37 22 8 3, .clz 37 22 5 8, .clz 37 22 5 5, .brev 64 22 5 3, .brev 37 64 5 3,
    .brev 37 22 8 3, .brev 37 22 5 8, .brev 37 22 5 5, .icmp 64 22 90 5 4, .icmp 37 64 90 5 4, .icmp 37 22 128 5 4, .icmp 37 22 90 8 4,
    .icmp 37 22 90 5 8, .icmp 37 22 90 6 4, .icmp 37 22 90 5 5, .sel 64 22 90 6, .sel 37 64 90 6, .sel 37 22 128 6, .sel 37 22 90 8,
    .sel 37 22 90 0, .mov 64 90 5, .mov 37 128 5, .mov 37 90 8, .perm 64 22 90 5, .perm 37 64 90 5, .perm 37 22 128 5, .perm 37 22 90 8,
    .movi 64 42435 3, .movi 37 65536 3, .movi 37 42435 8, .movi 37 42435 5, .movx 64 2 3735928559, .movx 37 8 3735928559,
    .movx 37 2 4294967296, .movx 37 3 3735928559, .bfx 64 22 90 5 1, .bfx 37 64 90 5 1, .bfx 37 22 128 5 1, .bfx 37 22 90 8 1,
    .bfx 37 22 90 5 2, .bfi 64 22 90 5, .bfi 37 64 90 5, .bfi 37 22 128 5, .bfi 37 22 90 8] = true := by decide +kernel

theorem test_refuses_lane_float : refused [
    .fadd 64 22 90 5 6, .fadd 37 64 90 5 6, .fadd 37 22 128 5 6, .fadd 37 22 90 8 6, .fadd 37 22 90 5 8, .fsub 64 22 90 5 6,
    .fsub 37 64 90 5 6, .fsub 37 22 128 5 6, .fsub 37 22 90 8 6, .fsub 37 22 90 5 8, .fmul 64 22 90 5 6, .fmul 37 64 90 5 6,
    .fmul 37 22 128 5 6, .fmul 37 22 90 8 6, .fmul 37 22 90 5 8, .ffma 64 22 90 5 6, .ffma 37 64 90 5 6, .ffma 37 22 128 5 6,
    .ffma 37 22 90 8 6, .ffma 37 22 90 5 8, .ffms 64 22 90 5 6, .ffms 37 64 90 5 6, .ffms 37 22 128 5 6, .ffms 37 22 90 8 6,
    .ffms 37 22 90 5 8, .fmin 64 22 90 5 6, .fmin 37 64 90 5 6, .fmin 37 22 128 5 6, .fmin 37 22 90 8 6, .fmin 37 22 90 5 8,
    .fmax 64 22 90 5 6, .fmax 37 64 90 5 6, .fmax 37 22 128 5 6, .fmax 37 22 90 8 6, .fmax 37 22 90 5 8, .fcmp 64 22 90 6 6,
    .fcmp 37 64 90 6 6, .fcmp 37 22 128 6 6, .fcmp 37 22 90 8 6, .fcmp 37 22 90 6 8, .fcmp 37 22 90 7 6, .fsgn 64 22 90 3 6,
    .fsgn 37 64 90 3 6, .fsgn 37 22 128 3 6, .fsgn 37 22 90 8 6, .fsgn 37 22 90 3 8, .fsgn 37 22 90 4 6, .fsgn 37 22 90 1 6,
    .fspc 64 22 5 6, .fspc 37 64 5 6, .fspc 37 22 8 6, .fspc 37 22 5 8, .fspc 37 22 6 6, .fclass 64 22 5 6, .fclass 37 64 5 6,
    .fclass 37 22 8 6, .fclass 37 22 5 8, .cvt 64 22 2 11 5 6, .cvt 37 64 2 11 5 6, .cvt 37 22 8 11 5 6, .cvt 37 22 2 16 5 6,
    .cvt 37 22 2 11 8 6, .cvt 37 22 2 11 5 8, .cvti 64 22 6 11 5 3, .cvti 37 64 6 11 5 3, .cvti 37 22 8 11 5 3, .cvti 37 22 6 16 5 3,
    .cvti 37 22 6 11 8 3, .cvti 37 22 6 11 5 8, .cvti 37 22 6 11 5 5, .cvtf 64 22 2 11 5 6, .cvtf 37 64 2 11 5 6, .cvtf 37 22 8 11 5 6,
    .cvtf 37 22 2 16 5 6, .cvtf 37 22 2 11 8 6, .cvtf 37 22 2 11 5 8, .cvtf 37 22 5 11 5 6, .fdot 64 22 90 3 6, .fdot 37 64 90 3 6,
    .fdot 37 22 128 3 6, .fdot 37 22 90 8 6, .fdot 37 22 90 3 8] = true := by decide +kernel

theorem test_refuses_cross_lane : refused [
    .shfl 64 22 90 6 3, .shfl 37 64 90 6 3, .shfl 37 22 128 6 3, .shfl 37 22 90 8 3, .shfl 37 22 90 6 8, .shfl 37 22 90 6 5,
    .vote 64 90 6 3, .vote 37 128 6 3, .vote 37 90 8 3, .vote 37 90 6 8, .vote 37 90 6 4, .scan 64 22 1 7 2, .scan 37 64 1 7 2,
    .scan 37 22 2 7 2, .scan 37 22 1 8 2, .scan 37 22 1 7 8, .scan 37 22 1 7 5, .scanFadd 64 22 6 1, .scanFadd 37 64 6 1,
    .scanFadd 37 22 8 1, .scanFadd 37 22 6 2, .red 64 22 6 1, .red 37 64 6 1, .red 37 22 8 1, .red 37 22 6 8, .red 37 22 6 5,
    .redFadd 64 22 6, .redFadd 37 64 6, .redFadd 37 22 8] = true := by decide +kernel

theorem test_refuses_predicate : refused [
    .qop 8 6 3 5 2, .qop 5 8 3 5 2, .qop 5 6 8 5 2, .qop 5 6 3 8 2, .qop 5 6 3 5 8, .qop 0 6 3 5 2, .qop 5 6 3 5 7, .qop 5 0 3 5 4,
    .qop 5 6 0 5 5, .movqToPredicate 8 22 5, .movqToPredicate 6 64 5, .movqToPredicate 6 22 8, .movqToPredicate 0 22 5,
    .movqToVector 64 6 5, .movqToVector 37 8 5, .movqToVector 37 6 8] = true := by decide +kernel

theorem test_refuses_memory : refused [
    .ld 64 22 13 57 6, .ld 43 64 13 57 6, .ld 43 22 16 57 6, .ld 43 22 13 64 6, .ld 43 22 13 57 8, .ld 43 22 13 57 7, .ld 61 22 13 57 6,
    .st 64 22 13 38 5, .st 43 64 13 38 5, .st 43 22 16 38 5, .st 43 22 13 64 5, .st 43 22 13 38 8, .st 43 22 13 38 7, .st 61 22 13 38 5,
    .aadd 64 22 13 57 1 3 2 0, .aadd 43 64 13 57 1 3 2 0, .aadd 43 22 16 57 1 3 2 0, .aadd 43 22 13 64 1 3 2 0, .aadd 43 22 13 57 8 3 2 0,
    .aadd 43 22 13 57 1 8 2 0, .aadd 43 22 13 57 1 3 4 0, .aadd 43 22 13 57 1 3 2 2, .aadd 43 22 13 57 2 3 2 0, .aadd 43 22 13 57 1 5 2 0,
    .aadd 9 22 13 57 1 3 2 1, .aand 64 22 13 57 1 3 2 0, .aand 43 64 13 57 1 3 2 0, .aand 43 22 16 57 1 3 2 0, .aand 43 22 13 64 1 3 2 0,
    .aand 43 22 13 57 8 3 2 0, .aand 43 22 13 57 1 8 2 0, .aand 43 22 13 57 1 3 4 0, .aand 43 22 13 57 1 3 2 2, .aand 43 22 13 57 2 3 2 0,
    .aand 43 22 13 57 1 5 2 0, .aand 9 22 13 57 1 3 2 1, .aor 64 22 13 57 1 3 2 0, .aor 43 64 13 57 1 3 2 0, .aor 43 22 16 57 1 3 2 0,
    .aor 43 22 13 64 1 3 2 0, .aor 43 22 13 57 8 3 2 0, .aor 43 22 13 57 1 8 2 0, .aor 43 22 13 57 1 3 4 0, .aor 43 22 13 57 1 3 2 2,
    .aor 43 22 13 57 2 3 2 0, .aor 43 22 13 57 1 5 2 0, .aor 9 22 13 57 1 3 2 1, .axor 64 22 13 57 1 3 2 0, .axor 43 64 13 57 1 3 2 0,
    .axor 43 22 16 57 1 3 2 0, .axor 43 22 13 64 1 3 2 0, .axor 43 22 13 57 8 3 2 0, .axor 43 22 13 57 1 8 2 0, .axor 43 22 13 57 1 3 4 0,
    .axor 43 22 13 57 1 3 2 2, .axor 43 22 13 57 2 3 2 0, .axor 43 22 13 57 1 5 2 0, .axor 9 22 13 57 1 3 2 1, .amin 64 22 13 57 1 3 2 0,
    .amin 43 64 13 57 1 3 2 0, .amin 43 22 16 57 1 3 2 0, .amin 43 22 13 64 1 3 2 0, .amin 43 22 13 57 8 3 2 0, .amin 43 22 13 57 1 8 2 0,
    .amin 43 22 13 57 1 3 4 0, .amin 43 22 13 57 1 3 2 2, .amin 43 22 13 57 2 3 2 0, .amin 43 22 13 57 1 5 2 0, .amin 9 22 13 57 1 3 2 1,
    .amax 64 22 13 57 1 3 2 1, .amax 0 64 13 57 1 3 2 1, .amax 0 22 16 57 1 3 2 1, .amax 0 22 13 64 1 3 2 1, .amax 0 22 13 57 8 3 2 1,
    .amax 0 22 13 57 1 8 2 1, .amax 0 22 13 57 1 3 4 1, .amax 0 22 13 57 1 3 2 2, .amax 0 22 13 57 2 3 2 1, .amax 0 22 13 57 1 5 2 1,
    .amax 9 22 13 57 1 3 2 1, .aminu 64 22 13 57 1 3 2 0, .aminu 43 64 13 57 1 3 2 0, .aminu 43 22 16 57 1 3 2 0,
    .aminu 43 22 13 64 1 3 2 0, .aminu 43 22 13 57 8 3 2 0, .aminu 43 22 13 57 1 8 2 0, .aminu 43 22 13 57 1 3 4 0,
    .aminu 43 22 13 57 1 3 2 2, .aminu 43 22 13 57 2 3 2 0, .aminu 43 22 13 57 1 5 2 0, .aminu 9 22 13 57 1 3 2 1,
    .amaxu 64 22 13 57 1 3 2 0, .amaxu 43 64 13 57 1 3 2 0, .amaxu 43 22 16 57 1 3 2 0, .amaxu 43 22 13 64 1 3 2 0,
    .amaxu 43 22 13 57 8 3 2 0, .amaxu 43 22 13 57 1 8 2 0, .amaxu 43 22 13 57 1 3 4 0, .amaxu 43 22 13 57 1 3 2 2,
    .amaxu 43 22 13 57 2 3 2 0, .amaxu 43 22 13 57 1 5 2 0, .amaxu 9 22 13 57 1 3 2 1, .axchg 64 22 13 57 1 3 2 0,
    .axchg 43 64 13 57 1 3 2 0, .axchg 43 22 16 57 1 3 2 0, .axchg 43 22 13 64 1 3 2 0, .axchg 43 22 13 57 8 3 2 0,
    .axchg 43 22 13 57 1 8 2 0, .axchg 43 22 13 57 1 3 4 0, .axchg 43 22 13 57 1 3 2 2, .axchg 43 22 13 57 2 3 2 0,
    .axchg 43 22 13 57 1 5 2 0, .axchg 9 22 13 57 1 3 2 1, .acas 64 22 13 57 1 3 2 1, .acas 43 64 13 57 1 3 2 1,
    .acas 43 22 16 57 1 3 2 1, .acas 43 22 13 64 1 3 2 1, .acas 43 22 13 57 8 3 2 1, .acas 43 22 13 57 1 8 2 1, .acas 43 22 13 57 1 3 4 1,
    .acas 43 22 13 57 1 3 2 2, .acas 43 22 13 57 2 3 2 1, .acas 43 22 13 57 1 5 2 1, .afadd 64 22 13 57 1 3 2 5 0,
    .afadd 43 64 13 57 1 3 2 5 0, .afadd 43 22 16 57 1 3 2 5 0, .afadd 43 22 13 64 1 3 2 5 0, .afadd 43 22 13 57 8 3 2 5 0,
    .afadd 43 22 13 57 1 8 2 5 0, .afadd 43 22 13 57 1 3 4 5 0, .afadd 43 22 13 57 1 3 2 8 0, .afadd 43 22 13 57 1 3 2 5 2,
    .afadd 43 22 13 57 2 3 2 5 0, .afadd 43 22 13 57 1 5 2 5 0, .afadd 9 22 13 57 1 3 2 5 1, .msign 64 9 21 5 1, .msign 33 16 21 5 1,
    .msign 33 9 32 5 1, .msign 33 9 21 8 1, .msign 33 9 21 5 2, .msign 39 9 21 5 1, .msign 33 9 21 7 1] = true := by decide +kernel

theorem test_refuses_group : refused [
    .gadd 64 22 19, .gadd 37 64 19, .gadd 37 22 64, .gadd 15 22 19, .gsub 64 22 19, .gsub 37 64 19, .gsub 37 22 64, .gsub 15 22 19,
    .gmul 64 22 19, .gmul 37 64 19, .gmul 37 22 64, .gmul 15 22 19, .gand 64 22 19, .gand 37 64 19, .gand 37 22 64, .gand 15 22 19,
    .gor 64 22 19, .gor 37 64 19, .gor 37 22 64, .gor 15 22 19, .gxor 64 22 19, .gxor 37 64 19, .gxor 37 22 64, .gxor 15 22 19,
    .gshl 64 22 19, .gshl 37 64 19, .gshl 37 22 64, .gshl 15 22 19, .gshr 64 22 19, .gshr 37 64 19, .gshr 37 22 64, .gshr 15 22 19,
    .gsar 64 22 19, .gsar 37 64 19, .gsar 37 22 64, .gsar 15 22 19, .gmin 64 22 19, .gmin 37 64 19, .gmin 37 22 64, .gmin 15 22 19,
    .gmax 64 22 19, .gmax 37 64 19, .gmax 37 22 64, .gmax 15 22 19, .gsel 64 22 19 51, .gsel 37 64 19 51, .gsel 37 22 64 51,
    .gsel 37 22 19 64, .gsel 15 22 19 51, .gaddi 64 22 5539, .gaddi 37 64 5539, .gaddi 37 22 8192, .gaddi 15 22 5539, .gmovi 64 435651,
    .gmovi 37 524288, .gmovi 15 435651, .glui 64 502733, .glui 37 524288, .glui 15 502733, .grdl 64 22 29, .grdl 37 64 29, .grdl 37 22 32,
    .grdl 15 22 29] = true := by decide +kernel

theorem test_refuses_control : refused [
    .br 8 1 1418691, .br 5 2 1418691, .br 5 1 2097152, .br 0 1 1418691, .brg 64 2 107971, .brg 44 4 107971, .brg 44 2 131072, .jmp 64,
    .call 2097152, .join 64, .join 0, .join 33, .spawn 16 5 45, .spawn 11 8 45, .spawn 11 5 64, .trap 65536, .eret 2] = true := by decide +kernel

theorem test_refuses_sync : refused [
    .bari 128 50 27, .bari 101 64 27, .bari 101 50 64, .bara 128, .barw 128 50, .barw 101 64, .bart 128 50, .bart 77 64, .syncm 64,
    .mlwait 64 101, .mlwait 22 128, .mlpass 64 101, .mlpass 22 128, .wait 64 22 13 6, .wait 41 64 13 6, .wait 41 22 16 6,
    .wait 41 22 13 16, .fence 8 11 2, .fence 4 16 2, .fence 4 11 4, .fence 5 11 2, .fence 4 0 2, .fence 4 11 0, .tfence 8, .tfence 5,
    .ifence 8, .ifence 5, .take 64, .take 15, .hput 64 6, .hput 22 8, .hget 64 6, .hget 53 8, .hget 15 6, .cpy 64 22 51 1 13 1 101,
    .cpy 37 64 51 1 13 1 101, .cpy 37 22 64 1 13 1 101, .cpy 37 22 51 2 13 1 101, .cpy 37 22 51 1 16 1 101, .cpy 37 22 51 1 13 4 101,
    .cpy 37 22 51 1 13 1 128, .cpy 37 22 51 1 13 2 101, .cpy 37 22 51 1 13 0 6, .cpyg 64 22 51 1 13 1 101, .cpyg 37 64 51 1 13 1 101,
    .cpyg 37 22 64 1 13 1 101, .cpyg 37 22 51 2 13 1 101, .cpyg 37 22 51 1 16 1 101, .cpyg 37 22 51 1 13 4 101, .cpyg 37 22 51 1 13 1 128,
    .cpyg 37 22 51 1 13 2 101, .cpyg 37 22 51 1 13 0 6] = true := by decide +kernel

theorem test_refuses_engines : refused [
    .cpyt 64 22 1 1 1 101 323 19, .cpyt 5 64 1 1 1 101 323 19, .cpyt 5 22 2 1 1 101 323 19, .cpyt 5 22 1 2 1 101 323 19,
    .cpyt 5 22 1 1 4 101 323 19, .cpyt 5 22 1 1 1 128 323 19, .cpyt 5 22 1 1 1 101 512 19, .cpyt 5 22 1 1 1 101 323 128,
    .cpyt 5 22 1 1 2 101 323 19, .cpyt 5 22 1 1 0 6 323 19, .cpyt 5 22 1 1 1 101 2 0, .cpyt 5 22 1 1 1 101 511 1,
    .cpyt 5 22 0 1 1 101 323 1, .resv 64 1 21 1 1 0 1 32, .resv 4 64 21 1 1 0 1 32, .resv 4 1 64 1 1 0 1 32, .resv 4 1 21 2 1 0 1 32,
    .resv 4 1 21 1 8 0 1 32, .resv 4 1 21 1 1 8 1 32, .resv 4 1 21 1 1 0 4 32, .resv 4 1 21 1 1 0 1 256, .resv 4 8 21 1 1 0 1 32,
    .resv 4 1 3 0 1 0 1 32, .resv 4 1 21 1 1 0 0 32, .relsUnit 64, .relsWaypoint 16, .mma 64 13 22 1 1 44 1 101 6,
    .mma 5 64 22 1 1 44 1 101 6, .mma 5 13 64 1 1 44 1 101 6, .mma 5 13 22 2 1 44 1 101 6, .mma 5 13 22 1 2 44 1 101 6,
    .mma 5 13 22 1 1 64 1 101 6, .mma 5 13 22 1 1 44 4 101 6, .mma 5 13 22 1 1 44 1 128 6, .mma 5 13 22 1 1 44 1 101 8,
    .mma 5 16 22 1 1 44 1 101 6, .mma 5 13 3 0 1 44 1 101 6, .mma 5 13 22 1 1 44 2 101 6, .mma 5 13 22 1 1 44 0 6 6,
    .mmab 64 14 22 1 1 44 1 101 6, .mmab 5 64 22 1 1 44 1 101 6, .mmab 5 14 64 1 1 44 1 101 6, .mmab 5 14 22 2 1 44 1 101 6,
    .mmab 5 14 22 1 2 44 1 101 6, .mmab 5 14 22 1 1 64 1 101 6, .mmab 5 14 22 1 1 44 4 101 6, .mmab 5 14 22 1 1 44 1 128 6,
    .mmab 5 14 22 1 1 44 1 101 8, .mmab 5 13 22 1 1 44 1 101 6, .mmab 5 16 22 1 1 44 1 101 6, .mmab 5 14 3 0 1 44 1 101 6,
    .mmab 5 14 22 1 1 44 2 101 6, .mmab 5 14 22 1 1 44 0 6 6, .mmaj 64 11 22 1 1 44 1 101 6, .mmaj 5 64 22 1 1 44 1 101 6,
    .mmaj 5 11 64 1 1 44 1 101 6, .mmaj 5 11 22 2 1 44 1 101 6, .mmaj 5 11 22 1 2 44 1 101 6, .mmaj 5 11 22 1 1 64 1 101 6,
    .mmaj 5 11 22 1 1 44 4 101 6, .mmaj 5 11 22 1 1 44 1 128 6, .mmaj 5 11 22 1 1 44 1 101 8, .mmaj 5 16 22 1 1 44 1 101 6,
    .mmaj 5 11 3 0 1 44 1 101 6, .mmaj 5 11 22 1 1 44 2 101 6, .mmaj 5 11 22 1 1 44 0 6 6, .tzero 64, .tld 64 22 5 14 6,
    .tld 37 64 5 14 6, .tld 37 22 64 14 6, .tld 37 22 5 16 6, .tld 37 22 5 14 8, .tld 50 22 5 14 6, .tst 64 22 5 14 6 1 101,
    .tst 37 64 5 14 6 1 101, .tst 37 22 64 14 6 1 101, .tst 37 22 5 16 6 1 101, .tst 37 22 5 14 8 1 101, .tst 37 22 5 14 6 4 101,
    .tst 37 22 5 14 6 1 128, .tst 50 22 5 14 6 1 101, .tst 37 22 5 14 6 2 101, .tst 37 22 5 14 6 0 6, .fmtw 64 6, .fmtw 22 8] = true := by decide +kernel

theorem test_refuses_system : refused [
    .fmtr 64 6, .fmtr 37 8, .fmtr 15 6, .srr 64 291, .srr 37 8192, .srr 37 9, .srr 37 304, .srr 37 4095, .srr 15 1, .srw 64 302,
    .srw 22 8192, .srw 22 33, .srw 22 304, .srw 22 0, .tclaim 256, .tclaim 0] = true := by decide +kernel

/-- Words that no instruction has: reserved majors, nonzero zero fields, reserved codes (14 R374, R376–R383). -/
theorem test_reserved_words : ([(0x6E000000, 0), (0x7FFFFFFF, 0), (0xF8000000, 0), (0xFFFFFFFF, 0), (0x00000005, 0), (0x2A0000C0, 0), (0xAC000001, 0),
    (0xA0200000, 0), (0x98000000, 0), (0x36000003, 0), (0x6A000000, 0xB0000000), (0x6A000000, 0x00000001), (0xD6000000, 0x02000000),
    (0xE2002000, 0), (0xE8000000, 1), (0xEC000008, 0), (0xDE000050, 0)] : List (Nat × Nat)).all
    (fun p => (decode p.1 p.2).isNone) = true := by decide +kernel

/-! ### One step on a small state -/

/-- A thread of crew 3 in a convoy: v1, v2 integers, v4 an index, v10 and v11 two binary32 elements. -/
def lane0 : Thread := { state := .inConvoy, crew := 3, q := 2, srseed := 1,
                        v := [(1, 0x8000000000000001), (2, 1), (10, 0x3F80000040000000), (11, 0x400000003FC00000)] }
def lane1 : Thread := { state := .inConvoy, crew := 3, q := 0, srseed := 1,
                        v := [(1, 0x00FF80FF7FFFFFFF), (2, 0x0001000100010001), (4, 2), (10, 0x3F80000040000000), (11, 0x400000003FC00000)] }
def lane31 : Thread := { state := .inConvoy, crew := 3, q := 2, srseed := 1,
                         v := [(1, 0xFFFFFFFFFFFFFFFF), (2, 3), (4, 5), (10, 0x3F80000040000000), (11, 0x400000003FC00000)] }

/-- F0 binary32, F1 bfloat16, F2 an 8-bit integer; k0 of 4-byte elements in stage memory at offset 16, k1 of 8-byte elements at address 4096. -/
def crew3 : Crew := { phase := .running, ctx := 2, run := 4, foot := .half,
                      f := [(0, 0xE1707F00), (1, 0xE0707F00), (2, 0xC0700000)],
                      k := [(0, BitVec.ofNat 128 (16 + 2^57 + 100 * 2^64 + 4 * 2^96 + 2 * 2^112)), (1, BitVec.ofNat 128 (4096 + 64 * 2^64 + 8 * 2^96 + 3 * 2^112))] }

/-- Convoy 5 of crew 3 in quad 0 of core 0: lanes 0, 1 and 31, row 0; context 2 of VD 0, run 4 with a trap handler at 0x4000. -/
def small : State :=
  { cur := 5, issue := [5], fresh := 40,
    threads := [(0, lane0), (16, lane1), (496, lane31)],
    convoys := [(5, { crew := 3, core := 0, quad := 0, members := [(0, 0), (1, 0), (31, 0)], pc := 0x1000,
                      g := [(16, 5), (17, 0xFFFFFFFFFFFFFFFF), (18, 0x40), (19, 0x1F)] })],
    crews := [(3, crew3)],
    runs := [(4, { live := true, ctx := 2, trap := 0x4000, spawn := [(1, 0x2000)], spx := 3, spy := 2 })],
    ctxs := [(2, { used := true, cap := 2^40, level := 2^30 })],
    cores := [(0, { slot0 := 3 })] }

/-- `f` is true of the next state. -/
def next (o : Host.Outcome State Fault Refusal) (f : State → Bool) : Bool := match o with | .next t => f t | _ => false

/-- Register r of lanes 0, 1, 31 after an instruction. -/
def v (i : Instr) (r : Nat) : List DWord := match exec i small with
  | .next t => [(t.thread 0).reg r, (t.thread 16).reg r, (t.thread 496).reg r] | _ => []

/-- g register r after an instruction. -/
def g (i : Instr) (r : Nat) : Option DWord := match exec i small with | .next t => some (t.g 5 r) | _ => none

/-! 16 R443, R444. -/
theorem test_iadd : v (.iadd 3 1 2 0 0) 3 = [0x8000000000000002, 0x000080007F00FF00, 0xFFFFFFFFFFFFFF02] := by decide +kernel
theorem test_isub : v (.isub 3 1 2 0 3) 3 = [0x8000000000000000, 0x00FE80FE7FFEFFFE, 0xFFFFFFFFFFFFFFFC] := by decide +kernel
theorem test_imul : v (.imul 3 1 2 0 2) 3 = [1, 0x81FE80FF7FFEFFFF, 0x00000000FFFFFFFD] := by decide +kernel
theorem test_imulh : v (.imulh 3 1 1 0 3) 3 = [0x3FFFFFFFFFFFFFFF, 0x0000FF023E017F00, 0] := by decide +kernel
theorem test_imulhu : v (.imulhu 3 1 2 0 3) 3 = [0, 0x000000FF81FF01FF, 2] := by decide +kernel
theorem test_imad_guarded : v (.imad 2 1 2 1 3) 2 = [0x8000000000000002, 0x0001000100010001, 0] := by decide +kernel
theorem test_imin : v (.imin 3 1 2 0 3) 3 = [0x8000000000000001, 0x0001000100010001, 0xFFFFFFFFFFFFFFFF] := by decide +kernel
theorem test_imax : v (.imax 3 1 2 0 3) 3 = [1, 0x00FF80FF7FFFFFFF, 3] := by decide +kernel
theorem test_iminu : v (.iminu 3 1 2 0 3) 3 = [1, 0x0001000100010001, 3] := by decide +kernel
theorem test_imaxu : v (.imaxu 3 1 2 0 3) 3 = [0x8000000000000001, 0x00FF80FF7FFFFFFF, 0xFFFFFFFFFFFFFFFF] := by decide +kernel
theorem test_iadds : v (.iadds 3 1 1 0 3) 3 = [0x8000000000000000, 0x01FF01FEFFFFFFFE, 0xFFFFFFFFFFFFFFFE] := by decide +kernel
theorem test_isubs : v (.isubs 3 1 2 0 0) 3 = [0x8000000000000000, 0x00FE80FE7FFEFFFE, 0xFFFFFFFFFFFFFFFC] := by decide +kernel
theorem test_iabs : v (.iabs 3 1 0 0) 3 = [0x8000000000000001, 0x000180017F010101, 0x0101010101010101] := by decide +kernel
/-! 15 R402; 16 R465; 17 R471, R481. -/
theorem test_and : v (.andl 3 1 2 0) 3 = [1, 0x0001000100010001, 3] := by decide +kernel
theorem test_or : v (.orl 3 1 2 0) 3 = [0x8000000000000001, 0x00FF80FF7FFFFFFF, 0xFFFFFFFFFFFFFFFF] := by decide +kernel
theorem test_xor : v (.xorl 3 1 2 0) 3 = [0x8000000000000000, 0x00FE80FE7FFEFFFE, 0xFFFFFFFFFFFFFFFC] := by decide +kernel
theorem test_andn : v (.andnl 3 1 2 0) 3 = [0x8000000000000000, 0x00FE80FE7FFEFFFE, 0xFFFFFFFFFFFFFFFC] := by decide +kernel
theorem test_shl : v (.shl 3 1 82 0 2) 3 = [0x8000000000000001, 0x00FF80FF7FFFFFFF, 0xFFFFFFFFFFFFFFFF] := by decide +kernel
theorem test_shr : v (.shr 3 1 2 0 3) 3 = [0x4000000000000000, 0x007FC07FBFFFFFFF, 0x1FFFFFFFFFFFFFFF] := by decide +kernel
theorem test_sar : v (.sar 3 1 2 0 3) 3 = [0xC000000000000000, 0x007FC07FBFFFFFFF, 0xFFFFFFFFFFFFFFFF] := by decide +kernel
theorem test_rol : v (.rol 3 1 2 0 3) 3 = [3, 0x01FF01FEFFFFFFFE, 0xFFFFFFFFFFFFFFFF] := by decide +kernel
theorem test_popc : v (.popc 3 1 0 2) 3 = [0x0000000100000001, 0x000000110000001F, 0x0000002000000020] := by decide +kernel
theorem test_clz : v (.clz 3 1 0 2) 3 = [0x000000000000001F, 0x0000000800000001, 0] := by decide +kernel
theorem test_brev : v (.brev 3 1 0 3) 3 = [0x8000000000000001, 0xFFFFFFFEFF01FF00, 0xFFFFFFFFFFFFFFFF] := by decide +kernel
theorem test_icmp_lt : v (.icmp 3 1 2 2 3) 3 = [0xFFFFFFFFFFFFFFFF, 0, 0xFFFFFFFFFFFFFFFF] := by decide +kernel
theorem test_icmp_ltu : v (.icmp 3 1 2 4 3) 3 = [0, 0, 0] := by decide +kernel
theorem test_sel : v (.sel 3 1 2 1) 3 = [0x8000000000000001, 0x0001000100010001, 0xFFFFFFFFFFFFFFFF] := by decide +kernel
theorem test_mov_group : v (.mov 3 80 1) 3 = [5, 0, 5] := by decide +kernel
theorem test_perm : v (.perm 3 1 2 0) 3 = [0x0101010101010101, 0x0101010101010101, 0x0303030303030303] := by decide +kernel
/-- The worked word of 14 R384: MOVI.32 v3, -5. -/
theorem test_movi : v (.movi 3 0xFFFB 2) 3 = [0xFFFFFFFBFFFFFFFB, 0xFFFFFFFBFFFFFFFB, 0xFFFFFFFBFFFFFFFB] := by decide +kernel
theorem test_movx_hi : v (.movx 2 1 0x1234) 2 = [0x0000123400000001, 0x0000123400010001, 0x0000123400000003] := by decide +kernel
theorem test_movx_los : v (.movx 2 2 0x80000000) 2 = [0xFFFFFFFF80000000, 0xFFFFFFFF80000000, 0xFFFFFFFF80000000] := by decide +kernel
theorem test_bfx_all : v (.bfx 3 1 0 0 0) 3 = [0x8000000000000001, 0x00FF80FF7FFFFFFF, 0xFFFFFFFFFFFFFFFF] := by decide +kernel
theorem test_bfi_all : v (.bfi 2 1 0 0) 2 = [0x8000000000000001, 0x00FF80FF7FFFFFFF, 0xFFFFFFFFFFFFFFFF] := by decide +kernel
/-! 15 R420–R434: elements 2.0, 1.0 and 1.5, 2.0 of binary32. -/
theorem test_fadd : (v (.fadd 3 10 11 0 0) 3)[0]? = some 0x4040000040600000 := by decide +kernel
theorem test_fsub : (v (.fsub 3 10 11 0 0) 3)[0]? = some 0xBF8000003F000000 := by decide +kernel
theorem test_fmul : (v (.fmul 3 10 11 0 0) 3)[0]? = some 0x4000000040400000 := by decide +kernel
theorem test_ffma : (v (.ffma 10 10 11 0 0) 10)[0]? = some 0x4040000040A00000 := by decide +kernel
theorem test_ffms : (v (.ffms 10 10 11 0 0) 10)[0]? = some 0x3F8000003F800000 := by decide +kernel
theorem test_fmin : (v (.fmin 3 10 11 0 0) 3)[0]? = some 0x3F8000003FC00000 := by decide +kernel
theorem test_fmax : (v (.fmax 3 10 11 0 0) 3)[0]? = some 0x4000000040000000 := by decide +kernel
theorem test_fcmp_lt : (v (.fcmp 3 10 11 2 0) 3)[0]? = some 0xFFFFFFFF00000000 := by decide +kernel
theorem test_cvti : (v (.cvti 3 10 0 0 0 2) 3)[0]? = some 0x0000000100000002 := by decide +kernel
theorem test_cvt_narrow : (v (.cvt 3 10 0 0 0 1) 3)[0]? = some 0x40003FC03F804000 := by decide +kernel
theorem test_cvtf : (v (.cvtf 3 2 2 0 0 0) 3)[2]? = some 0x0000000040400000 := by decide +kernel
theorem test_fdot_bfloat16 : (v (.fdot 3 10 11 1 0) 3)[0]? = some 0x4000000040400000 := by decide +kernel
/-! 02 R67–R69; 17 R474–R484, R501. -/
theorem test_shfl : v (.shfl 3 4 2 0 3) 3 = [1, 0, 0] := by decide +kernel
theorem test_vote_mask : (v (.vote 3 83 1 3) 3)[0]? = some 0x0000001C00000001 := by decide +kernel
theorem test_scan : v (.scan 3 2 0 0 3) 3 = [1, 0x0001000100010002, 0x0001000100010005] := by decide +kernel
theorem test_scan_exclusive : v (.scan 3 2 1 0 3) 3 = [0, 1, 0x0001000100010002] := by decide +kernel
theorem test_red_max : v (.red 3 1 2 3) 3 = [0x00FF80FF7FFFFFFF, 0x00FF80FF7FFFFFFF, 0x00FF80FF7FFFFFFF] := by decide +kernel
theorem test_qop_not : next (exec (.qop 2 1 0 0 4) small)
    (fun t => !(t.thread 0).pred 2 && (t.thread 16).pred 2 && !(t.thread 496).pred 2) = true := by decide +kernel
theorem test_movq : v (.movqToVector 3 1 0) 3 = [1, 0, 1] := by decide +kernel
/-! 16 R437–R439; 03 R88. -/
theorem test_gadd_wraps : g (.gadd 20 17 16) 20 = some 4 := by decide +kernel
/-- GADD g15, g17, g16 is no instruction (14 R381). -/
theorem test_gadd_read_only : decodeTableWord 32 (2^31 + 15 * 2^19 + 17 * 2^13 + 16 * 2^7) = none := by decide +kernel
theorem test_gsar : g (.gsar 20 17 16) 20 = some 0xFFFFFFFFFFFFFFFF := by decide +kernel
theorem test_gshl_count : g (.gshl 20 16 18) 20 = some 5 := by decide +kernel
theorem test_gmin : g (.gmin 20 16 17) 20 = some 0xFFFFFFFFFFFFFFFF := by decide +kernel
theorem test_gaddi : g (.gaddi 17 16 0x1FFF) 17 = some 4 := by decide +kernel
theorem test_glui : g (.glui 16 3) 16 = some 0x280003 := by decide +kernel
theorem test_grdl : g (.grdl 20 2 31) 20 = some 3 := by decide +kernel
theorem test_grdl_absent : g (.grdl 16 2 5) 16 = some 0 := by decide +kernel
theorem test_fmtr : g (.fmtr 20 1) 20 = some 0xE0707F00 := by decide +kernel
theorem test_srr_pc : g (.srr 20 0x10) 20 = some 0x1000 := by decide +kernel
theorem test_srr_lane : v (.srr 3 0) 3 = [0, 1, 31] := by decide +kernel

/-! Control flow (15 R411, 02 R46, R47, R65): q1 is true in lanes 0 and 31; the larger group stays. -/
theorem test_br_diverges : next (exec (.br 1 0 0x10) small)
    (fun t => (t.convoy 5).pc == 0x1040 && (t.convoy 5).members == [(0, 0), (31, 0)] && (t.thread 16).state == .spilled
      && (t.thread 16).pc == 0x1004) = true := by decide +kernel
theorem test_brg_taken : next (exec (.brg 17 2 0x1FFF8) small) (fun t => (t.convoy 5).pc == 0xFE0) = true := by decide +kernel
theorem test_call : next (exec (.call 4) small)
    (fun t => (t.convoy 5).pc == 0x1010 && (t.thread 16).reg 63 == 0x1004) = true := by decide +kernel
theorem test_exit : next (exec .exit small)
    (fun t => (t.convoy 5).members == [] && (t.thread 496).state == .exiting) = true := by decide +kernel
/-- TRAP 7 (10 R284): TRCAUSE holds grade D, cause 0x090 and the code. -/
theorem test_trap : next (exec (.trap 7) small)
    (fun t => (t.thread 16).trcause == 0x00070C90 && (t.thread 16).trpc == 0x1000 && (t.thread 16).trlane == 1
      && (t.thread 16).pc == 0x4000 && (t.thread 16).inTrap && (t.convoy 5).members == []) = true := by decide +kernel
/-- The second fault of a thread stops the context (10 R285, R288). -/
theorem test_trap_in_handler : next (exec .brk { small with threads := [(0, { lane0 with inTrap := true, trcause := 0x00000C12 }), (16, lane1), (496, lane31)] })
    (fun t => (t.ctx 2).stop == some 0xCA0 && t.issue == []) = true := by decide +kernel
/-- SRW of a firmware number (03 R94): PRIVILEGE. -/
theorem test_privilege : next (exec (.srw 16 0x1000) small) (fun t => (t.thread 0).trcause == 0xC03) = true := by decide +kernel
/-- An entry that is empty (04 R107). -/
theorem test_format_empty : next (exec (.fadd 3 10 11 0 7) small) (fun t => (t.thread 0).trcause == 0xC30) = true := by decide +kernel

/-! Stage memory (06 R153, 17 R489): k0 holds 4-byte elements from offset 16; lane 1 has index 2, lane 31 index 5. -/
theorem test_st_stage : next (exec (.st 1 4 0 0 2) small)
    (fun t => Tab.getRun 0 t.stage 16 4 == [1, 0, 0, 0] && Tab.getRun 0 t.stage 24 4 == [0xFF, 0xFF, 0xFF, 0x7F]
      && Tab.getRun 0 t.stage 36 4 == [0xFF, 0xFF, 0xFF, 0xFF] && (t.thread 16).ocs == 1) = true := by decide +kernel
theorem test_ld_counts : next (exec (.ld 6 4 0 0 2) small)
    (fun t => (t.thread 496).ocl == 1 && t.flight.loads.length == 3 && (t.convoy 5).pc == 0x1004) = true := by decide +kernel
/-- The element past EXTENT (03 R92): a trap, with nothing loaded. -/
theorem test_ld_out_of_range : next (exec (.ld 6 1 0 0 2) small)
    (fun t => (t.thread 0).trcause == 0xC10 && (t.thread 0).ocl == 0) = true := by decide +kernel

/-! Barriers (15 R403–R405), milestones, the pool of the ring, charges. -/
theorem test_bari_bara : next (exec (.bari 0 16 0) small)
    (fun t => (bar t 5 0).expect == 5 && (bar t 5 0).armed && next (exec (.bara 0) t) (fun u => (bar u 5 0).arrived == 3)) = true := by decide +kernel
/-- An issue of toll class 0 by three members weighs 11 (09 R241). -/
theorem test_charge : next (exec (.iadd 3 1 2 0 3) small) (fun t => (t.acct 2).est == 11 && (t.acct 2).acct == 11) = true := by decide +kernel
/-- Cycle 0 of a ring leaves the pool at stop 0, cycle 1 moves it to stop 1 (08 R215, R216). -/
theorem test_ring_cycle : next (exec (.ringCycle 1) State.reset)
    (fun t => (t.island 1).bins == [96, 0, 0, 0, 0, 0, 0, 0, 0, 0] && (t.island 1).cycle == 0 && next (exec (.ringCycle 1) t) (fun u =>
      (u.island 1).bins == [0, 96, 0, 0, 0, 0, 0, 0, 0, 0] && (u.island 1).cycle == 1)) = true := by decide +kernel

/-- The example of 08 R232: at a pool of 96, with 20 tokens held by another convoy, TCLAIM 40 is granted 28. -/
theorem test_tclaim : next (exec (.tclaimComplete 5) { small with
      convoys := [(5, { crew := 3, members := [(0, 0)], hold := .on (.tclaim 40) }), (6, { crew := 3, members := [(1, 0)], tolls := 20, free := 20 })],
      islands := [(0, { coll := [28, 0, 0, 0, 0, 0, 0, 0, 0, 0] })] })
    (fun t => (t.convoy 5).tolls == 28 && (t.convoy 5).hold == .none) = true := by decide +kernel
/-- The example of 09 R245. -/
theorem test_correct : next (exec (.correct 40 4400000) { small with
      ctxs := [(2, { used := true }), (6, { used := true })], accts := [(2, { acct := 3000000 }), (6, { acct := 1000000 })],
      doms := [(40, { count := 65535, e := 4000000, part := [(2, 3000000), (6, 1000000)] })] })
    (fun t => (t.dom 40).cf == 0x119A && (t.acct 2).acct == 3300000 && (t.acct 6).acct == 1100000 && (t.ctx 2).level == -300000) = true := by decide +kernel
/-- The example of 09 R264. -/
theorem test_rack_allocation : allocate 7200 [{ pkg := 0, d := 3000, w := 1 }, { pkg := 1, d := 1500, w := 1 }, { pkg := 2, d := 3000, w := 2 }]
    = [(0, 2700), (1, 1500), (2, 3000)] := by decide +kernel
/-- The example of 11 R317, from cycle 341: POST is 8 and bank 4 is free at 445, where the forced REFab issues. -/
theorem test_forced_refresh : next (exec (.refabIssue 9 445) { small with hbm := [(9, { post := 8, lastDue := 391, rose := 391, active := [(4 * 256, 445)], bankFree := [(4, 445)] })] })
    (fun t => (t.pchan 9).post == 0 && (t.pchan 9).forced == 1 && (t.pchan 9).refab == some 935) = true := by decide +kernel

/-! Firmware processors (13 R354, R355): XBFEXT takes l + 1 bits from bit p. -/
theorem test_xbfext : next (exec (.xbfext 7 8 11 10) { ({} : State) with cur := 1000000, fw := [(0, { x := [(11, 0x12345678)] })] })
    (fun t => (t.proc 0).reg 10 == 0x56 && (t.proc 0).pc == 4) = true := by decide +kernel
theorem test_xswait_forbidden : next (exec (.xswait 0 11 10) { ({} : State) with cur := 1000000, fw := [(0, { x := [(11, 0x8000000000000000)], mtvec := 0x103 })] })
    (fun t => (t.proc 0).mcause == 27 && (t.proc 0).pc == 0x100) = true := by decide +kernel

/-- step runs the instruction at the convoy's PC, as withFetchWord places it. -/
theorem test_step_runs : next (step (State.reset.withFetchWord 32 0x341FFFDA)) (fun t => (t.thread 0).reg 3 == 0xFFFFFFFBFFFFFFFB) = true := by
  decide +kernel

/-! ### States and operands that meet the hypotheses of the statements -/

/-- Variants of `small`: its convoy, its crew, its run, its threads or core 0 changed. -/
def convoyOf (f : Convoy → Convoy) (s : State) : State := s.setConvoy 5 (f (s.convoy 5))
def crewOf (f : Crew → Crew) (s : State) : State := s.setCrew 3 (f (s.crew 3))
def runOf (f : Run → Run) (s : State) : State := s.setRun 4 (f (s.run 4))
def coreOf (f : Core → Core) (s : State) : State := s.setCore 0 (f (s.core 0))
def threadsOf (f : Thread → Thread) (s : State) : State := s.setThreads [0, 16, 496] fun x => f (s.thread x)
def held (h : Hold) : State := convoyOf (fun c => { c with hold := h }) small

/-- v5 the same in every member. -/
def jumping (a : DWord) : State := threadsOf (fun t => t.setReg 5 a) small

/-- The 64 entries of the quad's layby table are in use. -/
def crowded : State := { small with laybys := (List.range 64).map fun n => { crew := 3, core := 0, quad := 0, addr := 0x10000 + 4 * n } }

/-- No pool, a rounding code that is reserved, a DET run, a run with no handler, members in the handler at 0x1000. -/
def dry : State := small.setIsland 0 { small.island 0 with pools := [(12, 1)] }
def badRounding : State := crewOf (fun c => { c with rsm := 6 }) small
def detRun : State := runOf (fun r => { r with det := true }) small
def noHandler : State := runOf (fun r => { r with trap := 0 }) small
def handling : State := threadsOf (fun t => { t with inTrap := true, trpc := 0x1000 }) small

theorem clear_of_none (s : State) (h : (s.convoy s.cur).hold = .none) : Clear s := by
  intro ks a e; rw [h] at e; exact Hold.noConfusion e

theorem witness_IntegerElements : (intOp (.icmp 63 63 127 5 4)).isSome ∧ Issues small 0 := by decide +kernel

theorem witness_RegisterBits : (regOp (.perm 63 63 127 7)).isSome ∧ Issues small 1 := by decide +kernel

theorem witness_LaneFrame : ∃ p, laneForm (.fadd 3 10 11 0 0) = some p ∧ Issues small p.toll ∧ p.ok small :=
  ⟨_, rfl, by decide +kernel, by show Valid small 0 ∧ Rounds small 0; decide +kernel⟩

theorem witness_FloatElements : (floatOp (.ffma 3 10 11 0 1)).isSome ∧ Issues small 2 ∧ Valid small 1 ∧ Rounds small 1 := by decide +kernel

theorem witness_FloatTests : (6 ≤ 6 ∧ Issues small 1 ∧ Valid small 0) ∧ 1 < count ((crew small).fmt 0).width ∧
    Issues small 2 ∧ Rounds small 0 := by decide +kernel

theorem witness_Conversions : (∃ p, conversion small (.cvt 3 62 0 0 0 1) = some p ∧ p.ok ∧ Rounds small p.n ∧
      Span p.a p.p p.dst.width p.src.width ∧ Issues small 1) ∧
    Issues small 2 ∧ Valid small 0 ∧ Valid small 1 ∧ Rounds small 0 ∧ DotWidths ((crew small).fmt 1).width ((crew small).fmt 0).width :=
  ⟨⟨_, rfl, by show Valid small 0 ∧ Valid small 1; decide +kernel, by decide +kernel, by decide +kernel, by decide +kernel⟩, by decide +kernel⟩

theorem witness_ShuffleAndVote : Issues small 1 ∧ WholeIfDet small := by decide +kernel

theorem witness_ScanAndReduce : ∃ p, scanOpOf small (.scanFadd 3 10 0 1) = some p ∧ p.ok ∧ Issues small 1 ∧ WholeIfDet small :=
  ⟨_, rfl, by show Valid small 0 ∧ Rounds small 0; decide +kernel, by decide +kernel, by decide +kernel⟩

/-- F0 of 6-bit and of 12-bit integers. -/
def sixBits : State := crewOf (fun c => { c with f := [(0, 0xC0500000)] }) small
def twelveBits : State := crewOf (fun c => { c with f := [(0, 0xC0B00000)] }) small

theorem witness_RegisterFiles_elements : (∃ p, laneForm (.fadd 3 10 11 0 0) = some p ∧ entryWritten (.fadd 3 10 11 0 0) = some 0 ∧ p.d = some 3 ∧
      Issues sixBits p.toll ∧ p.ok sixBits) ∧ ((crew sixBits).fmt 0).width = 6 ∧
    (∃ p, laneForm (.fadd 3 10 11 0 0) = some p ∧ Issues twelveBits p.toll ∧ p.ok twelveBits) ∧ ((crew twelveBits).fmt 0).width = 12 :=
  ⟨⟨_, rfl, rfl, rfl, by decide +kernel, by show Valid sixBits 0 ∧ Rounds sixBits 0; decide +kernel⟩, by decide +kernel,
   ⟨_, rfl, by decide +kernel, by show Valid twelveBits 0 ∧ Rounds twelveBits 0; decide +kernel⟩, by decide +kernel⟩

theorem witness_RegisterFiles : (7 < 8 ∧ 6 ≤ 6 ∧ Issues small 0) ∧
    (scalarOp small (.gadd 63 17 16)).isSome ∧ 16 ≤ 63 ∧ (groupMajor 0x37 = true ∧ 15 < 16 ∧ 63 < 64 ∧ 8191 < 8192) ∧ WholeIfDet small ∧
    legalEntry (((small.g small.cur 16).setWidth 32) &&& 0xFFFFFFF0) = true ∧
    Handles small ∧ legalEntry (((small.g small.cur 18).setWidth 32) &&& 0xFFFFFFF0) = false := by decide +kernel

/-- Lanes 0 and 31 go to 0x1040, lane 1 to 0x1004. -/
theorem largest_small : ∃ f, nextAddress small (.br 1 0 0x10) = some f ∧ Largest small f [0x1040] ∧
    (∀ x ∈ (members small).map f, x = 0x1040 ∨ x = 0x1004) := by
  refine ⟨_, rfl, ⟨by decide, fun a => ⟨fun h => ?_, fun h => ?_⟩⟩, by decide +kernel⟩
  · rw [List.mem_singleton.mp h]; decide +kernel
  · obtain ⟨⟨x, hx, rfl⟩, h⟩ := h
    revert h; revert x; decide +kernel

theorem witness_Branches_agree : (∃ f, nextAddress small (.call 4) = some f ∧ Issues small 0 ∧ Clear small ∧
      (∀ x ∈ members small, f x = 0x1010) ∧ (fromRegister (.call 4) = true → Usable 0x1010)) ∧
    (∃ f, nextAddress (jumping 0x1FFFFFFFFFFFFFC) (.jmp 5) = some f ∧ Issues (jumping 0x1FFFFFFFFFFFFFC) 0 ∧ Clear (jumping 0x1FFFFFFFFFFFFFC) ∧
      (∀ x ∈ members (jumping 0x1FFFFFFFFFFFFFC), f x = 0x1FFFFFFFFFFFFFC) ∧ Usable 0x1FFFFFFFFFFFFFC) :=
  ⟨⟨_, rfl, by decide +kernel, clear_of_none _ rfl, by decide +kernel, by decide⟩,
   ⟨_, rfl, by decide +kernel, clear_of_none _ (by decide +kernel), by decide +kernel, by decide⟩⟩

theorem witness_Branches_part : ∃ f, nextAddress small (.br 1 0 0x10) = some f ∧ Issues small 0 ∧ Clear small ∧
    (fromRegister (.br 1 0 0x10) = true → ∀ x ∈ members small, Usable (f x)) ∧ Largest small f [0x1040] ∧
    [0x1040][tie small % [0x1040].length]? = some 0x1040 ∧ Fits small (((members small).map f).filter (· != 0x1040)) := by
  obtain ⟨f, h, l, m⟩ := largest_small
  refine ⟨f, h, by decide +kernel, clear_of_none _ rfl, fun e => Bool.noConfusion e, l, by simp [Nat.mod_one], ?_⟩
  cases Option.some.inj h; decide +kernel

theorem witness_Branches_wait : ∃ f, nextAddress crowded (.br 1 0 0x10) = some f ∧ Issues crowded 0 ∧ Clear crowded ∧
    Largest crowded f [0x1040] ∧ [0x1040][tie crowded % [0x1040].length]? = some 0x1040 ∧
    ¬Fits crowded (((members crowded).map f).filter (· != 0x1040)) := by
  obtain ⟨f, h, l, m⟩ := largest_small
  refine ⟨f, h, by decide +kernel, clear_of_none _ rfl, l, by simp [Nat.mod_one], ?_⟩
  cases Option.some.inj h; decide +kernel

theorem witness_SoftwareTraps : (softwareTrap (.trap 65535) = some (0x090, 65535) ∧ Issues small 0 ∧ Handles small) ∧
    (Issues noHandler 0 ∧ (members noHandler).find? (fun y => (noHandler.thread y).inTrap || (run noHandler).trap == 0) = some 0 ∧
      (noHandler.ctx (ctx noHandler)).stop = none ∧ noHandler.host.kept = []) ∧
    Issues handling 0 ∧ (members handling).find? (fun y => (handling.thread y).inTrap || (run handling).trap == 0) = some 0 ∧
      (handling.ctx (ctx handling)).stop = none := by decide +kernel

theorem witness_InstructionFaults : (∃ p, laneForm (.perm 3 1 2 0) = some p ∧ p.ok dry ∧ members dry ≠ [] ∧ Handles dry ∧
      (dry.convoy dry.cur).checked = false ∧ (dry.island ((dry.convoy dry.cur).core / 2)).pool < p.toll) ∧
    (Issues small 1 ∧ Handles small ∧ ¬Valid small 7) ∧ (Issues badRounding 1 ∧ Handles badRounding ∧ Valid badRounding 0 ∧ ¬Rounds badRounding 0) ∧
    (Issues detRun 1 ∧ Handles detRun ∧ ¬WholeIfDet detRun) ∧
    (Issues (jumping 2) 0 ∧ Handles (jumping 2) ∧ ∀ x ∈ members (jumping 2), (((jumping 2).thread x).reg 5).toNat % 4 ≠ 0) ∧
    (Issues (jumping (2^57)) 0 ∧ Handles (jumping (2^57)) ∧
      ∀ x ∈ members (jumping (2^57)), (((jumping (2^57)).thread x).reg 5).toNat % 4 = 0 ∧ 2^57 ≤ (((jumping (2^57)).thread x).reg 5).toNat) :=
  ⟨⟨_, rfl, trivial, by decide +kernel⟩, by decide +kernel⟩

theorem witness_ReturnFromTrap : (Issues handling 0 ∧ (∀ y ∈ members handling, (handling.thread y).inTrap = true ∧ Usable (returnTo (handling.thread y) true)) ∧
      Fits handling ((members handling).map fun y => returnTo (handling.thread y) true)) ∧ Issues small 0 ∧ Handles small := by decide +kernel

/-! Witnesses for instructions that may be held: convoy 5 issues in `small`, and is held in the instruction in `held`. -/

theorem witness_JoinAndExit : Issues small 0 ∧ (run small).det = false ∧ 3 ≤ (members small).length ∧ ¬4 ≤ (members small).length ∧
    Fits small [0x1004] ∧ Issues detRun 0 ∧ (run detRun).det = true ∧ (detRun.convoy 5).whole = false ∧ Fits detRun [0x1004] := by decide +kernel

theorem witness_CrewCoordination_spawn : ∀ s ∈ [small, held (.on (.spawn 1 1 2))],
    (s.cur = 5 ∧ Issues s 0 ∨ (s.convoy 5).hold = .on (.spawn 1 1 2)) ∧ Tab.get 0 (run (at_ 5 s)).spawn 1 ≠ 0 ∧
    selected s 5 1 = [(0, 0), (31, 0)] ∧ ([(0, 0), (31, 0)].map fun m : Nat × Nat => tkey 0 0 m.1 1).Nodup ∧
    (∀ m ∈ [(0, 0), (31, 0)], (s.thread (tkey 0 0 m.1 m.2)).ocl = 0 ∧ (s.thread (tkey 0 0 m.1 m.2)).ocs = 0 ∧
      freeRow s (crewAt s 5) 0 0 m.1 = some 1) ∧
    freeCohort s 3 = some 1 ∧ Fits (at_ 5 s) [0x2000] := by decide +kernel

/-- Loads are open; every row of lane 0 is taken; the members that SPAWN 1, q2 selects: none. -/
def loading : State := threadsOf (fun t => { t with ocl := 1 }) small
def rowless : State := { small with threads := small.threads ++ (List.range 15).map fun r => (r + 1, { lane0 with crew := 9 }) }

theorem witness_CrewCoordination_spawnHolds :
    (∀ s ∈ [small, held (.on (.spawn 1 2 2))], (s.cur = 5 ∧ Issues s 0 ∨ (s.convoy 5).hold = .on (.spawn 1 2 2)) ∧
      Tab.get 0 (run (at_ 5 s)).spawn 1 ≠ 0 ∧ selected s 5 2 = []) ∧
    (Issues loading 0 ∧ ∃ m ∈ selected loading 5 1, (loading.thread (tkey 0 0 m.1 m.2)).ocl ≠ 0) ∧
    (Issues rowless 0 ∧ ∃ m ∈ selected rowless 5 1, freeRow rowless (crewAt rowless 5) 0 0 m.1 = none) ∧
    Issues crowded 0 ∧ selected crowded 5 1 ≠ [] ∧ ¬Fits (at_ 5 crowded) [0x2000] := by decide +kernel

/-- Mask register: lanes 0, 1 and 31. -/
def masked : State := small.setG 5 21 0x80000003

theorem witness_CohortSync : Issues masked 0 ∧ ∀ x ∈ members masked,
    ((masked.g 5 21).toNat % 2^32).testBit (x / 16 % 32) = true ∧
      ((Tab.get {} (masked.crew 3).syncs (masked.thread x).cohort : SyncRec).parked = []) := by decide +kernel

theorem witness_ConvoyHousekeeping : Issues small 0 ∧ (small.island 0).debt = 0 ∧ (small.island 0).claims = [] ∧
    (let s := convoyOf (fun c => { c with tolls := 48, free := 40 }) small; Issues s 0 ∧ grant s s.cur 48 ≤ Claims.held s s.cur) ∧
    (let s := convoyOf (fun c => { c with tolls := 48, free := 40 }) small; grant s s.cur 47 ≤ Claims.held s s.cur ∧ (s.convoy s.cur).tolls ≠ grant s s.cur 47) ∧
    Claims.held small small.cur < grant small small.cur 4096 := by decide +kernel

/-- Barrier 63 armed for three arrivals with 5 bytes to come; a released BARW; a completed barrier. -/
def barred : State := crewOf (fun c => { c with bars := [(63, { armed := true, expect := 3, tx := 5 })] }) small
def barreled (h : Hold) : State := convoyOf (fun c => { c with hold := h }) barred

theorem witness_Barriers : (Issues small 0 ∧ BarrierOf small 5 63 ∧ (bar small 5 63).ovf = false ∧ (small.g 5 16).toNat = 5 ∧
      Int32 (small.g 5 17).toInt ∧ (bar small 5 63).armed = false) ∧
    (Issues barred 0 ∧ BarrierOf barred 5 63 ∧ (bar barred 5 63).armed = true ∧ (bar barred 5 63).ovf = false ∧ Int32 (barred.g 5 17).toInt ∧
      Int32 ((bar barred 5 63).tx + (barred.g 5 17).toInt)) ∧
    (∀ s ∈ [barred, barreled (.on (.bara 63))], (s.cur = 5 ∧ Issues s 0 ∨ (s.convoy 5).hold = .on (.bara 63)) ∧ BarrierOf s 5 63 ∧
      Quiet s 5 true true false false ∧ (crewAt s 5).foot ≠ .cluster ∧ (bar s 5 63).ovf = false ∧ (bar s 5 63).armed = true ∧
      (bar s 5 63).arrived + (s.convoy 5).members.length ≤ (bar s 5 63).expect) ∧
    (∀ s ∈ [barred, barreled (.on (.barw 63 16))], (s.cur = 5 ∧ Issues s 0 ∨ (s.convoy 5).hold = .on (.barw 63 16)) ∧ BarrierOf s 5 63 ∧
      Quiet s 5 true true false false ∧ (bar s 5 63).phase ≠ (s.g 5 16).getLsbD 0) ∧
    ((barreled (.barwDone (.barw 63 16))).convoy 5).hold = .barwDone (.barw 63 16) := by decide +kernel

theorem witness_Milestones : (Issues small 0 ∧ Quiet small 5 true true false false ∧ Drained small 5) ∧
    ((runOf (fun r => { r with passes := [(3, 9)] }) small).run 4).passes = [(3, 9)] ∧
    ∀ s ∈ [runOf (fun r => { r with miles := [(3, 5)] }) small, runOf (fun r => { r with miles := [(3, 5)] }) (held (.on (.mlwait 16 3)))],
      (s.cur = 5 ∧ Issues s 0 ∨ (s.convoy 5).hold = .on (.mlwait 16 3)) ∧ Quiet s 5 true true false false ∧
      (s.g 5 16).toNat ≤ (Tab.get 0 (s.run (crewAt s 5).run).miles 3).toNat := by decide +kernel

theorem witness_WaitAndFences_member : (∀ s ∈ [small, held (.on (.wait 0 0 0 0))], (s.cur = 5 ∧ Issues s 0 ∨ (s.convoy 5).hold = .on (.wait 0 0 0 0)) ∧
      ∀ x ∈ (s.convoy 5).keys, (s.thread x).ocl ≤ 0 ∧ (s.thread x).ocs ≤ 0 ∧ (s.thread x).occ ≤ 0 ∧ (s.thread x).oct ≤ 0) ∧
    (∀ s ∈ [small, held (.on (.fence 2 15 2))], (s.cur = 5 ∧ Issues s 0 ∨ (s.convoy 5).hold = .on (.fence 2 15 2)) ∧
      Quiet s 5 ((15).testBit 0) ((15).testBit 1) ((15).testBit 2) ((15).testBit 3) ∧ Drained s 5) := by decide +kernel

theorem witness_WaitAndFences_paths : (∀ s ∈ [small, held (.on (.tfence 2))], (s.cur = 5 ∧ Issues s 0 ∨ (s.convoy 5).hold = .on (.tfence 2)) ∧
      Quiet s 5 false true false false ∧ inFlight s 2 0 2 (began s 5) = false) ∧
    (∀ s ∈ [small, held (.on (.ifence 2))], (s.cur = 5 ∧ Issues s 0 ∨ (s.convoy 5).hold = .on (.ifence 2)) ∧
      Quiet s 5 false true false false) := by decide +kernel

theorem witness_Signpost : Issues small 0 ∧ 16 ≤ 63 ∧ ((held (.on (.take 63))).convoy 5).hold = .on (.take 63) ∧
    (let s := runOf (fun r => { r with serp := true, band := 2, next := 5 }) (held (.on (.take 63)))
     (s.convoy 5).hold = .on (.take 63) ∧ (s.run 4).serp = true ∧ 1 ≤ (s.run 4).band ∧ (s.run 4).next < (s.run 4).spx * (s.run 4).spy) ∧
    (let s := runOf (fun r => { r with next := 6 }) (held (.on (.take 63)))
     (s.convoy 5).hold = .on (.take 63) ∧ (s.run 4).serp = false ∧ (s.run 4).spx * (s.run 4).spy ≤ (s.run 4).next) := by decide +kernel

/-- Handoff queue 1 with 63 entries, and with one entry and its head at the last place. -/
def nearlyFull (s : State) : State := crewOf (fun c => { c with hq := [(1, { head := 40, count := 63, waitPut := [5] })] }) s
def oneEntry (s : State) : State := crewOf (fun c => { c with hq := [(1, { head := 63, count := 1 })] }) s

theorem witness_CrewCoordination_queues :
    (∀ s ∈ [nearlyFull small, nearlyFull (held (.on (.hput 16 1)))], (s.cur = 5 ∧ Issues s 0 ∨ (s.convoy 5).hold = .on (.hput 16 1)) ∧
      (Tab.get {} (crewAt s 5).hq 1 : Handoff).count < 64 ∧ (Tab.get {} (crewAt s 5).hq 1 : Handoff).waitPut.head? = some 5 ∧ Quiet s 5 true true false false) ∧
    (∀ s ∈ [oneEntry small, oneEntry (held (.on (.hget 63 1)))], (s.cur = 5 ∧ Issues s 0 ∨ (s.convoy 5).hold = .on (.hget 63 1)) ∧
      0 < (Tab.get {} (crewAt s 5).hq 1 : Handoff).count ∧ (Tab.get {} (crewAt s 5).hq 1 : Handoff).waitGet = [] ∧ Quiet s 5 true true false false) := by decide +kernel

/-- Handoff queue 1 full, empty, and with another convoy before convoy 5. -/
def queueing (q : Handoff) (s : State) : State := crewOf (fun c => { c with hq := [(1, q)] }) s

theorem witness_CrewCoordination_queueHolds :
    (∀ s ∈ [queueing { count := 64 } small, queueing { count := 1, waitPut := [6, 5] } (held (.on (.hput 16 1)))],
      (s.cur = 5 ∧ Issues s 0 ∨ (s.convoy 5).hold = .on (.hput 16 1)) ∧ Quiet s 5 true true false false ∧
      (64 ≤ (Tab.get {} (crewAt s 5).hq 1 : Handoff).count ∨ (Tab.get {} (crewAt s 5).hq 1 : Handoff).waitPut ≠ [] ∧
        (Tab.get {} (crewAt s 5).hq 1 : Handoff).waitPut.head? ≠ some 5)) ∧
    (∀ s ∈ [queueing {} small, queueing { count := 1, waitGet := [6] } (held (.on (.hget 16 1)))],
      (s.cur = 5 ∧ Issues s 0 ∨ (s.convoy 5).hold = .on (.hget 16 1)) ∧ Quiet s 5 true true false false ∧
      ((Tab.get {} (crewAt s 5).hq 1 : Handoff).count = 0 ∨ (Tab.get {} (crewAt s 5).hq 1 : Handoff).waitGet ≠ [] ∧
        (Tab.get {} (crewAt s 5).hq 1 : Handoff).waitGet.head? ≠ some 5)) ∧
    Issues loading 0 ∧ ¬Quiet loading 5 true true false false := by decide +kernel

/-- Barrier 63 with its overflow flag, and armed for fewer arrivals than the convoy has members. -/
def overflown : State := crewOf (fun c => { c with bars := [(63, { armed := true, expect := 3, ovf := true })] }) small
def narrow : State := crewOf (fun c => { c with bars := [(63, { armed := true, expect := 2, arrived := 1 })] }) small

theorem witness_CrewCoordination_overflow :
    (∀ s ∈ [small, barred, overflown, narrow], Issues s 0 ∧ Handles s ∧ BarrierOf s s.cur 63) ∧
    ((bar small 5 63).ovf = false ∧ (small.g 5 19).toNat = 31 ∧ 4096 < (small.g 5 17).toNat ∧ (small.g 5 0).toNat < 1) ∧
    ((bar narrow 5 63).ovf = false ∧ (bar narrow 5 63).armed = true ∧ (bar narrow 5 63).arrived ≠ 0) ∧ (bar overflown 5 63).ovf = true ∧
    (bar small 5 63).armed = false ∧ Quiet narrow 5 true true false false ∧ (crewAt narrow 5).foot ≠ .cluster ∧ Handles (at_ 5 narrow) ∧
    (bar narrow 5 63).expect < (bar narrow 5 63).arrived + (narrow.convoy 5).members.length ∧
    (barreled (.on (.bara 63))).cur = 5 := by decide +kernel

theorem witness_SystemRegisters :
    (Issues small 0 ∧ members small ≠ [] ∧ ∀ n ∈ [0x00, 0x04, 0x07, 0x22, 0x30, 0x34, 0x44], ∀ x ∈ members small,
      (threadRegister (small.thread x) (x / 16 % 32) n).isSome) ∧
    (∀ n ∈ [0x01, 0x08, 0x10, 0x21, 0x50, 0x52, 0x100, 0x11F, 0x120, 0x12F], (groupRegister small n).isSome) ∧
    (∀ n ∈ [0x22, 0x34], (threadWritten {} 0 n).isSome) ∧ (Tab.get {} (crew small).latches (0x12F - 0x120) : ALatch).state = .empty ∧
    Handles small ∧
    (let s := crewOf (fun c => { c with latches := [(15, { state := .filling })] }) small
     Issues s 0 ∧ Handles s ∧ (Tab.get {} (crew s).latches (0x12F - 0x120) : ALatch).state ≠ .empty) := by decide +kernel

/-! Memory: virtual page 0x1000 is the host's page 0x1000 by core 0's TLB; k1 names it, k0 names stage memory. -/

def hostPage : TlbEntry := { ctx := 2, vd := 0, va := 0x1000, size := 0x1000, pa := 0x1000000001000, w := true, x := false, h := false, rd := true, wr := true }
def mapped : State := coreOf (fun c => { c with tlb := [hostPage] }) small
def records (l : Tab (BitVec 128)) : State := crewOf (fun c => { c with k := l }) small
/-- k0 with suppression, and with an odd base. -/
def suppressing : State := records [(0, BitVec.ofNat 128 (16 + 2^57 + 2^60 + 100 * 2^64 + 4 * 2^96 + 2 * 2^112))]
def askew : State := records [(0, BitVec.ofNat 128 (17 + 2^57 + 100 * 2^64 + 4 * 2^96 + 2 * 2^112))]
/-- The page is held. -/
def heldPage : TlbEntry := { hostPage with h := true }
def holding : State := coreOf (fun c => { c with tlb := [heldPage] }) small
/-- Every counter one short of its bound. -/
def busy (s : State) : State := threadsOf (fun t => { t with ocl := 62, ocs := 61 }) s
/-- Addresses of the members by k0 and k1. -/
def at0 (s : State) (x : Nat) : Nat := 16 + 4 * ((s.thread x).reg 4).toNat
def at1 (s : State) (x : Nat) : Nat := 4096 + 8 * ((s.thread x).reg 4).toNat

theorem witness_LoadIssue :
    (Issues (busy small) 0 ∧ RecordOk (busy small) 0 false ∧ recSpace (record (busy small) 0) ≠ 0 ∧
      ∀ x ∈ members (busy small), ((busy small).thread x).ocl < 63 ∧ Accesses (busy small) 0 4 0 (2^2) (min (2^2) 16) x (at0 (busy small) x)) ∧
    (∀ s ∈ [small, suppressing], Issues s 0 ∧ RecordOk s 0 false ∧ Handles s ∧
      ∀ x ∈ members s, (s.thread x).ocl < 63 ∧ elemAddr (record s 0) (recLimit (record s 0) (crew s)) ((s.thread x).reg 4).toNat 100 (2^2) = none) ∧
    recOor (record small 0) = false ∧
    recOor (record suppressing 0) = true ∧ ¬RecordOk small 15 false ∧
    (let s := askew
     Issues s 0 ∧ Handles s ∧ RecordOk s 0 false ∧ ∀ x ∈ members s, (s.thread x).ocl < 63 ∧ (at0 s x + 1) % min (2^2) 16 ≠ 0 ∧
       elemAddr (record s 0) (recLimit (record s 0) (crew s)) ((s.thread x).reg 4).toNat 0 (2^2) = some (at0 s x + 1)) := by decide +kernel

theorem witness_LoadLines : Issues (busy mapped) 0 ∧ RecordOk (busy mapped) 1 false ∧ recSpace (record (busy mapped) 1) = 0 ∧
    ∀ x ∈ members (busy mapped), ((busy mapped).thread x).ocl < 63 ∧ Accesses (busy mapped) 1 4 0 (2^3) (min (2^3) 16) x (at1 (busy mapped) x) ∧
      ∀ l ∈ spanLines (at1 (busy mapped) x) (2^3), (tlbFind ((busy mapped).core 0).tlb 2 0 (128 * l) = some hostPage ∧
        entryOutcome hostPage (128 * l) false false = .ok 0x1000000001000) ∧ Open (busy mapped) l 0x1000000001000 ∧
        (busy mapped).l1 0 (0x1000000001000 / 128) 0 = none := by decide +kernel

theorem witness_Stores :
    (Issues (busy small) 0 ∧ RecordOk (busy small) 0 true ∧ recSpace (record (busy small) 0) ≠ 0 ∧
      ∀ x ∈ members (busy small), ((busy small).thread x).ocs < 62 ∧ Accesses (busy small) 0 4 0 (2^2) (min (2^2) 16) x (at0 (busy small) x)) ∧
    Issues (busy mapped) 0 ∧ RecordOk (busy mapped) 1 true ∧ recSpace (record (busy mapped) 1) = 0 ∧
    (∀ x ∈ members (busy mapped), ((busy mapped).thread x).ocs < 62 ∧ Accesses (busy mapped) 1 4 0 (2^3) (min (2^3) 16) x (at1 (busy mapped) x) ∧
      ∀ l ∈ spanLines (at1 (busy mapped) x) (2^3), (tlbFind ((busy mapped).core 0).tlb 2 0 (128 * l) = some hostPage ∧
        entryOutcome hostPage (128 * l) true false = .ok 0x1000000001000) ∧ Open (busy mapped) l 0x1000000001000) ∧
    (Issues (busy holding) 0 ∧ RecordOk (busy holding) 1 true ∧ recSpace (record (busy holding) 1) = 0 ∧
      (∀ x ∈ members (busy holding), ((busy holding).thread x).ocs < 62 ∧ Accesses (busy holding) 1 4 0 (2^3) (min (2^3) 16) x (at1 (busy holding) x) ∧
        ∀ l ∈ spanLines (at1 (busy holding) x) (2^3), (tlbFind ((busy holding).core 0).tlb 2 0 (128 * l) = some heldPage ∧
          entryOutcome heldPage (128 * l) true false = .hold)) ∧
      ((busy holding).core 0).sideLog.length + 2 * (members (busy holding)).length ≤ 64) := by
  decide +kernel

theorem witness_Stores_trap : (∀ s ∈ [small, suppressing], Issues s 0 ∧ RecordOk s 0 true ∧ Handles s ∧
      ∀ x ∈ members s, (s.thread x).ocs + 1 ≤ 63 ∧ elemAddr (record s 0) (recLimit (record s 0) (crew s)) ((s.thread x).reg 4).toNat 100 (2^2) = none) ∧
    recOor (record small 0) = false ∧ recOor (record suppressing 0) = true ∧ ¬RecordOk small 15 true ∧
    (Issues askew 0 ∧ Handles askew ∧ RecordOk askew 0 true ∧ ∀ x ∈ members askew, (askew.thread x).ocs + 1 ≤ 63 ∧ (at0 askew x + 1) % min (2^2) 16 ≠ 0 ∧
      elemAddr (record askew 0) (recLimit (record askew 0) (crew askew)) ((askew.thread x).reg 4).toNat 0 (2^2) = some (at0 askew x + 1)) := by
  decide +kernel

/-- Frames 1 and 16 to 18 belong to VD 0, and the slices hold their first tiles. -/
def owned : State := { small with
  sealing := { owners := [(1, { owner := 1 }), (16, { owner := 1 }), (17, { owner := 1 }), (18, { owner := 1 })] },
  msc := { tiles := [(2, {}), (32, {}), (34, {}), (36, {})] } }
def flying (f : Flight) : State := { owned with flight := f }
def hostReq : Req := { id := 1, va := 32, pa := 0x1000000001000 }
def ownReq : Req := { id := 1, va := 32, pa := 0x1000 }
def fixedLoad : Load := { id := 1, who := ⟨0, 0⟩, first := 3, nbytes := 8, va := 4096, lines := [{ va := 32, data := List.replicate 128 7 }], old := [some 0] }

theorem witness_LoadCompletion :
    (∀ r ∈ [hostReq, ownReq], let s := flying { reqs := [r] }
      s.flight.reqs.find? (fun y => y.id == 1) = some r ∧ olderAt s r.core (placeOf r.pa) 1 = false) ∧
    (usable hostReq.pa = false ∧ isPeer hostReq.pa = false) ∧
    (usable ownReq.pa = true ∧ (sliceAccess (flying { reqs := [ownReq] }) (reqOf (flying { reqs := [ownReq] }) ownReq)).2 = .ok) ∧
    (let s := flying { loads := [fixedLoad] }
     s.flight.loads.find? (fun y => y.id == 1) = some fixedLoad ∧ fixedLoad.ready = true ∧ fixedLoad.atom = false ∧
      (∀ y ∈ s.flight.loads, y.who = fixedLoad.who → 1 ≤ y.id) ∧ alive s fixedLoad.who = true ∧ fixedLoad.regs = 1 ∧
      ∀ j, j < 1 → fixedLoad.old[j]? = some (some ((s.thread fixedLoad.who.key).reg (fixedLoad.first + j)))) := by decide +kernel

def hostStore : Store := { id := 1, whos := [⟨0, 0⟩], pa := 0x1000000001000, bytes := [(0x1000000001004, 9)] }
def ownStore : Store := { id := 1, whos := [⟨0, 0⟩], pa := 0x1000, bytes := [(0x1004, 9)] }
def stageStore : Store := { id := 1, whos := [⟨0, 0⟩], stage := true }

/-- Page tables of context 2 at 0x10000: the first gigabyte is the host's, writable. -/
def paged : State := { owned with
  ctxs := [(2, { used := true, cap := 2^40, level := 2^30, root := 0x10000, pages := 0x100000 })],
  mem := [(0x10000, 0x11), (0x10001, 0x10), (0x10002, 0x01), (0x11000, 0x11), (0x11001, 0x20), (0x11002, 0x01), (0x12000, 0x07), (0x12006, 0x01)] }
/-- The same without the gigabyte's entry. -/
def unpaged : State := { paged with mem := paged.mem.take 6 }

theorem witness_Stores_walk : Issues unpaged 0 ∧ RecordOk unpaged 1 true ∧ recSpace (record unpaged 1) = 0 ∧ members unpaged ≠ [] ∧
    (∀ x ∈ members unpaged, (unpaged.thread x).ocs + 1 ≤ 63 ∧ Accesses unpaged 1 4 0 (2^3) (min (2^3) 16) x (at1 unpaged x) ∧
      spanLines (at1 unpaged x) (2^3) = [32]) ∧
    (let r := translate (chargeIssue unpaged unpaged.cur (unpaged.weights.ofMem (members unpaged).length)) 0 (ctx unpaged) (crewKey unpaged) (128 * 32) true false 0
     r.2 = .notPresent ∧ r.1.host.kept = []) ∧ (unpaged.core 0).sideLog.length < 64 := by decide +kernel

def sideStore : SideEntry := { id := 1, ctx := 2, va := 0x3000, bytes := [(4, 9)], lanes := [⟨0, 0⟩] }
def logged : State := paged.setCore 0 { paged.core 0 with sideLog := [sideStore] }

theorem witness_StorePerformed :
    (∀ x ∈ [hostStore, ownStore], let s := flying { stores := [x] }
      s.flight.stores.find? (fun y => y.id == 1) = some x ∧ x.stage = false ∧ olderAt s x.core (placeOf x.pa) 1 = false) ∧
    (usable hostStore.pa = false ∧ isPeer hostStore.pa = false) ∧
    (usable ownStore.pa = true ∧ (sliceAccess (flying { stores := [ownStore] }) (reqOfStore (flying { stores := [ownStore] }) ownStore)).2 = .ok ∧
      NoRearm (sliceAccess (flying { stores := [ownStore] }) (reqOfStore (flying { stores := [ownStore] }) ownStore)).1) ∧
    (let s := flying { stores := [stageStore] }
     s.flight.stores.find? (fun y => y.id == 1) = some stageStore ∧ stageStore.stage = true ∧ s.flight.acks = [] ∧ stageStore.whos.count ⟨0, 0⟩ = 1 ∧
      alive s ⟨0, 0⟩ = true) ∧
    (let r := walk logged { ctx := 2, acct := 2, crew := sideStore.crew, core := some 0 } sideStore.va
     let q := r.1
     (logged.core 0).sideLog.filter (fun x => x.ctx == 2 && x.va / 4096 == 3) = [sideStore] ∧ sideStore.atom = none ∧ sideStore.pa = none ∧
      behindOther logged 0 sideStore = false ∧
      q.flight.loads = [] ∧ q.flight.atoms = [] ∧ walkOutcome r.2 sideStore.va true false = .ok 0x1000000003000 ∧
      usable 0x1000000003000 = false ∧ isPeer 0x1000000003000 = false ∧ olderAt q 0 (placeOf 0x1000000003000) sideStore.id = false) := by decide +kernel

def stageAtom : Atom := { id := 1, stage := true, ret := true, parts := [{ who := ⟨0, 0⟩, va := 16, addr := 16, s := 1, cmp := 0 }] }
def partAt (a : Nat) : AtomPart := { who := ⟨0, 0⟩, va := 0x1000, addr := a, s := 1, cmp := 0 }
def atomAt (a : Nat) : Atom := { id := 1, scope := 1, parts := [partAt a] }
/-- A core-scope atomic whose line stands in core 0's L1. -/
def coreAtom : Atom := { atomAt 0x1000 with scope := 0 }
def cached : State := coreOf (fun c => { c with l1 := [(64 * (0x1000 / 128), { valid := BitVec.allOnes 32, data := List.replicate 128 7 })] })
  (flying { atoms := [coreAtom] })
def atomLoad : Load := { id := 2, aid := 1, who := ⟨0, 0⟩, atom := true }

theorem witness_StageAtomics : (∃ p, atomicForm (.afadd 3 4 0 1 0 2 3 0 0) = some p ∧ Issues (busy small) 1 ∧ RecordOk (busy small) p.k true ∧
      recSpace (record (busy small) p.k) ≠ 0 ∧
      (p.op = 10 ∧ Valid (busy small) p.f ∧ Rounds (busy small) p.f ∧ ((crew (busy small)).fmt p.f).width = 8 * p.bytes ∧ (run (busy small)).det = false) ∧
      ∀ x ∈ members (busy small), ((busy small).thread x).ocl < 63 ∧ ((busy small).thread x).ocs < 63 ∧
        Accesses (busy small) p.k p.i 0 p.bytes p.bytes x (at0 (busy small) x)) ∧
    (∃ p, atomicForm (.acas 3 4 0 1 0 2 3 1) = some p ∧ Issues small 1 ∧ RecordOk small p.k true ∧ recSpace (record small p.k) ≠ 0 ∧ p.op ≠ 10 ∧
      2 ≤ p.order ∧ Quiet small 5 true true false false ∧ Drained small 5 ∧
      ∀ x ∈ members small, Accesses small p.k p.i 0 p.bytes p.bytes x (at0 small x)) ∧
    (let s := flying { atoms := [stageAtom], loads := [atomLoad] }
     s.flight.atoms.find? (fun y => y.id == 1) = some stageAtom ∧ stageAtom.parts.length = 1 ∧ stageAtom.deferred = [] ∧
      ∀ q ∈ stageAtom.parts, s.flight.loads.find? (fun y => y.atom && y.aid == stageAtom.id && y.who == q.who && y.value.isNone)
        = some atomLoad) :=
  ⟨⟨_, rfl, by decide +kernel⟩, ⟨_, rfl, by decide +kernel⟩, by decide +kernel⟩

theorem witness_MemoryAtomics : (∃ p, atomicForm (.acas 3 4 1 1 1 2 3 0) = some p ∧ Issues mapped 1 ∧ RecordOk mapped p.k true ∧
      recSpace (record mapped p.k) = 0 ∧ p.op ≠ 10 ∧ 2 ≤ p.order ∧ Quiet mapped 5 true true false false ∧ Drained mapped 5 ∧
      ∀ x ∈ members mapped, (mapped.thread x).ocl < 63 ∧ (mapped.thread x).ocs < 63 ∧ Accesses mapped p.k p.i 0 p.bytes p.bytes x (at1 mapped x) ∧
        (tlbFind (mapped.core 0).tlb 2 0 (128 * (at1 mapped x / 128)) = some hostPage ∧
          entryOutcome hostPage (128 * (at1 mapped x / 128)) true false = .ok 0x1000000001000) ∧ Open mapped (at1 mapped x / 128) 0x1000000001000) ∧
    (∀ a ∈ [0x1000000001000, 0x1000], let s := flying { atoms := [atomAt a] }
      s.flight.atoms.find? (fun y => y.id == 1) = some (atomAt a) ∧ (atomAt a).stage = false ∧ (atomAt a).scope ≠ 0 ∧ olderAt s 0 (placeOf a) 1 = false) ∧
    (cached.flight.atoms.find? (fun y => y.id == 1) = some coreAtom ∧ coreAtom.stage = false ∧ coreAtom.scope = 0 ∧
       cached.l1 0 (0x1000 / 128) 0 = some { valid := BitVec.allOnes 32, data := List.replicate 128 7 }) ∧
    (usable 0x1000000001000 = false ∧ isPeer 0x1000000001000 = false) ∧ usable 0x1000 = true ∧
    NoRearm (sliceAccess (flying { atoms := [atomAt 0x1000] }) (reqOfAtom (flying { atoms := [atomAt 0x1000] }) (atomAt 0x1000) (partAt 0x1000))).1 ∧
    (sliceAccess (flying { atoms := [atomAt 0x1000] }) (reqOfAtom (flying { atoms := [atomAt 0x1000] }) (atomAt 0x1000) (partAt 0x1000))).2 = .ok :=
  ⟨⟨_, rfl, by decide +kernel⟩, by decide +kernel⟩

/-! Matrix engine, copies, formation. -/

def allLanes : DWord := 0xFFFFFFFF
/-- Waypoint 3 expects all lanes of cohort 0; its latch has the rows of lanes 2 to 30. -/
def part : ALatch := { state := .filling, fmt := 0xE0707F00, regs := 16, signed := (List.range 29).map (· + 2) }
def filling : State := crewOf (fun c => { c with w := [(3, allLanes)], latches := [(3, part)] }) small
/-- The same with an empty latch, and block scales in F3. -/
def scaled : State := crewOf (fun c => { c with w := [(3, allLanes)], f := c.f ++ [(3, 0xC0700000)] }) small

theorem witness_MatrixSign :
    (Issues filling 0 ∧ SignWidths filling 15 1 0 ∧ LatchTakes filling 3 15 1 0 ∧ field (Tab.get 0 (crew filling).w 3).toNat 0 32 = 0xFFFFFFFF ∧
      ((members filling).map lane).Nodup ∧ (latch filling 3).signed.length + (members filling).length = 32 ∧
      ∀ x ∈ members filling, (filling.thread x).cohort = field (Tab.get 0 (crew filling).w 3).toNat 32 7 ∧ lane x ∉ (latch filling 3).signed) ∧
    (Issues scaled 0 ∧ SignWidths scaled 15 2 1 ∧ LatchTakes scaled 3 15 2 1 ∧ field (Tab.get 0 (crew scaled).w 3).toNat 0 32 = 0xFFFFFFFF ∧
      ((members scaled).map lane).Nodup ∧
      ∀ x ∈ members scaled, (scaled.thread x).cohort = field (Tab.get 0 (crew scaled).w 3).toNat 32 7 ∧ lane x ∉ (latch scaled 3).signed) := by decide +kernel

/-- Unit 31 is reserved for bfloat16 on core 0. -/
def resv31 : Resv := { first := 31, count := 1, fmt := 0xE0707F00 }
def whole : ALatch := { state := .complete, fmt := 0xE0707F00 }
def reserved (foot : Footprint) : State := crewOf (fun c => { c with foot := foot, resvs := [resv31], latches := [(3, whole), (4, whole)] })
  { small with ctxs := [(2, { used := true, cap := 2^40, level := 2^30, joint := true })] }

theorem witness_Reservations : (Issues small 0 ∧ 0 + 31 + 1 ≤ (crew small).units ∧ Valid small 1 ∧ Valid small 2 ∧ ((crew small).fmt 1).width = 16 ∧
      matWidth 16 = true ∧ 1024 * matNW 16 ≤ 4096 * (31 + 1) ∧ matK 16 % 8 = 0 ∧ ((crew small).fmt 2).width = 8 ∧ 1024 * matNW 16 ≤ 128 * 32 ∧
      128 * 32 + 128 * matK 16 / 8 ≤ 4096 * (31 + 1) ∧ (crew small).resvs = []) ∧
    (Issues (reserved .half) 0 ∧ 30 + 0 + 1 ≤ (crew (reserved .half)).units ∧
      ∀ r ∈ (crew (reserved .half)).resvs, r.first + r.count ≤ 30 ∨ 30 + 0 + 1 ≤ r.first) ∧
    (31 < (crew (reserved .half)).units ∧ ∃ r ∈ (crew (reserved .half)).resvs, r.core = ((reserved .half).convoy (reserved .half).cur).core ∧ r.first = 31) := by
  decide +kernel

theorem witness_MultiplyIssue :
    (∃ p, matForm (.mma 3 3 16 1 0 31 1 63 7) = some p ∧ Issues (reserved .half) 0 ∧ p.d < (crew (reserved .half)).accs ∧ p.u < (crew (reserved .half)).units ∧
      CmpOk (reserved .half) p.cmp p.bar ∧ Rounds (reserved .half) p.rf ∧
      (crew (reserved .half)).resvs.find? (fun x => x.core == 0 && x.first == p.u) = some resv31 ∧
      (∀ w ∈ p.wps, (latch (reserved .half) w).state = .complete ∧ (Fmt.ofWord (latch (reserved .half) w).fmt).width = (Fmt.ofWord resv31.fmt).width) ∧
      matToll (Fmt.ofWord resv31.fmt).width ≤ ((reserved .half).island 0).pool ∧ ∀ q ∈ p.engines 0, EngineRoom (reserved .half) q.1) ∧
    ∀ i ∈ [Instr.mmab 7 3 16 1 1 31 0 0 7, Instr.mmaj 7 3 16 0 1 31 1 127 7], ∃ p, matForm i = some p ∧ Issues (reserved .cluster) 0 ∧
      p.d < (crew (reserved .cluster)).accs ∧ p.u < (crew (reserved .cluster)).units ∧ CmpOk (reserved .cluster) p.cmp p.bar ∧
      (crew (reserved .cluster)).foot = .cluster ∧ ((reserved .cluster).ctx (ctx (reserved .cluster))).joint = true ∧ Rounds (reserved .cluster) p.rf ∧
      (crew (reserved .cluster)).resvs.find? (fun x => x.core == 0 && x.first == p.u) = some resv31 ∧
      (∀ w ∈ p.wps, (latch (reserved .cluster) w).state = .complete ∧ (Fmt.ofWord (latch (reserved .cluster) w).fmt).width = (Fmt.ofWord resv31.fmt).width) ∧
      ∀ q ∈ p.engines 0, EngineRoom (reserved .cluster) q.1 := by
  refine ⟨⟨_, rfl, by decide +kernel⟩, fun i h => ?_⟩
  simp only [List.mem_cons, List.not_mem_nil, or_false] at h
  obtain rfl | rfl := h
  · exact ⟨_, rfl, by decide +kernel⟩
  · exact ⟨_, rfl, by decide +kernel⟩

theorem witness_TileIssue : (Issues small 0 ∧ 3 < (crew small).accs ∧ EngineRoom small 0) ∧
    (∃ p, tileForm (.tld 0 16 3 63 0) = some p ∧ p.acc < (crew small).accs ∧ CmpOk small p.cmp p.bar ∧ Valid small p.n ∧ Rounds small p.n ∧
      4 ≤ (small.island 0).pool ∧ (∀ x ∈ members small, field (small.g 5 p.a).toNat 0 7 + lane x ≤ 127) ∧
      field (small.g 5 p.a).toNat 8 7 + (p.c + 1) * count ((crew small).fmt p.n).width = 128) ∧
    (∃ p, tileForm (.tst 0 16 3 63 0 1 63) = some p ∧ p.acc < (crew small).accs ∧ CmpOk small p.cmp p.bar ∧ Valid small p.n ∧ Rounds small p.n ∧
      (∀ x ∈ members small, field (small.g 5 p.a).toNat 0 7 + lane x ≤ 127) ∧
      field (small.g 5 p.a).toNat 8 7 + (p.c + 1) * count ((crew small).fmt p.n).width = 128) :=
  ⟨by decide +kernel, ⟨_, rfl, by decide +kernel⟩, ⟨_, rfl, by decide +kernel⟩⟩

def engine (e : MEntry) : State := (coreOf (fun c => { c with mq := [e] }) small).setIsland 0 { small.island 0 with cycle := 999, begun := true }
def waitingEntry : MEntry := { kind := .mma, seq := 1, crew := 3, paid := true }
def doneEntry (kind : MKind) : MEntry := { kind, seq := 1, crew := 3, fmt := 0xE1707F00, regs := 1, row0 := 96, members := [⟨496, 0⟩], started := some 0 }

theorem witness_MatrixCompletion :
    (mStartable (engine waitingEntry) 0 ((engine waitingEntry).cycle 0) = some waitingEntry ∧ waitingEntry.paid = true ∧
      ∀ c ∈ opCores 0 waitingEntry, partOf (engine waitingEntry) waitingEntry c ((engine waitingEntry).cycle c) = true) ∧
    (∀ k ∈ [MKind.tzero, .mma, .mmab, .mmaj, .tst, .tld], ((engine (doneEntry k)).core 0).mq.find? (fun x => x.started.isSome) = some (doneEntry k) ∧
      (doneEntry k).started = some 0 ∧ 0 + (doneEntry k).latency ≤ cycleAt (engine (doneEntry k)) 0) ∧
    (∀ p ∈ jointHeads (engine (doneEntry .mmaj)) 0 (doneEntry .mmaj), p.2.acc < 8) ∧
    (96 + lane 496 < 128 ∧ 0 + 1 * count (Fmt.ofWord 0xE1707F00).width ≤ 128 ∧ (Fmt.ofWord 0xE1707F00).width ≠ 0) ∧
    alive (engine (doneEntry .tld)) ⟨496, 0⟩ = true ∧
    ∀ j, j < 1 → ((engine (doneEntry .tld)).thread 496).reg (0 + j) = Tab.get 0 (doneEntry .tld).data (64 * lane 496 + j) := by decide +kernel

/-- g20 the last index at which six elements of k1 end, g21 a stage address. -/
def copying : State := (small.setG 5 20 58).setG 5 21 0x40

theorem witness_CopyIssue :
    (∃ p, copyForm (.cpy 16 18 20 0 1 1 63) = some p ∧ Issues copying 0 ∧ CmpOk copying p.cmp p.bar ∧ CopyOk copying p ∧ 4 ≤ (copying.island 0).pool ∧
      CopyRoom copying) ∧
    (∃ p, copyForm (.cpyg 16 18 21 1 1 0 0) = some p ∧ CmpOk copying p.cmp p.bar ∧ CopyOk copying p ∧ p.dir = 1 ∧
      ∀ c ∈ (crew copying).cores, (copying.core c).cq = []) ∧
    (CmpOk copying 1 63 ∧ 3 < (crew copying).accs ∧ 4096 * 31 + 128 * (31 + 1) ≤ 4096 * (crew copying).units ∧ (copying.g 5 22).toNat % 128 = 0 ∧
      (copying.g 5 22).toNat + 128 * (31 + 1) ≤ footWindow (crew copying).foot) ∧
    (∀ m, m < (128 * (31 + 1) + 4095) / 4096 → ∃ r ∈ (crew (reserved .half)).resvs, r.core = ((reserved .half).convoy 5).core ∧ r.first ≤ 31 + m ∧
      31 + m < r.first + r.count) :=
  ⟨⟨_, rfl, by decide +kernel⟩, ⟨_, rfl, by decide +kernel⟩, by decide +kernel⟩

def copier (e : CEntry) : State := (coreOf (fun c => { c with cq := [e] }) mapped).setIsland 0 { small.island 0 with cycle := 999, begun := true }
def firstCopy : CEntry := { seq := 1, ctx := 2, crew := 3, paid := true }
def doneCpyt (tile out : Bool) : CEntry := { kind := .cpyt, seq := 1, ctx := 2, crew := 3, tile, out, n := 4096, started := some 0 }
def doneCpy : CEntry := { seq := 1, ctx := 2, crew := 3, rcd := record small 1, idx := 3, n := 2, started := some 0 }

theorem witness_CopyCompletion : (cStartable (copier firstCopy) 0 = some firstCopy ∧ firstCopy.paid = true) ∧
    (∀ t ∈ [false, true], ∀ o ∈ [false, true], ((copier (doneCpyt t o)).core 0).cq.find? (fun x => x.started.isSome) = some (doneCpyt t o) ∧
      (doneCpyt t o).page = none ∧ 0 + ((doneCpyt t o).bytes + 127) / 128 ≤ cycleAt (copier (doneCpyt t o)) 0 ∧ (doneCpyt t o).source = [] ∧ (doneCpyt t o).n % 4 = 0) ∧
    (((copier doneCpy).core 0).cq.find? (fun x => x.started.isSome) = some doneCpy ∧ doneCpy.page = none ∧ doneCpy.source = [] ∧
      0 + (doneCpy.bytes + 127) / 128 ≤ cycleAt (copier doneCpy) 0) := by decide +kernel

theorem witness_CopyCompletion_lines : (∀ m, m < 2 → elemAddr doneCpy.rcd (2^57) (doneCpy.idx + m) 0 (2^recEsz doneCpy.rcd) = some (4120 + 8 * m) ∧ ∀ b, b < 8 →
      (tlbFind ((copier doneCpy).core 0).tlb 2 ((copier doneCpy).ctx 2).vd (4120 + 8 * m + b) = some hostPage ∧
        entryOutcome hostPage (4120 + 8 * m + b) false false = .ok (0x1000000000000 + (4120 + 8 * m + b))) ∧
      usable (0x1000000000000 + (4120 + 8 * m + b)) = false ∧ isPeer (0x1000000000000 + (4120 + 8 * m + b)) = false) := by decide +kernel

/-- Threads of lanes 0 and 1 in a layby, of the given age; in a junction layby the rest of their cohort is gone. -/
def parked (age : Nat) (junction : Bool) : State := { small with
  threads := [(1, { lane0 with state := .spilled, cohort := 2 }), (17, { lane1 with state := .spilled, cohort := 2 })],
  laybys := [{ crew := 3, core := 0, quad := 0, addr := 0x2000, age, junction, queue := [1, 17] }] }
def behind (age : Nat) (junction : Bool) : Layby := { crew := 3, core := 0, quad := 0, addr := 0x2000, age, junction, queue := [1, 17] }

theorem witness_Formation :
    (∀ x ∈ [(256, false), (0, true)], let s := parked x.1 x.2
      tableCrew s 0 0 = 3 ∧ (s.crew 3).phase = .running ∧ (s.ctx (s.crew 3).ctx).stop = none ∧ (s.core 0).gated = false ∧
      Tab.get 0 (s.core 0).formed (2 * 0 + 0) ≠ s.cycle 0 + 1 ∧
      (readyLaybys s 3 0 0).filter (fun x => decide ((s.crewRun 3).wait + 64 ≤ x.age)) = [] ∧
      readyLaybys s 3 0 0 ++ cohortLaybys s 3 0 0 = [behind x.1 x.2]) ∧
    ((readyLaybys (parked 320 false) 3 0 0).filter (fun x => decide (((parked 320 false).crewRun 3).wait + 64 ≤ x.age)) = [behind 320 false]) ∧
    (wholeCohorts (parked 0 true) (behind 0 true)).head? = some 2 ∧
    ((parked 256 false).layby? (tableCrew (parked 256 false) 0 0) 0 0 0x2000 = some (behind 256 false) ∧ ((parked 256 false).crewRun 3).wait ≤ 256) ∧
    (let s := coreOf (fun c => { c with formed := [(0, 1)] }) small
     Tab.get 0 (s.core 0).formed (2 * 0 + 0) = s.cycle 0 + 1) ∧
    (let s := threadsOf (fun t => { t with state := .exiting }) small
     (s.thread 16).state = .exiting ∧ (s.thread 16).ocl = 0 ∧ (s.thread 16).tlds = 0 ∧
      (Tab.get {} (s.crew (s.thread 16).crew).syncs (s.thread 16).cohort : SyncRec).parked = []) := by decide +kernel

/-! Firmware, rings, queues, runs. The virtual addresses of context 2 in `paged` are the host's: queue 0 has its rings at 0x2000. -/

/-- A launch packet of SEQ 1 with its check, and a descriptor of one cohort at 0x4000. -/
def packet : List Byte := leBytes 1 4 ++ leBytes 720669950 4 ++ leBytes 1 1 ++ leBytes 0 7 ++ leBytes 0x4000 8 ++ leBytes 0 80 ++ leBytes 77 4 ++ leBytes 0 20
def descriptor : List (Nat × Byte) := [(0x1000000004000, 1), (0x1000000004010, 32), (0x1000000004018, 1), (0x100000000401C, 1), (0x1000000004021, 0x10)]
def queue0 : Queue := { en := true, ctx := 2, base := 0x2000, head := 1, tail := 2 }
def ringed : State := { paged with queues := [(0, queue0)], mem := Tab.putRun 0 0x1000000002080 packet (paged.mem ++ descriptor) }

/-- Processor n executes, with its registers, signals and SRAM. -/
def fw (n : Nat) (p : FwProc) : State := { ringed with cur := 1000000 + n, fw := [(n, p)] }
def fetching : State := fw 0 { x := [(12, 0x80)] }
def waking (b : DWord) : State := fw 0 { x := [(10, 0x7FFF), (12, b)], pending := 0x8000 }
def ordering (kind slot : Nat) : State := fw 0 { x := [(10, 0x40)],
                                                 sram := Tab.putRun 0 0x40 (leBytes 2 4 ++ leBytes 0 8 ++ leBytes 0 2 ++ leBytes slot 1 ++ leBytes kind 1 ++ leBytes (if kind = 0 then 0x4000 else 0) 8) [] }
def gone : State := (ordering 0 1).setIsland 0 { state := .retired }
def order0 (kind slot : Nat) : Order := orderOf (Tab.getRun 0 ((ordering kind slot).proc 0).sram 0x40 64)

theorem witness_FirmwareInstructions_first :
    (fetching.cur = 1000000 + 0 ∧ fwFault fetching 0 (.xrfetch 12 11 10) = none ∧
      (vRead fetching 2 (0x2000 + 128 * (1 % (16 * 2^0))) 128).2 = .ok packet) ∧
    ((fetching.proc 0).reg 11 = 0 ∧ fetching.queue 0 = queue0) ∧
    (fwFault (waking 0) 0 (.xswait 12 10 11) = none ∧ ((waking 0).proc 0).reg 12 = 0) ∧
    (fwFault (waking 1) 0 (.xswait 12 10 11) = none ∧ ¬(((waking 1).proc 0).pending &&& ((waking 1).proc 0).reg 10 ≠ 0 ∨ ((waking 1).proc 0).reg 12 = 0)) ∧
    (let s := fw 0 { pending := 2, waiting := some (11, 2, BitVec.allOnes 64) }
     (s.proc 0).waiting = some (11, 2, BitVec.allOnes 64) ∧ (s.proc 0).safe = false ∧ (s.proc 0).pending &&& 2 ≠ 0) ∧
    (fwFault (fw 8 { x := [(10, 63)] }) 8 (.xmeas 10 11) = none) ∧
    (fwFault (fw 8 { x := [(10, 64)] }) 8 (.xmeas 10 11)).isSome ∧ (fwFault (fw 0 { x := [(12, 0x3FF81)] }) 0 (.xrfetch 12 11 10)).isSome ∧
    (fwFault (fw 8 { x := [(10, 1)] }) 8 (.xswait 12 10 11)).isSome ∧ (fwFault (fw 0 { x := [(10, 0x20)] }) 0 (.xdisp 10 11)).isSome := by decide +kernel

/-- Both slots of core 0 are taken; crew 3 is saved and core 0 free. -/
def full0 (kind : Nat) : State := (ordering kind 0).setCore 0 { slot0 := 3, slot1 := 9 }
def saved0 : State := ((ordering 1 1).setCore 0 {}).setCrew 3 { crew3 with phase := .saved, slot := 1 }

theorem witness_FirmwareInstructions_orders : (fwFault gone 0 (.xdisp 10 11) = none ∧ (gone.island ((order0 0 1).core / 2)).state = .retired) ∧
    (fwFault (ordering 2 0) 0 (.xdisp 10 11) = none ∧ ((ordering 2 0).island ((order0 2 0).core / 2)).state = .enabled ∧ (order0 2 0).kind = 2 ∧
      orderedCrew (ordering 2 0) (order0 2 0) = some 3 ∧ (order0 2 0).core ∈ ((ordering 2 0).crew 3).cores) ∧
    (∀ k ∈ [0, 1], fwFault (full0 k) 0 (.xdisp 10 11) = none ∧ ((full0 k).island ((order0 k 0).core / 2)).state = .enabled ∧ (order0 k 0).kind ≠ 2 ∧
      slotsTaken (full0 k) (order0 k 0) false = true) ∧
    (fwFault saved0 0 (.xdisp 10 11) = none ∧ (saved0.island ((order0 1 1).core / 2)).state = .enabled ∧ (order0 1 1).kind = 1 ∧
      (saved0.ctx (order0 1 1).ctx).used = true ∧ (saved0.ctx (order0 1 1).ctx).stop = none ∧ orderedCrew saved0 (order0 1 1) = some 3 ∧
      (saved0.crew 3).phase = .saved ∧ (order0 1 1).suits (saved0.crew 3).foot = true ∧ slotsTaken saved0 (order0 1 1) (saved0.crew 3).cluster = false ∧
      (order0 1 1).slot = (saved0.crew 3).slot) ∧
    (fwFault (ordering 0 1) 0 (.xdisp 10 11) = none ∧ ((ordering 0 1).island ((order0 0 1).core / 2)).state = .enabled ∧ (order0 0 1).kind = 0 ∧
      ((ordering 0 1).ctx (order0 0 1).ctx).used = true ∧ ((ordering 0 1).ctx (order0 0 1).ctx).stop = none ∧ slotsTaken (ordering 0 1) (order0 0 1) false = false ∧
      (let r := readDesc (ordering 0 1) (order0 0 1).ctx { seq := 0, desc := (order0 0 1).desc }
       r.2.elim (fun _ => false) (fun g => (order0 0 1).suits g.2.foot && !slotsTaken r.1 (order0 0 1) (g.2.foot == .cluster) && orderFits r.1 (order0 0 1) g.2.foot) = true)) := by
  decide +kernel

def island0 (f : Island → Island) (s : State) : State := s.setIsland 0 (f (s.island 0))

theorem witness_RingEvents :
    (let s : State := { small with convoys := [], cores := [(0, { gated := true }), (1, { gated := true })] }
     Resting (s.island 0) ∧ s.convoys = [] ∧ (s.core (2 * 0)).gated = true ∧ (s.core (2 * 0 + 1)).gated = true ∧
      (s.island 0).bins.foldl (· + ·) 0 = (s.island 0).pool) ∧
    (let s := island0 (fun i => { i with cycle := 20, begins := [(0, 1)] }) (held (.on (.tclaim 5)))
     let d : Dem := { stop := 0, target := 5 }
     (demandsOf s 0).find? (fun x => x.stop == 0) = some d ∧ Tab.get 0 (s.island 0).begins 0 ≠ 0 ∧
      Tab.get 0 (s.island 0).begins 0 + 20 ≤ (s.island 0).cycle + 1 ∧ (s.island 0).claims = [] ∧ (s.island 0).coll = List.replicate 10 0 ∧
      d.need (s.island 0).coll ≠ 0 ∧ youngest s 0 = none) ∧
    (let w : Window := { stop := 9, ends := 7, tokens := 3 }
     let s := island0 (fun i => { i with cycle := 7, debt := 4, windows := [w, { stop := 1, ends := 8, tokens := 1 }] }) small
     (s.island 0).windows.filter (fun x => decide (x.ends ≤ (s.island 0).cycle)) = [w] ∧ w.holder = none ∧ (s.island 0).claims = []) ∧
    (let s := island0 (fun i => { i with coll := [5, 0, 0, 0, 0, 0, 0, 0, 0, 0] }) (held (.on (.tclaim 5)))
     (s.convoy 5).hold = .on (.tclaim 5) ∧ (s.convoy 5).reclaim = 0 ∧ 0 < grant s 5 5 - Claims.held s 5 ∧
      grant s 5 5 - Claims.held s 5 ≤ (s.island 0).coll[quadStop 0 0]?.getD 0) ∧
    (((held (.on (.join 4))).convoy 5).hold = .on (.join 4) ∧ waitsForRoom (.join 4) = true ∧ goesOn (held (.on (.join 4))) 5 (.join 4) = true) ∧
    ((island0 (fun i => { i with state := .poweredDown }) small).island 0).state = .poweredDown ∧
    (State.reset.island 255).state = .enabled ∧ (State.reset.core (2 * 255)).slot0 = 0 ∧ (State.reset.core (2 * 255 + 1)).slot1 = 0 := by decide +kernel

/-- Bins of a ring of 96 tokens, and a ring with them, a collector at stop 0, a holding of `free` tokens besides. -/
def spread (n : Nat) : List Nat := [90 - n, 1, 1, 1, 1, 1, 1, 0, 0, 0]
def turningRing (got free : Nat) : Island := { cycle := 10, begun := true, bins := spread (got + free), coll := got :: List.replicate 9 0 }

def minting (pool debt : Nat) : State :=
  { small with convoys := [], cores := [(0, { gated := true }), (1, { gated := true })],
               islands := [(0, { cycle := 10, begun := true, debt, pools := [(12, pool + 1)] })] }

theorem witness_RingArbitration_mint : ∀ n ∈ [5, 96, 120], ∀ d ∈ [0, 3], let s := minting n d
    (s.island 0).state = .enabled ∧ (s.island 0).begun = true ∧ (s.island 0).claims = [] ∧ (s.island 0).windows = [] ∧
      (s.island 0).coll = List.replicate 10 0 ∧ (s.island 0).bins.length = 10 ∧ (s.core 0).gated = true ∧ (s.core 1).gated = true := by decide +kernel

/-- Demands at stops 0 and 9, the second covered, none at stop 4. -/
def demanded : List Dem := [{ stop := 0, target := 12 }, { stop := 9, target := 3 }]

theorem witness_RingArbitration_collect :
    (let i : Island := { bins := [7, 0, 0, 0, 2, 0, 0, 0, 0, 1], coll := [1, 0, 0, 0, 6, 0, 0, 0, 0, 5] }
     i.claims = [] ∧ i.debt = 0 ∧ (∀ d ∈ demanded, d.pair = none ∧ d.stop < 10) ∧ (demanded.map Dem.stop).Nodup ∧ i.coll.length = 10 ∧ i.bins.length = 10 ∧
      (∀ d ∈ demanded, d.stop ≠ 4)) ∧
    (let i : Island := { bins := [7, 0, 0, 0, 2, 0, 0, 0, 0, 1], coll := [1, 0, 0, 0, 0, 0, 0, 0, 0, 1], claims := [{ stop := 0, opened := 5, remaining := 11 }] }
     i.claims = [{ stop := 0, opened := 5, remaining := 11 }] ∧ (∀ d ∈ demanded, nth i.coll d.stop ≤ d.target) ∧ nth i.coll 0 < 12 ∧
      (∀ st, st < 10 → (∀ d ∈ demanded, d.stop ≠ st) → nth i.coll st = 0) ∧ i.coll.length = 10 ∧ i.bins.length = 10) := by decide +kernel

/-- Crew 3 works on core 0 alone: convoys of quad 0 hold FADD.F0 v2, v2, v9 in hand, its toll checked. -/
def faddConvoy (tolls free : Nat) (age : Int) (paid : Bool) : Convoy :=
  { crew := 3, members := [(0, 0)], pc := 0x1000, checked := true, tolls, free, age, paid }
def working (cs : Tab Convoy) (i : Island) : State :=
  { small with issue := [], cores := [(0, { slot0 := 3, slot1 := 3 }), (1, { gated := true })], convoys := cs, islands := [(0, i)],
               words := cs.map fun c => (c.1, some { pc := 0x1000, w0 := 0x3C104258 }) }

/-- Three such convoys: the oldest has paid, the second has not, the third pays from its holding. -/
def rivals (claims : List Claim) : State :=
  working [(5, faddConvoy 0 0 1 true), (6, faddConvoy 0 0 2 false), (7, faddConvoy 4 3 3 false)] { turningRing 1 3 with claims := claims }

theorem witness_RingArbitration_arbitrate :
    (∀ l ∈ [[], [{ stop := 2, opened := 5, remaining := 3 }]], ((ready (rivals l) 0 0).map Cand.key).Nodup ∧ (ready (rivals l) 0 0).length = 3 ∧
      (∀ c ∈ ready (rivals l) 0 0, c.toll = 0 ∨ c.need = 0)) ∧
    ((payer (rivals []) false (ready (rivals []) 0 0)).map Cand.key) = some 6 ∧
    (let s := rivals []
     (s.convoy 7).free = 3 ∧ nth (s.island 0).coll (quadStop 0 0) = 1) := by decide +kernel

theorem twoCores_copies (x y : Core) (hx : x.cq = []) (hy : y.cq = []) (c : Nat) : (Tab.get {} [(0, x), (1, y)] c : Core).cq = [] := by
  unfold Tab.get; split
  · exact hx
  · unfold Tab.get; split
    · exact hy
    · rfl

theorem working_atWork (cs : Tab Convoy) (got free : Nat) : AtWork (working cs (turningRing got free)) 0 3 := by
  constructor
  case copies => exact twoCores_copies _ _ rfl rfl
  all_goals (repeat' apply And.intro) <;> first | rfl | decide

theorem witness_RingArbitration_convoy : (∀ u n, passedOver u n (.fadd 2 2 9 3 0) = false) ∧ quadToll (.fadd 2 2 9 3 0) ≠ 0 ∧
    (∀ p ∈ [(0, 0), (1, 0), (0, 1)], let s := working [(5, faddConvoy (2 * p.2) p.2 7 false)] (turningRing p.1 p.2)
      s.inHand 5 = some { pc := 0x1000, w0 := 0x3C104258 } ∧ ({ pc := 0x1000, w0 := 0x3C104258 } : InHand).instr = some (.fadd 2 2 9 3 0) ∧
        (faddConvoy (2 * p.2) p.2 7 false).notBefore ≤ s.cycle 0 + 1 ∧ quadToll (.fadd 2 2 9 3 0) ≤ (s.island 0).pool ∧
        HoldsAll (s.island 0) (quadStop 0 0) p.2 ∧ max (2 * p.2) p.2 ≤ (s.island 0).pool / 2 ∧ nth (s.island 0).coll (quadStop 0 0) ≤ 1) :=
  ⟨fun _ _ => rfl, by decide, by decide +kernel⟩

/-- The head entry of core 0's matrix queue: a multiply in bfloat16. -/
def headEntry : MEntry := { kind := .mma, seq := 1, ctx := 2, crew := 3, resv := { count := 1, fmt := 0xE0707F00 }, latch := { fmt := 0xE0707F00 } }
def engineWork (got n : Nat) : State :=
  { working [] { turningRing 0 0 with bins := [82 - got - n, 2, 2, n, 2, 2, 2, 2, 1, 1], coll := (List.replicate 10 0).set (portStop 0) got } with
    cores := [(0, { slot0 := 3, slot1 := 3, mq := [headEntry] }), (1, { gated := true })] }

theorem engineWork_atWork (got n : Nat) : AtWork (engineWork got n) 0 3 := by
  constructor
  case copies => exact twoCores_copies _ _ rfl rfl
  all_goals (repeat' apply And.intro) <;> first | rfl | decide

theorem witness_RingArbitration_engine : ∀ p ∈ [(8, 1), (0, 60)], let s := engineWork p.1 p.2
    s.convoys = [] ∧ mStartable s 0 (s.cycle 0 + 1) = some headEntry ∧ isPair headEntry.kind = false ∧ headEntry.toll ≠ 0 ∧ headEntry.paid = false ∧
      headEntry.toll ≤ (s.island 0).pool ∧ HoldsAll (s.island 0) (portStop 0) 0 ∧ nth (s.island 0).coll (portStop 0) ≤ headEntry.toll := by decide +kernel

def queued (q : Queue) : State := { ringed with queues := [(0, q)] }
def drained1 : Pending := { seq := 1, desc := 0x4000, waits := [(0x8000, 0)] }

theorem witness_QueueEvents : (KickTaken ringed 0 0 0x11 ∧ KickTaken ringed 0 0 0x8000000000000011 ∧ ringed.queue 0 = queue0 ∧ queue0.kickFault = false) ∧
    (((2^18 : Nat).testBit 18 = true ∧ (2^18 : Nat).testBit 19 = false ∧ (ringed.queue 0).state = .running) ∧ (2^19 : Nat).testBit 19 = true ∧
      (2^19 : Nat).testBit 18 = false ∧ drainStands ringed 0 = false) ∧
    (let val := 0x12000 + 12 * 2^64 + 2^79 + 2 * 2^96 + 0x13000 * 2^128
     let s := queued {}
     (s.vd 0).locked = false ∧ val.testBit 79 = true ∧ (s.queue 0).en = false ∧ (recordGives (s.queue 0) val).size ≤ 12 ∧
      (recordGives (s.queue 0) val).base % 4096 = 0 ∧ (recordGives (s.queue 0) val).cbase % 4096 = 0 ∧ (recordGives (s.queue 0) val).kickva = 0 ∧
      (s.ctx (recordGives (s.queue 0) val).ctx).used = true ∧ (s.ctx (recordGives (s.queue 0) val).ctx).vd = 0 ∧ drainStands s 0 = false) ∧
    ((ringed.vd 0).locked = false ∧ (0 : Nat).testBit 79 = false ∧ (ringed.queue 0).en = true) ∧ 60 + 4 ≤ 64 ∧ ringed.host.doorbell = false ∧
    (mayFetch ringed 0 = true ∧ SlotGives ringed 0 packet ∧ (ringed.queue 0).tries = 0 ∧ (ringed.queue 0).state = .running) ∧
    (let s := queued { queue0 with tries := 3 }
     mayFetch s 0 = true ∧ SlotGives s 0 packet ∧ 0 < (s.queue 0).tries) := by decide +kernel

/-- A pending run whose wait for the value 0 at 0x8000 is met. -/
def awaiting : State := queued { queue0 with pend := [drained1] }

theorem pair_of_snd {α β : Type} (p : α × β) {b : β} (h : p.2 = b) : p = (p.1, b) := by cases h; rfl

theorem witness_QueueEvents_waits : ∃ u, queuesOfPart awaiting 0 = [0] ∧ (awaiting.queue 0).pend = [drained1] ∧ drained1.ready = false ∧
    (awaiting.ctx (awaiting.queue 0).ctx).stop = none ∧
    pageWaits awaiting (awaiting.queue 0).ctx drained1 = false ∧ evalWaits (awaiting.queue 0).ctx drained1.waits awaiting = (u, .met) := by
  refine ⟨(evalWaits (awaiting.queue 0).ctx drained1.waits awaiting).1, ?_⟩
  have h : (evalWaits (awaiting.queue 0).ctx drained1.waits awaiting).2 = .met := by decide +kernel
  exact ⟨by decide +kernel, by decide +kernel, rfl, by decide +kernel, by decide +kernel, pair_of_snd _ h⟩

/-- A chosen run of partition 0, whose cluster 1 is free; a crew that is placed, with the rows of its slot free. -/
def pendingRun : Pending := { seq := 1, desc := 0x4000, ready := true, readyAt := 1, got := some ({ counts := [32, 0, 0, 0], entries := [0x1000] }, {}) }
def dispatching : State := { queued { queue0 with pend := [pendingRun] } with parts := [(0, { used := true, clusters := [1] })], runs := [] }
def staged : State := { small with threads := [], crews := [(3, { crew3 with phase := .staging })], runs := [(4, { counts := [32, 0, 0, 0], entries := [0x1000] })] }
def leavingCrew : State := { small with threads := [], crews := [(3, { crew3 with phase := .writingBack })] }

theorem witness_RunEvents :
    (let s := dispatching
     let c : DCand := { prio := 0, isNew := true, order := 1, tie := 0, what := 0 }
     ordersOf s 0 = [] ∧ bestCand (dispatchCands s 0) = some c ∧ (s.queue c.what).pend = [pendingRun] ∧ pendingRun.got.isSome ∧ placesOf s 0 .half = [2, 3] ∧
      (∀ p ∈ [2, 3], (freeSlot s p .half none).isSome) ∧ freeRange s 2 (2 * imageSize .half) = some 0x9000 ∧ freeIndex s 2 = some 0) ∧
    ((staged.crew 3).phase = .staging ∧ (staged.ctx (staged.crew 3).ctx).stop = none ∧ (staged.run (staged.crew 3).run).regions = [] ∧
      (staged.crew 3).foot ≠ .cluster ∧ (staged.run (staged.crew 3).run).counts = [32, 0, 0, 0] ∧
      ∀ lane, lane < 32 → freeRow staged (staged.crew 3) (staged.crew 3).core 0 lane = some 0 ∧ 0 < 16) ∧
    ((leavingCrew.crew 3).phase = .writingBack ∧ workDone leavingCrew 3 = true ∧ (leavingCrew.ctx (leavingCrew.crew 3).ctx).stop = none ∧
      (leavingCrew.run (leavingCrew.crew 3).run).regions = [] ∧ (leavingCrew.run (leavingCrew.crew 3).run).live = true) ∧
    (let s := crewOf (fun c => { c with phase := .ended }) small
     (s.run 4).live = true ∧ (s.run 4).code = none ∧ (∀ p ∈ s.crews, p.2.run = 4 → p.2.phase = .ended ∨ p.2.phase = .none) ∧ (s.run 4).cevAddr = 0 ∧
      (s.run 4).ordered = false) := by decide +kernel

/-- Crew 3 in a phase, on no slot where it is saved; partition 0 has cluster 0. -/
def phased (p : CrewPhase) (slot0 : Nat) : State :=
  { crewOf (fun c => { c with phase := p }) small with parts := [(0, { used := true, clusters := [0] })], cores := [(0, { slot0 })] }
/-- Slot 1 is the running one and has nothing to issue. -/
def otherSlot : State := coreOf (fun c => { c with running := 1 }) small
/-- A run of context 6 that takes whole cores is ready while context 2 is resident. -/
def contended : State := { small with
  ctxs := [(2, { used := true, level := 2^30, cap := 2^40 }), (6, { used := true, pages := 0x100000 })],
  queues := [(0, { queue0 with ctx := 6, pend := [{ seq := 1, desc := 0, ready := true, got := some ({ foot := .full }, {}) }] })],
  parts := [(0, { used := true, clusters := [0] })] }

theorem witness_ResidencyEvents : (small.crew 3).phase = .running ∧
    (let s := phased .leaving 3
     (s.crew 3).phase = .leaving ∧ (s.ctx (s.crew 3).ctx).stop = none ∧ drained s 3 = true ∧
      ∀ c ∈ (s.crew 3).cores, (s.lease c (s.crew 3).ctx).asked = false) ∧
    (let s := phased .saved 0
     (s.crew 3).phase = .saved ∧ (s.ctx (s.crew 3).ctx).stop = none ∧ offers s 3 0 0 = true) ∧
    (¬((otherSlot.core 0).crewAt 1 ≠ 0 ∧ (otherSlot.core 0).crewAt (1 - 1) ≠ 0) ∧ eligible otherSlot 0 (1 - 1) = true ∧ eligible otherSlot 0 1 = false) ∧
    (contended.resident 0 2 = true ∧ waiterFor contended (contended.ctx 2).part 0 2 (residentPrio contended 0 2) = true) ∧
    (let s := coreOf (fun c => { c with leases := [(2, { asked := true })] }) small
     (s.lease 0 2).asked = true ∧ s.resident 0 2 = true) := by decide +kernel

/-! Energy, power, HBM4E, seals. -/

def domain0 (d : Domain) : State := { small with doms := [(0, d)] }
def islandOf (i : Island) : State := { small with islands := [(0, i)], vds := [(7, { part := some 1 })], parts := [(1, { used := true, clusters := [0] })] }

theorem witness_EnergyEvents : (∀ p ∈ small.ctxs, p.2.destroyed = false) ∧
    (((domain0 { count := 65535 }).dom 0).e = 0 ∧ ((domain0 { count := 65535 }).dom 0).count = 65535) ∧
    (let s := domain0 { count := 65535, e := 5, part := [(2, 5)] }
     (s.dom 0).part = [(2, (s.dom 0).e)] ∧ 0 < (s.dom 0).e ∧ (s.dom 0).count = 65535) ∧
    (let s : State := { small with msc := { cycle := 65535 } }
     s.msc.cycle % 65536 = 65535) ∧ (small.dom 255).count ≠ 65535 ∧ small.msc.cycle % 65536 ≠ 65535 ∧
    (((islandOf {}).vd 7).part = some 1 ∧ 0 ∈ ((islandOf {}).part 1).clusters ∧ ((islandOf {}).island 0).allow.getLsbD (15 % 16) = true ∧
      ((islandOf {}).island 0).changing = false ∧ ({ ((islandOf {}).island 0) with req := 15 % 16 } : Island).target ≠ ((islandOf {}).island 0).cur) ∧
    (∀ g ∈ [3, 12, 15], ((islandOf { changing := true, goal := g }).island 0).changing = true) := by decide +kernel

def powered (p : Power) : State := { small with power := p }
/-- Package 3 of the rack has sent demand 1,500 and weight 2 for epoch 4. -/
def peer3 : Member := { msgs := [{ epoch := 4, demand := 1500, weight := 2 }], missed := 3 }
def racked (cap : Nat) : State := powered { rack := { cap, weight := 1 }, epoch := 4, members := [(3, peer3)] }

theorem witness_LimitEvents : (3400 < 3401 ∧ (powered {}).power.halved = false) ∧ (3199 < 3200 ∧ (powered { halved := true }).power.halved = true) ∧
    ((islandOf { halved := some (12, 96) }).island 0).halved = some (12, 96) ∧
    ((powered {}).power.bound = false ∧ (powered { bound := true }).power.bound = true ∧ (powered {}).power.rack.cap = 0 ∧ (powered {}).power.nextRack = none) ∧
    ((powered { nextRack := some (1, { cap := 5000, weight := 1 }) }).power.nextRack = some (1, { cap := 5000, weight := 1 })) ∧
    (∀ c ∈ [2399, 2400, 2700, 5000], (racked c).power.nextRack = none ∧ (racked c).power.conservative = false ∧ (racked c).power.members = [(3, peer3)] ∧
      peer3.upTo (racked c).power.epoch = some { epoch := 4, demand := 1500, weight := 2 } ∧ 0 < (racked c).power.rack.cap) ∧
    ((racked 2700).power.demand + 1500 ≤ (racked 2700).power.rack.cap ∧ 1200 ≤ (racked 2700).power.demand ∧ 0 < (racked 2700).power.rack.weight) ∧
    (0 < 1 ∧ ∀ b ∈ (Tab.get {} (racked 5000).power.members 3 : Member).msgs, b.epoch ≤ 4) ∧ 1 ≠ (racked 5000).power.rack.group ∧
    3 ≤ peer3.missed ∧ (racked 5000).power.rack.cap ≠ 0 := by decide +kernel

/-- The limit binds at 2,400 W; VD 0 on slice 3 has used the most lines, and has a budget of 100. -/
def bound : State := { powered { binding := true, bound := true, windows := 2 } with msc := { lastUsed := [(3 * 256, 9), (3 * 256 + 4, 8)], budgets := [(3 * 256, 100)] } }
/-- Queues 0 and 64 of the two partitions' VDs; the first has the larger deficit, and its partition's higher point is island 3's. -/
def owing : State := { bound with
  queues := [(0, { queue0 with deficit := 9, energy := 5 }), (64, { queue0 with deficit := 8, pw := 1 })],
  vds := [(0, { part := some 0 }), (1, { part := some 1 })],
  parts := [(0, { used := true, clusters := [2, 3, 4] }), (1, { used := true, clusters := [5] })],
  islands := [(3, { cur := 14 }), (4, { cur := 14 })], doms := [(3, { count := 65535 }), (5, { count := 65535 })] }

theorem witness_LimitEvents_budget : 97 * limitInForce bound < 100 * 2400 ∧ (3 * 256) / 256 = 3 ∧ (bound.msc.lastUsed.map (·.1)).Nodup ∧
    Tab.get 0 bound.msc.lastUsed (3 * 256) ≠ 0 ∧ Tab.get 0xFFFF bound.msc.budgets (3 * 256) ≠ 0 ∧
    ∀ p ∈ bound.msc.lastUsed, p.1 ≠ 3 * 256 → p.2 < Tab.get 0 bound.msc.lastUsed (3 * 256) := by decide +kernel

theorem witness_LimitEvents_falls : ((owing.dom 3).count = 65535 ∧ owing.power.binding = true ∧ owing.power.windows ≠ 0 ∧ LimitFalls owing 3) ∧
    ((powered { windows := 2 }).power.binding = false ∧ ((domain0 { count := 65535 }).dom 0).count = 65535) :=
  ⟨⟨rfl, rfl, by decide, 0, 0, by decide +kernel⟩, by decide +kernel⟩

theorem witness_LimitEvents_pauses : owing.power.bound = true ∧ (owing.queues.map (·.1)).Nodup ∧ (owing.ctx (owing.queue 64).ctx).used = true ∧
    pausesFirst owing 0 64 = true := by decide +kernel

def channel (p : PChan) : State := { small with hbm := [(9, p)] }

theorem witness_RefreshEvents_transfers :
    (let s := channel { post := 7, busFree := 1040, lastDue := 999, queue := [{ tile := 0, write := true }, { tile := 64 * 16 }], bankFree := [(0, 1001)] }
     let p := (s.pchan 9).reach 1000
     p.post ≠ 8 ∧ p.refab = none ∧ p.busFree ≤ 1000 + 40 ∧
      p.queue.find? (fun y => decide (Tab.get 0 p.bankFree (bankOf y.tile) ≤ 1000)) = some { tile := 64 * 16 }) ∧
    (((channel { active := [(4, 1000)] }).pchan 9).active.find? (fun x => bankOf x.1 == bankOf 4 && decide (x.2 ≤ 1000)) = some (4, 1000)) := by decide +kernel

theorem witness_RefreshEvents :
    (let p := (channel { lastDue := 659, active := [(4, 1001)], post := 6 }).pchan 9
     Settled p 1000 ∧ ¬Idle p 1000 ∧ p.post < 7) ∧
    (let p := (channel { lastDue := 659, active := [(4, 1001)], post := 7 }).pchan 9
     Settled p 1000 ∧ ¬Idle p 1000 ∧ p.post = 7 ∧ p.active ≠ []) ∧
    (let p := (channel { lastDue := 659, lastBusy := some 489, post := 7 }).pchan 9
     Settled p 1000 ∧ ¬Idle p 1000 ∧ p.post = 7 ∧ p.active = [] ∧ ∀ b, b < 16 → BankFree p b 1000) ∧
    (let p := (channel { lastDue := 659, lastBusy := some 488, next := 15 }).pchan 9
     Settled p 1000 ∧ Idle p 1000 ∧ p.post = 0 ∧ BankFree p p.next 1000) := by decide +kernel

theorem witness_RefreshEvents_idle : (let p := (channel { lastDue := 659, next := 15, bankFree := [(15, 1001)] }).pchan 9
     Settled p 1000 ∧ Idle p 1000 ∧ p.post = 0 ∧ ¬BankFree p p.next 1000) ∧
    (let p := (channel { lastDue := 660, lastBusy := some 488, post := 7, next := 15 }).pchan 9
     1000 < p.lastDue + 341 ∧ Settled p 1000 ∧ Idle p 1000 ∧ 0 < p.post ∧ p.post < 8 ∧ p.next < 16 ∧ max (idleStart p) (Tab.get 0 p.bankFree p.next) ≤ 1000) ∧
    (let p := (channel { lastDue := 660, refab := some 1000 }).pchan 9
     p.refab = some 1000 ∧ 1000 < p.lastDue + 341 ∧ p.pending = [] ∧ p.post = 0 ∧ ∀ a ∈ p.active, 1000 < a.2) ∧
    (let p := (channel { lastDue := 660, refab := some 1001 }).pchan 9
     p.refab = some 1001 ∧ 1000 < p.lastDue + 341 ∧ ∀ a ∈ p.active, 1000 < a.2) := by decide +kernel

/-- Frame 1 belongs to VD 0; slot 0 is resealed to generation 1. -/
def resealing (done : List Nat) : State := { small with sealing := { owners := [(1, { owner := 1 })], slots := [(0, { cur := 1, prev := some 0, reseal := true, doneSlices := done })] } }

theorem witness_SealingEvents : ResealsNext (resealing []) 0 2 0 ∧
    (((resealing (List.range 15)).keySlot 0).reseal = true ∧ 15 ∉ ((resealing (List.range 15)).keySlot 0).doneSlices ∧
      nextLocal (resealing (List.range 15)) 0 15 (Tab.get 0 ((resealing (List.range 15)).keySlot 0).cursor 15) = none) ∧
    (((resealing (List.range 16)).keySlot 0).doneSlices.length = 16 ∧ ∀ p ∈ (resealing (List.range 16)).msc.tiles, p.2.stalled = false) ∧
    (let s : State := { small with scrub := [(2, { on := true })] }
     (Tab.get {} s.scrub 2 : Scrub).on = true ∧ (s.tileMeta (tileAt 2 0)).errs = [] ∧ tileAt 2 0 / 2 < 2^40 ∧ s.mscTile? (tileAt 2 0) = none ∧
      s.poisoned (tileAt 2 0) = false ∧ (s.sealing.poison.filter fun q => homeSlice q.1 == homeSlice (tileAt 2 0)).length < 4096) ∧
    (15 < 16 ∧ 2^28 - 1 < 2^28) ∧
    (((islandOf { state := .marked }).island 0).state = .marked ∧ (small.core (2 * 5)).slot0 = 0 ∧ (small.core (2 * 5 + 1)).slot1 = 0) ∧
    (167 % 2^32 < 168 ∧ (small.island 0).state = .enabled) ∧
    (let s : State := { small with sealing := { poison := [(3, { incident := 1 })] } }
     s.poisoned (2 * 1 + 1) = true ∧ frameInFlight s 1 = false) := by decide +kernel

/-! The host: a request in the mailbox, with tag 9. Context 2 is VD 0's, which is attached to partition 0; partition 1 has no VD. -/

def request (op : Nat) (l : List (Nat × Nat × Nat)) : List Byte :=
  l.foldl (fun b x => b.take x.1 ++ leBytes x.2.2 x.2.1 ++ b.drop (x.1 + x.2.1)) (leBytes op 1 ++ leBytes 0 1 ++ leBytes 9 2 ++ leBytes 0 60)
def tenant : State := { ctxs := [(1, { used := true }), (2, { used := true, cap := 2^40 })],
                        vds := [(0, { part := some 0 }), (5, { part := some 0 }), (6, { tstate := .locked })],
                        parts := [(0, { used := true, clusters := [0, 1, 2, 3] }), (1, { used := true, clusters := [4] })] }
def mailed (op : Nat) (l : List (Nat × Nat × Nat)) : State := { tenant with host := { doorbell := true, req := request op l } }

theorem witness_ContextCommands_refused : (∃ p, commandForm (mailed 0x04 [(4, 2, 255), (6, 2, 1), (60, 1, 1)]) .setAllow = some p ∧
      mailMalformed (mailed 0x04 [(4, 2, 255), (6, 2, 1), (60, 1, 1)]) p.1 = true) ∧
    (∃ p, commandForm (mailed 0x04 [(4, 2, 256), (6, 2, 1)]) .setAllow = some p ∧ mailMalformed (mailed 0x04 [(4, 2, 256), (6, 2, 1)]) p.1 = false ∧
      firstReason p.2 = some 1) := ⟨⟨_, rfl, by decide +kernel⟩, ⟨_, rfl, by decide +kernel⟩⟩

/-- Context 3 is free. -/
theorem taken_tenant (h : HostSide) : ((List.range 65535).all fun i => taken { tenant with host := h } (i + 1)) = false :=
  List.all_eq_false.mpr ⟨2, List.mem_range.mpr (by decide), by show ¬taken { tenant with host := h } 3 = true; exact Bool.noConfusion⟩

theorem witness_ContextCommands_create : let s := mailed 0x01 [(4, 4, 0xFFFFFFFF), (8, 8, 0x10000), (16, 8, 0x20000), (24, 3, 9)]
    Asks s .contextCreate recordParams (againstRecord s true) ∧ 0 < 3 ∧ 3 < 65536 ∧ taken s 3 = false ∧ ∀ m, 0 < m → m < 3 → taken s m = true := by
  refine ⟨⟨rfl, by decide +kernel, by decide +kernel, ?_⟩, by decide, by decide, by decide +kernel, ?_⟩
  · have h := taken_tenant (mailed 0x01 [(4, 4, 0xFFFFFFFF), (8, 8, 0x10000), (16, 8, 0x20000), (24, 3, 9)]).host
    unfold againstRecord
    rw [show ((List.range 65535).all fun i => taken (mailed 0x01 [(4, 4, 0xFFFFFFFF), (8, 8, 0x10000), (16, 8, 0x20000), (24, 3, 9)]) (i + 1)) = false from h]
    decide +kernel
  · intro m h0 h3
    obtain rfl | rfl : m = 1 ∨ m = 2 := by omega
    all_goals decide +kernel

/-- Commands that are refused: SHARE 0, a context and a partition that no one has, a core above 511. -/
theorem witness_ContextCommands_refusals :
    (let s := mailed 0x03 [(4, 4, 2), (8, 1, 2)]
     mailEvent s = .bucketShareWrite ∧ mailMalformed s bucketParams = false ∧ firstReason (againstBucket s) = some 1) ∧
    (let s := mailed 0x02 [(4, 4, 7), (8, 8, 1)]
     mailEvent s = .bucketDeposit ∧ firstReason [(decide (ask s 8 8 = 0 ∨ 2^62 < ask s 8 8), 1), (!(s.ctx (ask s 4 4)).used, 3)] = some 3) ∧
    (let s := mailed 0x08 [(4, 4, 0xFFFFFFFF), (8, 1, 1), (9, 1, 9), (16, 8, 64)]
     mailEvent s = .meterRecordRequest ∧ firstReason (againstRecordRequest s) = some 3) ∧
    (let s := mailed 0x09 [(4, 4, 2), (8, 2, 512)]
     mailEvent s = .streamOutOrder ∧ firstReason [(decide (511 < ask s 8 2 ∧ ask s 8 2 ≠ 0xFFFF), 1), (!(s.ctx (ask s 4 4)).used, 3)] = some 1) := by
  decide +kernel

theorem witness_ContextCommands :
    (let s := mailed 0x01 [(4, 4, 2), (8, 8, 0x10000), (16, 8, 0x20000), (24, 3, 9), (28, 1, 1)]
     Asks s .contextRewrite recordParams (againstRecord s false)) ∧
    (let s := mailed 0x10 [(4, 4, 2)]
     Asks s .contextDestroy [(4, 4)] [((s.ctx (ask s 4 4)).used && contextBusy s (ask s 4 4), 2), (!(s.ctx (ask s 4 4)).used, 3)]) ∧
    (let s := mailed 0x02 [(4, 4, 2), (8, 8, 2^62)]
     Asks s .bucketDeposit [(4, 12)] [(decide (ask s 8 8 = 0 ∨ 2^62 < ask s 8 8), 1), (!(s.ctx (ask s 4 4)).used, 3)]) ∧
    (∀ p ∈ [(3, Instr.bucketCapWrite), (2, .bucketShareWrite), (0, .bucketRead)],
      let s := mailed 0x03 [(4, 4, 2), (8, 1, p.1), (16, 8, 2^62), (24, 1, 255)]
      Asks s p.2 bucketParams (againstBucket s)) ∧
    (let s := mailed 0x08 [(4, 4, 2), (12, 4, 77), (16, 8, 2^48 - 64)]
     ask s 4 4 ≠ 0xFFFFFFFF ∧ Asks s .meterRecordRequest [(4, 6), (12, 12)] (againstRecordRequest s)) ∧
    (∀ p ∈ [(0, 63), (1, 1), (2, 0)], let s := mailed 0x08 [(4, 4, 0xFFFFFFFF), (8, 1, p.1), (9, 1, p.2), (12, 4, 77), (16, 8, 64)]
     ask s 4 4 = 0xFFFFFFFF ∧ Asks s .meterRecordRequest [(4, 6), (12, 12)] (againstRecordRequest s)) ∧
    (let s := mailed 0x09 [(4, 4, 2), (8, 2, 511)]
     ask s 8 2 ≠ 0xFFFF ∧ Asks s .streamOutOrder [(4, 6)] [(decide (511 < ask s 8 2), 1), (!(s.ctx (ask s 4 4)).used, 3)]) ∧
    (let s := mailed 0x09 [(4, 4, 2), (8, 2, 0xFFFF)]
     ask s 8 2 = 0xFFFF ∧ Asks s .streamOutOrder [(4, 6)] [(!(s.ctx (ask s 4 4)).used, 3)]) ∧
    (let s := mailed 0x0B [(4, 4, 2), (8, 8, 0x5000)]
     Asks s .pageResume pageParams (againstPage s) ∧ s.queues = [] ∧ s.flight.loads = [] ∧ s.flight.atoms = []) ∧
    (let s := mailed 0x0B [(4, 4, 2), (8, 8, 0x5000), (16, 1, 1)]
     Asks s .pageInvalid pageParams (againstPage s) ∧ s.host.kept = [] ∧ (s.ctx (ask s 4 4)).stop = none) := by decide +kernel

theorem witness_DeviceCommands_points :
    (let s := mailed 0x04 [(4, 2, 255), (6, 2, 1)]
     Asks s .setAllow [(4, 4)] [(decide (255 < ask s 4 2) || decide (ask s 6 2 = 0), 1)]) ∧
    (let s := mailed 0x05 [(4, 1, 63), (5, 1, 3), (8, 8, 2^48 - 1)]
     Asks s .wayMaskWrite [(4, 2), (8, 8)] [(decide (63 < ask s 4 1) || decide (3 < ask s 5 1) || decide (2^48 ≤ ask s 8 8), 1)]) ∧
    (let s := mailed 0x07 [(6, 2, 3000)]
     Asks s .setSustainedLimit limitParams [(ask s 4 1 != 0 || decide (ask s 6 2 < 1200) || decide (3000 < ask s 6 2) || ask s 6 2 % 25 != 0, 1)]) ∧
    (let s := mailed 0x07 [(4, 1, 1), (6, 2, 5000), (8, 2, 3), (10, 4, 2), (14, 1, 1)]
     Asks s .setRackCap limitParams [(ask s 14 1 == 0, 1)]) ∧
    (let s := mailed 0x0A [(5, 1, 1), (6, 1, 63)]
     Asks s .vdDrainSet drainParams (drainReasons s)) ∧
    (let s := mailed 0x0A [(6, 1, 63)]
     Asks s .vdDrainClear drainParams (drainReasons s) ∧ s.host.drainSet = false ∧ s.host.failed = false) ∧
    (let s := mailed 0x0A [(4, 1, 1), (5, 1, 1)]
     Asks s .deviceDrainSet drainParams (drainReasons s)) ∧
    (let s := mailed 0x0A [(4, 1, 1)]
     Asks s .deviceDrainClear drainParams (drainReasons s)) := by decide +kernel

theorem witness_DeviceCommands_partitions :
    (let s := mailed 0x0D [(5, 1, 63), (8, 8, 0x60)]
     Asks s .partitionCreate partParams [(decide (1 < ask s 4 1) || decide (63 < ask s 5 1) || (maskClusters s).isEmpty, 1),
       ((s.part (ask s 5 1)).used || (maskClusters s).any fun c => (s.island c).state != .enabled || (partOfCluster s c).isSome, 2)]) ∧
    (let s := mailed 0x0D [(4, 1, 1), (5, 1, 1)]
     Asks s .partitionDestroy partParams [(decide (63 < ask s 5 1), 1),
       ((s.part (ask s 5 1)).used && ((s.vds.any fun v => v.2.part == some (ask s 5 1)) || s.sealing.owners.any fun o => o.2.owner == 0xFFFE && o.2.part == ask s 5 1), 2),
       (!(s.part (ask s 5 1)).used, 3)]) ∧
    (let s := mailed 0x0E [(4, 1, 63), (5, 1, 1)]
     Asks s .vdAttach [(4, 2)] (attachReasons s true)) ∧
    (let s := mailed 0x0E [(4, 1, 5), (5, 1, 0xFF)]
     Asks s .vdDetach [(4, 2)] (attachReasons s false)) ∧
    (let s := mailed 0x55 []
     s.host.doorbell = true ∧ mailEvent s = .mailboxUnknownCommand) := by decide +kernel

/-- HDM window 63 of VD 0 and window 62 of the locked VD 6. -/
def windows (s : State) : State := { s with host := { s.host with hdm := [(62, { used := true, vd := 6, len := 0x10000000 }), (63, { used := true, vd := 0, len := 0x10000000 })] } }

theorem witness_MappingCommands :
    (let s := mailed 0x0C [(8, 8, 0x5000), (16, 4, 1), (20, 2, 1)]
     Asks s .frameOwnerChange frameParams (frameReasons s) ∧ framesOf s = [5] ∧ frameInFlight s 5 = false ∧ s.queues = [] ∧ waitingPages (shootDown s 5) = [] ∧
      (s.tileMeta 10).version < 0xFFFFFFFF ∧ (s.tileMeta 11).version < 0xFFFFFFFF ∧ s.poisoned 10 = false ∧ s.poisoned 11 = false) ∧
    (let s := windows (mailed 0x06 [(4, 1, 1), (8, 8, 0x13D00000000), (16, 8, 0x80000000)])
     Asks s .hdmBind hdmParams [(hdmBad s, 1), ((hdmOf s (ask s 4 1)).used, 2)] ∧ (s.vd (ask s 6 1)).locked = false) ∧
    (let s := windows (mailed 0x06 [(4, 1, 1), (6, 1, 6), (16, 8, 0x10000000)])
     Asks s .hdmBind hdmParams [(hdmBad s, 1), ((hdmOf s (ask s 4 1)).used, 2)] ∧ (s.vd (ask s 6 1)).locked = true) ∧
    (let s := windows (mailed 0x06 [(4, 1, 63), (5, 1, 1), (16, 8, 0x10000000)])
     Asks s .hdmMove hdmParams [(hdmBad s, 1), (!(hdmOf s (ask s 4 1)).used || (hdmOf s (ask s 4 1)).vd != ask s 6 1, 3)] ∧
      (s.vd (hdmOf s (ask s 4 1)).vd).locked = false) ∧
    (let s := windows (mailed 0x06 [(4, 1, 63), (5, 1, 2)])
     Asks s .hdmClear hdmParams [(hdmBad s, 1), (!(hdmOf s (ask s 4 1)).used, 3)] ∧ (s.vd (hdmOf s (ask s 4 1)).vd).locked = false) := by decide +kernel

theorem witness_MappingCommands_ring :
    (let s := mailed 0x0F [(5, 1, 255), (6, 1, 63), (8, 2, 64)]
     Asks s .importWrite importParams
       [(decide (1 < ask s 4 1) || decide (63 < ask s 6 1) || ask s 8 2 == 0 || (decide (64 < ask s 8 2) && decide (ask s 8 2 < 0xFFFE)), 1)]) ∧
    (let s := mailed 0x0F [(4, 1, 1), (5, 1, 255), (6, 1, 63)]
     Asks s .importClear importParams [(decide (63 < ask s 6 1), 1)]) ∧
    (let s := mailed 0x11 [(8, 8, 0x1000), (16, 1, 12), (17, 1, 7), (18, 1, 1)]
     Asks s .eventRingEnable ringParams (ringReasons s) ∧ s.host.kept = []) ∧
    (let s := mailed 0x11 [(8, 8, 0x1000)]
     Asks s .eventRingDisable ringParams (ringReasons s)) ∧ tenant.host.kept = [] := by decide +kernel

theorem witness_HostEvents :
    ((hdmOf (windows owned) 3).used = false ∧ (hdmOf (windows owned) 63).len ≤ 0x10000000 ∧ (hdmOf (windows owned) 63).len ≤ 0x1000003F / 64 * 64 ∧
      0x1000003F < 2^48) ∧ (tenant.host.kept = [] ∧ 1 ≠ 5 ∧ 1 < 2^32 ∧ (loneFault 0x8F1 2 0).length ≤ 240) ∧
    (let s := windows owned
     (63 < 64 ∧ 0x103F < 2^48 ∧ (hdmOf s 63).used = true ∧ 0x103F / 64 * 64 < (hdmOf s 63).len ∧
      (sliceAccess s { pa := 0x1000, kind := 0, cls := 2, vd := 0, acct := vdAccount 0 }).2 = .ok) ∧
     0x103F < (hdmOf s 63).len ∧ (sliceAccess s { pa := 0x103F, kind := 1, cls := 2, vd := 0, acct := vdAccount 0 }).2 = .ok) ∧
    ((tenant.ctx 2).used = true ∧ (tenant.ctx 2).stop = none ∧ tenant.host.kept = [] ∧ tenant.flight = {} ∧ tenant.host.linkDown = false) ∧
    (tenant.sec.sessions = 0 ∧ ({ tenant with sec := { sessions := 1 } } : State).sec.sessions ≠ 0) ∧
    ((tenant.vd 5).tstate = .unlocked ∧ (tenant.vd 6).tstate = .locked ∧ (tenant.vd 6).tstate ≠ .unlocked ∧ (tenant.vd 6).tstate ≠ .error) := by decide +kernel

def secured (x : Security) (safe : List Nat) : State := { small with sec := x, fw := safe.map fun n => (n, { safe := true }) }

theorem witness_SecurityCommands : (secured { life := .manufacturing } []).sec.life ≠ .deployed ∧
    (let s := secured { staged := some (3, 1) } [0, 1, 2, 3, 4, 5, 6]
     s.sec.staged = some (3, 1) ∧ 7 ∈ affected 3 ∧ (s.proc 7).halted = false ∧ betweenPackets s 7 = true ∧
      ∀ j ∈ affected 3, j ≠ 7 → (s.proc j).safe = true) ∧
    (let s := secured { staged := some (4, 1) } [9, 10]
     s.sec.staged = some (4, 1) ∧ 8 ∈ affected 4 ∧ (s.proc 8).halted = false ∧ betweenPackets s 8 = true ∧
      ¬(∀ j ∈ affected 4, j ≠ 8 → (s.proc j).safe = true)) ∧
    (let s : State := { small with queues := [(0, { tries := 1 })] }
     betweenPackets s 0 = false) := by decide +kernel

/-- A token for the device and the latest challenge, with signature `sig`; whether that verifies is a free value. -/
def unlocking (sig : Nat) : Nat := 1 + 2 * 2^16 + Config.deviceId.toNat * 2^32 + 2^416 + 77 * 2^448 + sig * 2^512

theorem witness_SecurityCommands_token (sig : Nat) : unlocking sig % 2^16 = 1 ∧ unlocking sig / 2^16 % 2^16 = 2 ∧
    unlocking sig / 2^32 % 2^384 = Config.deviceId.toNat ∧ unlocking sig / 2^416 % 2^8 = 1 ∧ unlocking sig / 2^424 % 2^24 = 0 ∧
    unlocking sig / 2^448 % 2^64 = 77 ∧
    (let s := { secured { life := .deployed, challenge := some 77 } [] with ctxs := [] }
     s.sec.challenge = some 77 ∧ s.sec.life = .deployed ∧ ∀ c ∈ s.ctxs, c.2.used = false) := by
  have h := Config.deviceId.isLt
  unfold unlocking
  generalize Config.deviceId.toNat = d at h
  refine ⟨?_, ?_, ?_, ?_, ?_, ?_, by decide +kernel⟩ <;> omega

def ported (p : Port) : State := { owned with fabric := { ports := [(4, p)], imports := [(64 * 3 + 2, 1)] } }
def flit (h : Nat) : Flit := { header := h }

theorem witness_FabricEvents : ((ported { expect := 4095 }).port 4).state ≠ .down ∧ ((ported { expect := 4095 }).port 4).freezing = false ∧
    (goodHeader 0x1000FFF ∧ typeOf 0x1000FFF ≠ 0 ∧ typeOf 0x1000FFF ≠ 4 ∧ 0x1000FFF % 4096 = ((ported { expect := 4095 }).port 4).expect) ∧
    (goodHeader 0x6000BFE ∧ typeOf 0x6000BFE ≠ 0 ∧ typeOf 0x6000BFE ≠ 4 ∧ 0x6000BFE % 4096 ≠ ((ported { expect := 4095 }).port 4).expect ∧
      1024 < (4095 + 4096 - 0x6000BFE % 4096) % 4096 ∧ ((ported { expect := 4095 }).port 4).naked = false) ∧
    (7 ≤ typeOf 0x7000000 ∧ (2^30 : Nat) / 2^30 % 2^34 ≠ 0) ∧
    ((ported { replay := [flit 0x1000001, flit 0x1000002] }).port 4).replay ≠ [] ∧
    ((ported { state := .pending, bad := some 3 }).port 4).bad = some 3 ∧
    ((ported { freezing := true, state := .pending, replaying := 1 }).port 4).freezing = true ∧ ((ported { state := .down }).port 4).state = .down ∧
    crc32 (leBytes 0x1000001 8 ++ leBytes 7 244) ≠ 0 ∧
    (let s := { ported { freezing := true } with flight := {} }
     (s.port 4).freezing = true ∧ s.flight.loads = [] ∧ s.flight.stores = [] ∧ s.flight.atoms = []) ∧
    (Tab.get 0 (ported {}).fabric.imports (64 * 3 + 2) = 1 ∧ (ported {}).port 4 = {} ∧ (ported {}).queues = [] ∧ 0x1000 < 0x013D80000000 ∧
      (sliceAccess (ported {}) { pa := 0x1000, kind := 0, vd := 0, acct := frameAccount (ported {}) 0x1000, asOwner := 1 }).2 = .ok ∧
      (sliceAccess (ported {}) { pa := 0x1004, kind := 1, vd := 0, acct := frameAccount (ported {}) 0x1004, asOwner := 1 }).2 = .ok ∧
      (sliceAccess (ported {}) { pa := 0x1004, kind := 2, vd := 0, acct := frameAccount (ported {}) 0x1004, asOwner := 1 }).2 = .ok ∧
      (2^8 + 4 : Nat).testBit 8 = true ∧ (4 : Nat).testBit 8 = false) ∧
    Tab.get 0 (ported {}).fabric.imports (64 * 3 + 3) = 0 := by decide +kernel

theorem witness_FabricEvents_unacked : Unacked ((ported { replay := [flit 0x1000001, flit 0x1000002] }).port 4) ((2 + 4095) % 4096) [flit 0x1000002] :=
  .inl ⟨[], flit 0x1000001, by decide +kernel, by decide +kernel, by simp⟩

/-! The step. -/

def executable : TlbEntry := { hostPage with pa := 0x1000, x := true }
/-- The convoy is to issue from frame 1, whose memory holds the given words from 0x1000. -/
def ready (l : List Nat) : State :=
  { owned with cores := [(0, { slot0 := 3, tlb := [executable] })], issue := [5], mem := Tab.putRun 0 0x1000 (l.flatMap fun w => leBytes w 4) [] }

/-- The state after a fetch of convoy 5 that its slice serves. -/
def served (src : FaultRec) (s : State) (pa va w : Nat) : State :=
  pathSet (sliceAccess s { pa, vd := 0, acct := 2, crew := 3, ctx := [2], core := some 0, free := true, src }).1 0 2 va w

theorem reads_served (src : FaultRec) (s : State) (pa va w : Nat) (h : va < 2^57 ∧ (s.convoy 5).core = 0 ∧ (s.convoy 5).crew = 3 ∧ (s.crew 3).ctx = 2 ∧
    (s.ctx 2).vd = 0 ∧ tlbFind (s.core 0).tlb 2 0 va = some executable ∧ entryOutcome executable va false true = .ok pa ∧ pathWord (s.core 0) 2 va = none ∧
    usable pa = true ∧ (sliceAccess s { pa, vd := 0, acct := 2, crew := 3, ctx := [2], core := some 0, free := true, src }).2 = .ok ∧
    w = lineAt (sliceAccess s { pa, vd := 0, acct := 2, crew := 3, ctx := [2], core := some 0, free := true, src }).1 pa 4) :
    FetchReads src s (served src s pa va w) 5 va w := by
  obtain ⟨hv, hc, hk, hn, hd, ht, he, hp, hu, hr, hw⟩ := h
  unfold FetchReads
  simp only [hc, hk, hn, hd]
  exact ⟨hv, executable, pa, ht, he, .inr ⟨fun old h => (by rw [hp] at h; cases h), hu, hr, hw, rfl⟩⟩

def issuing (l : List Nat) : State := { ready l with issue := [], cur := 5 }
def whose (s : State) : FaultRec := threadRec s (s.convoy 5).core (s.convoy 5).crew (whoOf s ((s.convoy 5).keys.headD 0)) (s.convoy 5).pc (s.convoy 5).pc 0

/-- The state after convoy 5 has fetched its first word, and its second. -/
def fetched1 (l : List Nat) : State := served (whose (issuing l)) (issuing l) 0x1000 0x1000 (l.headD 0)
def fetched2 (l : List Nat) : State := served (whose (issuing l)) (fetched1 l) 0x1004 0x1004 (l.getD 1 0)

theorem witness_StepRunsTheInstruction_convoy : (∀ l ∈ [[0], [0xD6A24983, 0x010C0000]], (ready l).due = [] ∧ (ready l).fwIssue = [] ∧ (ready l).issue = [5] ∧
      ((ready l).convoy 5).members ≠ [] ∧ ((ready l).convoy 5).hold = .none) ∧
    Fetches (issuing [0]) (fetched1 [0]) 5 (.iadd 0 0 0 0 0) ∧
    Fetches (issuing [0xD6A24983, 0x010C0000]) (fetched2 [0xD6A24983, 0x010C0000]) 5 (.cpy 20 18 19 0 3 1 6) := by
  refine ⟨by decide +kernel, ⟨0, 0, .inr ⟨by decide +kernel, _, reads_served _ _ _ _ _ (by decide +kernel), .inl ⟨by decide, rfl, rfl⟩⟩, by decide +kernel⟩, ?_⟩
  have h : lenOf 0xD6A24983 = 2 ∧ ((fetched1 [0xD6A24983, 0x010C0000]).convoy 5).core = 0 ∧ ((fetched1 [0xD6A24983, 0x010C0000]).convoy 5).crew = 3 ∧
    ((fetched1 [0xD6A24983, 0x010C0000]).crew ((fetched1 [0xD6A24983, 0x010C0000]).convoy 5).crew).ctx = 2 := by decide +kernel
  exact ⟨0xD6A24983, 0x010C0000, .inr ⟨by decide +kernel, fetched1 [0xD6A24983, 0x010C0000], reads_served _ _ _ _ _ (by decide +kernel),
    .inr ⟨h.1, h.2.1, h.2.2.1, h.2.2.2, reads_served _ _ _ _ _ (by decide +kernel)⟩⟩, by decide +kernel⟩

/-- Words in hand: taken as they are, or with a fault settled against them at their presentation. -/
def inHand5 (h : InHand) : State := { ready [0] with words := [(5, some h)] }

theorem witness_StepRunsTheInstruction_inHand : let s := { inHand5 { pc := 0x1000, w0 := 0x341FFFDA } with issue := [], cur := 5 }
    Fetches s (s.setHand 5 none) 5 (.movi 3 0xFFFB 2) :=
  ⟨0x341FFFDA, 0, .inl ⟨{ pc := 0x1000, w0 := 0x341FFFDA }, by decide +kernel, rfl, rfl, rfl, rfl⟩, by decide +kernel⟩

theorem witness_ReservedEncodings_words : (((ready [0xFFFFFFFF]).convoy 5).hold = .none ∧ (fetched1 [0xFFFFFFFF]).cur = 5 ∧ decode 0xFFFFFFFF 0 = none ∧
      Handles (fetched1 [0xFFFFFFFF])) ∧ Takes (issuing [0xFFFFFFFF]) (fetched1 [0xFFFFFFFF]) 5 0xFFFFFFFF 0 ∧
    (∀ c ∈ [0x001, 0x040], let s := inHand5 { pc := 0x1000, w0 := 0x3C104258, verdict := some c }
      s.due = [] ∧ s.fwIssue = [] ∧ s.issue = [5] ∧ (s.convoy 5).members ≠ [] ∧ (s.convoy 5).hold = .none ∧
        s.inHand 5 = some { pc := 0x1000, w0 := 0x3C104258, verdict := some c } ∧ decode 0x3C104258 0 = some (.fadd 2 2 9 3 0) ∧
        softwareTrap (.fadd 2 2 9 3 0) = none ∧ Handles (at_ 5 s)) :=
  ⟨by decide +kernel, .inr ⟨by decide +kernel, _, reads_served _ _ _ _ _ (by decide +kernel), .inl ⟨by decide, rfl, rfl⟩⟩, by decide +kernel⟩

theorem witness_ReservedEncodings_lacks : Lacks small (.bari 64 16 0) ∧ Lacks small (.bara 64) ∧ Lacks small (.barw 64 0) ∧ Lacks small (.bart 64 0) ∧
    Lacks small (.mma 4 3 16 1 0 31 1 63 7) ∧ Lacks small (.mmab 0 3 16 1 1 31 0 0 7) ∧ Lacks small (.mmaj 0 3 16 0 1 31 1 64 7) ∧ Lacks small (.tzero 4) ∧
    Lacks small (.tld 0 16 4 63 0) ∧ Lacks small (.tst 0 16 3 63 0 1 64) ∧ Lacks small (.resv 31 1 0 0 0 1 0 0) ∧ Lacks small (.relsUnit 32) ∧
    Lacks small (.cpy 16 18 20 0 1 1 64) ∧ Lacks small (.cpyg 16 18 21 1 1 1 64) ∧ Lacks small (.cpyt 32 16 0 0 0 0 0 0) ∧ Lacks small (.spawn 2 0 0) ∧
    Lacks small (.cvt 3 63 0 1 0 1) ∧ Lacks small (.cvti 3 63 0 1 0 0) ∧ Lacks small (.cvtf 3 63 0 7 0 0) ∧ Lacks small (.fclass 3 1 2 0) ∧
    Lacks small (.afadd 3 4 0 1 0 2 3 1 0) ∧ members small ≠ [] ∧ Handles small := by
  unfold Lacks; decide +kernel

open Sys2Proof.Renvas (tx)

theorem witness_ReservedEncodings_assembler : (15 < 16 ∧ 0x10 < 0x1000 ∧ threadRegister {} 0 0x10 = none) ∧
    (Renvas.words [] 0 none (tx "nop") [] []).isSome = true ∧
    (Renvas.lineBytes (fun _ => 0x100) [] .start ⟨some (tx "v3"), .empty⟩).isNone = true ∧ Renvas.reserved (tx "v3") = true ∧
    (Renvas.lineBytes (fun _ => 0x100) [] { sects := [⟨tx "rw", false, true, 16⟩], cur := tx "rw" } ⟨some (tx "a"), .dir (tx "data") [tx "4", tx "7"]⟩).isSome = true := by
  decide +kernel

theorem witness_StepRunsTheInstruction :
    (∀ w ∈ [0x00C5850B, 0x0000700B, 0xFFF50593], let s := fw 8 { sram := Tab.putRun 0 0 (leBytes w 4) [] }
      s.due = [] ∧ { s with fwIssue := [8] }.fwIssue = [8] ∧ (s.proc 8).halted = false ∧ (s.proc 8).waiting = none ∧ (s.proc 8).safe = false ∧
      (s.proc 8).pc % 2 = 0 ∧ (s.proc 8).pc + 4 ≤ 0x40000 ∧ leNat (Tab.getRun 0 (s.proc 8).sram (s.proc 8).pc 4) = w) ∧
    (0x00C5850B % 128 = 0x0B ∧ (decodeX 0x00C5850B).isSome) ∧ (0x0000700B % 128 = 0x0B ∧ decodeX 0x0000700B = none) ∧
    (0xFFF50593 % 128 ≠ 0x0B ∧ 11 < 32 ∧ 10 < 32 ∧ 0xFFF50593 = 0x13 + 2^7 * 11 + 2^15 * 10 + 2^20 * (0xFFF : BitVec 12).toNat) ∧
    (let s : State := { small with issue := [], barBytes := [(3, 63, 128)] }
     s.due = [] ∧ s.fwIssue = [] ∧ s.issue = [] ∧ (s.crew 3).phase ≠ .none ∧ (s.crew 3).phase ≠ .ended ∧ (Tab.get {} (s.crew 3).bars 63 : Barrier).ovf = false) ∧
    (∀ n ∈ [1, 254, 255], let s : State := { small with issue := [], turn := n }
     s.due = [] ∧ s.fwIssue = [] ∧ s.issue = [] ∧ s.barBytes = [] ∧ s.turn = n ∧ (s.dom n).count ≠ 65535 ∧ clusterDue s n = []) ∧
    (let s : State := { small with issue := [], msc := { round := .over, cycle := 65535 } }
     s.turn = 0 ∧ s.msc.round = .over ∧ s.msc.cycle % 65536 = 65535) ∧
    ¬(small.turn = 0 ∧ small.msc.round = .over ∧ small.msc.cycle % 65536 = 65535) := by
  decide +kernel

theorem witness_EncodeDecode : (Instr.isConvoy (.cpyt 31 63 1 1 1 127 255 64) = true ∧ (Instr.cpyt 31 63 1 1 1 127 255 64).wf = true) ∧
    Instr.isXfolale (.xbfext 31 32 31 31) = true ∧ (Instr.xbfext 31 32 31 31).wf = true := by decide +kernel

theorem witness_StepKeepsCanonicalMemory : (Safety.Inv State.reset ∧ next (step State.reset) (fun _ => true) = true) ∧
    Safety.Inv (ready [0]) ∧ next (step (ready [0])) (fun t => (t.convoy 5).pc == 0x1004) = true :=
  ⟨⟨⟨by decide +kernel, by decide +kernel⟩, by decide +kernel⟩, ⟨by decide +kernel, by decide +kernel⟩, by decide +kernel⟩

/-! ### renvas (14 R384-R394): the worked encodings of R384 and R200, errors of R390, a file with a label, a descriptor of "A complete program" -/

open Sys2Proof.Renvas (tx)

/-- The words of one line at `pc`, with the labels of R384's table. -/
def lineWords (pc : Nat) (s : String) : Option (List Nat) :=
  (Renvas.lineOf (tx s)).bind fun l => match l.body with
    | .instr g mn mods ops => Renvas.words [⟨tx "skip", 0x140, some (tx "text")⟩, ⟨tx "loop", 0x100, some (tx "text")⟩] pc g mn mods ops
    | _ => none

theorem test_renvas_guard : lineWords 0 "?q3 FADD.F0 v2, v2, v9" = some [0x3C104258] := by decide +kernel
theorem test_renvas_branches : lineWords 0x100 "BR.NOT q2, skip" = some [0xA0A00010] ∧ lineWords 0x120 "BRG.NEZ g17, loop" = some [0xA28BFFF8] := by
  decide +kernel
theorem test_renvas_atomic : lineWords 0 "AADD.64.rel.device v1, k3[v2], v5" = some [0x6A084629, 0x07000000] := by decide +kernel
theorem test_renvas_copy : lineWords 0 "cpy.in k3, g18, g19, g20, b6 ; comment" = some [0xD6A24983, 0x010C0000] := by decide +kernel
theorem test_renvas_immediates : lineWords 0 "MOVI.32 v3, -5" = some [0x341FFFDA] ∧ lineWords 0 "MOVI.8 v2, 0x1FF" = some [0x34100FF8] ∧
    lineWords 0 "MOVI.8 v2, 32768" = none := by decide +kernel
theorem test_renvas_errors : lineWords 0 "BR.NOT q0, skip" = none ∧ lineWords 0 "FENCE.rlx.core 1" = none ∧ lineWords 0 "LD.512 v57, k0[v0]" = none := by
  decide +kernel

theorem test_renvas_file : let m := Renvas.assemble (fun _ => 0x100) (tx "a: BRG.NEZ g16, b\n IADD.64 v1, v5, v5\nb: EXIT")
    m.errors = [] ∧ m.bytes (tx "text") = leBytes 0xAC0000000008A143A2820002 12 := by decide +kernel

/-- The block `twice` of R394's program. -/
def twice : Renvas.Block :=
  { name := tx "twice", det := true
    dirs := [(tx "crew", [tx "FULL"]), (tx "stage", [tx "0", tx "start", tx "32"]), (tx "format", [tx "F0", tx "binary32"]),
      (tx "record", [tx "k1", tx "BASE=out", tx "SPACE=0", tx "EXTENT=32", tx "STRIDE=8", tx "ESZ=3"]), (tx "seed", [tx "1"])] }

theorem test_renvas_descriptor :
    ((Renvas.descBytes [⟨tx "start", 0x100000, some (tx "text")⟩, ⟨tx "out", 0x200000, some (tx "rw")⟩] 0x200100 twice).map fun b =>
      (leNat (b.take 8), leNat ((b.drop 80).take 4), leNat ((b.drop 528).take 16)))
      = some (0x01000301, 0xE1707F00, 0x00030008000000200000000000200000) := by decide +kernel

theorem test_renvas_reserved : Renvas.reserved (tx "Rel") = true ∧ Renvas.reserved (tx "out") = false ∧ Renvas.reserved (tx "v63") = true := by
  decide +kernel

/-- A statement in error emits nothing, and the label after it is the next byte that is emitted (R385, R390). -/
theorem test_renvas_skipped : let m := Renvas.assemble (fun _ => 0x100) (tx "IADD.F0 v1, v5, v5\nb: EXIT")
    m.errors = [1] ∧ (m.lay.syms.map fun y => y.val) = [0x100] := by decide +kernel

end Sys2Proof.Tests
end

section
/-! PROOFS. Facts that several proofs share: entries of a table, event records, key slots. -/

namespace Sys2Proof

variable {α : Type}

/-! ### Entries of a table -/

theorem Tab.mem_of_mem_erase {k : Nat} {p : Nat × α} : ∀ {t : Tab α}, p ∈ Tab.erase k t → p ∈ t
  | (j, v) :: t, h => by
    unfold Tab.erase at h; split at h
    · exact List.mem_cons_of_mem _ (Tab.mem_of_mem_erase h)
    · exact (List.mem_cons.mp h).elim (fun e => e ▸ List.mem_cons_self) fun h => List.mem_cons_of_mem _ (Tab.mem_of_mem_erase h)

theorem Tab.mem_of_mem_insert {k : Nat} {v : α} {p : Nat × α} : ∀ {t : Tab α}, p ∈ Tab.insert k v t → p = (k, v) ∨ p ∈ t
  | [], h => .inl (List.mem_singleton.mp h)
  | (j, w) :: t, h => by
    unfold Tab.insert at h; split at h
    · exact List.mem_cons.mp h
    · split at h
      · exact (List.mem_cons.mp h).imp_right (List.mem_cons_of_mem _)
      · rcases List.mem_cons.mp h with e | h
        · exact .inr (e ▸ List.mem_cons_self)
        · exact (Tab.mem_of_mem_insert h).imp_right (List.mem_cons_of_mem _)

/-- An entry after a write is what was written or an entry before. -/
theorem Tab.mem_of_mem_set [DecidableEq α] {d : α} {k : Nat} {v : α} {t : Tab α} {p : Nat × α} (h : p ∈ Tab.set d k v t) :
    p = (k, v) ∨ p ∈ t := by
  unfold Tab.set at h; split at h
  · exact .inr (Tab.mem_of_mem_erase h)
  · exact Tab.mem_of_mem_insert h

theorem Tab.get_eq_or_mem (d : α) : ∀ (t : Tab α) (k : Nat), Tab.get d t k = d ∨ (k, Tab.get d t k) ∈ t
  | [], _ => .inl rfl
  | (j, v) :: t, k => by
    unfold Tab.get; split
    · next h => exact .inr (h ▸ List.mem_cons_self)
    · exact (Tab.get_eq_or_mem d t k).imp_right (List.mem_cons_of_mem _)

end Sys2Proof

namespace Sys2Proof.Machine

/-! ### Event records (12 R329) -/

/-- Writing kept event records: memory, the host side, and what a final meter record frees. -/
theorem flushEvents_eq (n : Nat) : ∀ s : State, ∃ M H X A, flushEvents n s = { s with mem := M, host := H, ctxs := X, accts := A } := by
  induction n with
  | zero => exact fun s => ⟨s.mem, s.host, s.ctxs, s.accts, rfl⟩
  | succ n ih =>
    intro s
    unfold flushEvents; dsimp only
    cases s.host.kept with
    | nil => exact ⟨s.mem, s.host, s.ctxs, s.accts, rfl⟩
    | cons e rest =>
      dsimp only
      generalize List.take 256 _ = b
      split
      · split
        · obtain ⟨M, H, X, A, h⟩ := ih _
          exact ⟨M, H, X, A, h⟩
        · obtain ⟨M, H, X, A, h⟩ := ih _
          exact ⟨M, H, X, A, h⟩
      · exact ⟨s.mem, s.host, s.ctxs, s.accts, rfl⟩

/-- An event record besides may signal a firmware processor. -/
theorem eventPost_eq (s : State) (type : Nat) (body : List Byte) : ∃ F U M H X A,
    eventPost s type body = { s with fw := F, due := U, mem := M, host := H, ctxs := X, accts := A } := by
  have kept (u : State) : ∃ M H X A, flushEvents (eventKeep u type body).host.kept.length (eventKeep u type body)
      = { u with mem := M, host := H, ctxs := X, accts := A } := flushEvents_eq _ _
  have signalled (n bit : Nat) : ∃ F U M H X A,
      flushEvents (eventKeep (raiseSignal s n bit) type body).host.kept.length (eventKeep (raiseSignal s n bit) type body)
        = { s with fw := F, due := U, mem := M, host := H, ctxs := X, accts := A } := by
    obtain ⟨F, U, e⟩ := raiseSignal_eq s n bit
    obtain ⟨M, H, X, A, h⟩ := kept (raiseSignal s n bit)
    exact ⟨F, U, M, H, X, A, by rw [h, e]⟩
  unfold eventPost; dsimp only; split
  · exact signalled _ _
  · split
    · exact signalled _ _
    · obtain ⟨M, H, X, A, h⟩ := kept s
      exact ⟨s.fw, s.due, M, H, X, A, h⟩

@[simp] theorem eventPost_island (s : State) (type : Nat) (body : List Byte) (k : Nat) : (eventPost s type body).island k = s.island k := by
  obtain ⟨_, _, _, _, _, _, h⟩ := eventPost_eq s type body; rw [h]; rfl

/-! ### Key slots (11 R297) -/

@[simp] theorem State.setKeySlot_keySlot_self (s : State) (k : Nat) (x : KeySlot) : (s.setKeySlot k x).keySlot k = x := Tab.get_set_self ..
@[simp] theorem State.setKeySlot_tileMeta (s : State) (k : Nat) (x : KeySlot) (t : Nat) : (s.setKeySlot k x).tileMeta t = s.tileMeta t := rfl
@[simp] theorem State.setKeySlot_mem (s : State) (k : Nat) (x : KeySlot) : (s.setKeySlot k x).mem = s.mem := rfl
@[simp] theorem State.setKeySlot_msc (s : State) (k : Nat) (x : KeySlot) : (s.setKeySlot k x).msc = s.msc := rfl
@[simp] theorem State.post_keySlot (s : State) (l : List Instr) (k : Nat) : (s.post l).keySlot k = s.keySlot k := rfl
@[simp] theorem State.post_tileMeta (s : State) (l : List Instr) (t : Nat) : (s.post l).tileMeta t = s.tileMeta t := rfl

end Sys2Proof.Machine
end

section
/-! PROOFS. Correction intervals, pool tables, byte-budget windows and operating points (08 R218; 09 R245, R256, R257, R259): the statement O46. -/

namespace Sys2Proof.Machine

/-! ### Operating points (R256, R257) -/

/-- The island after its controller has compared the current point with the target: a change of point starts where none is under way. -/
def Island.retarget (i : Island) (isl : Nat) : Island :=
  if i.changing || i.target == i.cur then i
  else
    let j := { i with changing := true, goal := i.target }
    if i.cur < i.target then j.supply isl i.target else j

/-- What the start of a change of point writes: islands and the agenda. -/
theorem movePoint_eq (s : State) (isl : Nat) : ∃ I U, movePoint s isl = { s with islands := I, due := U } := by
  unfold movePoint; dsimp only; split
  · exact ⟨s.islands, s.due, rfl⟩
  · exact ⟨_, _, rfl⟩

theorem movePoint_island (s : State) (isl k : Nat) :
    (movePoint s isl).island k = if k = isl then (s.island isl).retarget isl else s.island k := by
  unfold movePoint Island.retarget; dsimp only; split
  · split
    · next h => rw [h]
    · rfl
  · rw [State.post_island, State.setIsland_island]

theorem movePoint_posts (s : State) (isl : Nat) (hc : (s.island isl).changing = false) (ht : (s.island isl).target ≠ (s.island isl).cur) :
    .pointChangeComplete isl ∈ (movePoint s isl).due := by
  simp [movePoint, hc, ht]

/-- A change that starts: its goal is the target, and a raise sets the rail first. -/
theorem Island.retarget_starts (i : Island) (isl : Nat) (hc : i.changing = false) (ht : i.target ≠ i.cur) :
    (i.retarget isl).changing = true ∧ (i.retarget isl).goal = i.target ∧
      (i.retarget isl).rail = if i.cur < i.target then pointRail i.target else i.rail := by
  by_cases h : i.cur < i.target <;> simp [Island.retarget, Island.supply, hc, ht, h]

/-- Of all of the island, the start of a change writes the change's goal and the supply. -/
theorem Island.retarget_eq (i : Island) (isl : Nat) :
    ∃ c g r t, i.retarget isl = { i with changing := c, goal := g, rail := r, trim := t } := by
  unfold Island.retarget; dsimp only; split
  · exact ⟨_, _, _, _, rfl⟩
  · split
    · exact ⟨_, _, _, _, rfl⟩
    · exact ⟨_, _, _, _, rfl⟩

@[simp] theorem Island.retarget_cur (i : Island) (isl : Nat) : (i.retarget isl).cur = i.cur := by
  obtain ⟨_, _, _, _, h⟩ := i.retarget_eq isl; rw [h]
@[simp] theorem Island.retarget_req (i : Island) (isl : Nat) : (i.retarget isl).req = i.req := by
  obtain ⟨_, _, _, _, h⟩ := i.retarget_eq isl; rw [h]
@[simp] theorem Island.retarget_inForce (i : Island) (isl : Nat) : (i.retarget isl).inForce = i.inForce := by
  obtain ⟨_, _, _, _, h⟩ := i.retarget_eq isl; rw [h]

/-- Where no change is under way afterwards, none started: the island stands at its target. -/
theorem Island.retarget_at_rest (i : Island) (isl : Nat) (h : (i.retarget isl).changing = false) :
    i.retarget isl = i ∧ i.target = i.cur := by
  by_cases hc : i.changing = true
  · simp [Island.retarget, hc] at h
  · rw [Bool.not_eq_true] at hc
    by_cases ht : i.target = i.cur
    · exact ⟨by simp [Island.retarget, ht], ht⟩
    · exact absurd ((i.retarget_starts isl hc ht).1.symm.trans h) (by simp)

theorem movePoint_setIsland_island (s : State) (isl k : Nat) (x : Island) :
    (movePoint (s.setIsland isl x) isl).island k = if k = isl then x.retarget isl else s.island k := by
  rw [movePoint_island, State.setIsland_island_self, State.setIsland_island]
  split <;> rfl

/-- POINT_REQUEST of a permitted point for a cluster of the VD's partition (R256). -/
theorem pointRequest_effect (vd cluster val p : Nat) (s : State) (hvd : (s.vd vd).part = some p) (hc : cluster ∈ (s.part p).clusters)
    (ha : (s.island cluster).allow.getLsbD (val % 16) = true) :
    ∃ t, exec (.pointRequest vd cluster val) s = .next t ∧
      (∀ k, t.island k = if k = cluster then { s.island cluster with req := val % 16 }.retarget cluster else s.island k) ∧
      ((s.island cluster).changing = false → ({ s.island cluster with req := val % 16 } : Island).target ≠ (s.island cluster).cur →
        .pointChangeComplete cluster ∈ t.due) := by
  have e : pointWrite s vd cluster val = movePoint (s.setIsland cluster { s.island cluster with req := val % 16 }) cluster := by
    simp [pointWrite, hvd, hc, ha]
  rw [exec_pointRequest, execPointRequest, e]
  exact ⟨_, rfl, fun k => movePoint_setIsland_island .., fun hchg haim => movePoint_posts _ _ (by simpa using hchg) (by simpa using haim)⟩

/-- The island at which POINT_CHANGE_COMPLETE finds a change under way (R257): the clock takes effect; a raise, or a lowering whose rail
and trim have followed, is complete and the next change may start. -/
def Island.completed (i : Island) (isl : Nat) : Island :=
  if i.cur < i.goal then { i with cur := i.goal, changing := false }.retarget isl
  else if i.goal < i.cur then { i with cur := i.goal }
  else { i.supply isl i.goal with changing := false }.retarget isl

theorem pointChangeComplete_island (isl : Nat) (s : State) (h : (s.island isl).changing = true) :
    ∃ t, exec (.pointChangeComplete isl) s = .next t ∧
      (∀ k, t.island k = if k = isl then (s.island isl).completed isl else s.island k) ∧
      ((s.island isl).goal < (s.island isl).cur → .pointChangeComplete isl ∈ t.due) := by
  rw [exec_pointChangeComplete, execPointChangeComplete]
  refine ⟨_, rfl, ?_⟩
  rcases Nat.lt_trichotomy (s.island isl).cur (s.island isl).goal with hlt | heq | hgt
  · refine ⟨fun k => ?_, fun hd => absurd hd (by omega)⟩
    simp [h, hlt, Island.completed, movePoint_setIsland_island]
  · refine ⟨fun k => ?_, fun hd => absurd hd (by omega)⟩
    simp [h, heq, Island.completed, movePoint_setIsland_island]
  · have hn : ¬ (s.island isl).cur < (s.island isl).goal := by omega
    refine ⟨fun k => ?_, fun _ => ?_⟩
    · simp [h, hn, hgt, Island.completed, State.setIsland_island]
    · simp [h, hn, hgt]

theorem Island.completed_cur (i : Island) (isl : Nat) : (i.completed isl).cur = i.goal := by
  unfold Island.completed; split
  · simp
  · split
    · rfl
    · next h1 h2 => simpa [Island.supply] using (by omega : i.cur = i.goal)

theorem Island.completed_of_lowering (i : Island) (isl : Nat) (h : i.goal < i.cur) : i.completed isl = { i with cur := i.goal } := by
  simp [Island.completed, h, Nat.not_lt.mpr (Nat.le_of_lt h)]

/-- A change that is over leaves the island at its target, after a lowering with the rail of its point. -/
theorem Island.completed_at_rest (i : Island) (isl : Nat) (hi : i.changing = true) (h : (i.completed isl).changing = false) :
    (i.completed isl).target = (i.completed isl).cur ∧ (i.goal = i.cur → (i.completed isl).rail = pointRail i.goal) := by
  rcases Nat.lt_trichotomy i.cur i.goal with hlt | heq | hgt
  · have e : i.completed isl = { i with cur := i.goal, changing := false }.retarget isl := by simp [Island.completed, hlt]
    rw [e] at h ⊢
    obtain ⟨same, atTarget⟩ := Island.retarget_at_rest _ _ h
    rw [same]
    exact ⟨atTarget, fun hg => absurd hg (by omega)⟩
  · have e : i.completed isl = { i.supply isl i.goal with changing := false }.retarget isl := by simp [Island.completed, heq]
    rw [e] at h ⊢
    obtain ⟨same, atTarget⟩ := Island.retarget_at_rest _ _ h
    rw [same]
    exact ⟨atTarget, fun _ => rfl⟩
  · rw [i.completed_of_lowering isl hgt] at h
    exact absurd (hi.symm.trans h) (by simp)

/-! ### Pool tables (08 R218) -/

theorem poolTableWrite_entry (c p v : Nat) (s : State) : ∃ t, exec (.poolTableWrite c p v) s = .next t ∧
    (∀ n, (t.island c).poolEntry n = if n = p % 16 then v % 256 else (s.island c).poolEntry n) ∧
    ∀ k, k ≠ c → t.island k = s.island k := by
  rw [exec_poolTableWrite, execPoolTableWrite]
  refine ⟨_, rfl, fun n => ?_, fun k hk => State.setIsland_island_ne _ _ _ _ hk⟩
  rw [State.setIsland_island_self]
  unfold Island.poolEntry
  simp only [Tab.get_set]
  by_cases hn : n = p % 16
  · subst hn
    by_cases hv : v % 256 = defaultPool (p % 16) <;> simp [hv]
  · simp [hn]

/-! ### Byte budgets (R259) -/

theorem mscServe_mem_retryRequest (s : State) (r : Req) (h : r ∈ s.flight.reqs) : .mscServe r.id ∈ retryRequest s r.id := by
  have : (s.flight.reqs.any fun x => x.id == r.id) = true := List.any_eq_true.mpr ⟨r, h, by simp⟩
  rw [retryRequest, if_pos this]
  exact List.mem_singleton.mpr rfl

theorem budgetWindow_effect (slice : Nat) (s : State) : ∃ t, exec (.budgetWindow slice) s = .next t ∧
    (∀ k, Tab.get 0 t.msc.used k = if k / 256 = slice then 0 else Tab.get 0 s.msc.used k) ∧
    (∀ r ∈ s.flight.reqs, r.id ∈ Tab.get [] s.msc.waiting slice → .mscServe r.id ∈ t.due) ∧ Tab.get [] t.msc.waiting slice = [] := by
  rw [exec_budgetWindow, execBudgetWindow]
  refine ⟨_, rfl, fun k => ?_, fun r hr hw => ?_, ?_⟩
  · simp only [State.post_msc, Tab.get_clearRun]
    have : (256 * slice ≤ k ∧ k < 256 * slice + 256) ↔ k / 256 = slice := by omega
    simp [this]
  · exact List.mem_append_right _ (List.mem_flatMap.mpr ⟨r.id, hw, mscServe_mem_retryRequest _ r hr⟩)
  · simp only [State.post_msc, Tab.get_erase_self]

/-! ### Correction (R245) -/

/-- No account is to be closed where no context is destroyed (R246). -/
theorem closeAccounts_none_destroyed (s : State) (h : ∀ p ∈ s.ctxs, p.2.destroyed = false) : closeAccounts s = s := by
  have none : (s.ctxs.filter fun p => p.2.destroyed && (s.acct p.1).closing && !acctBusy s p.1) = [] :=
    List.filter_eq_nil_iff.mpr fun p hp => by simp [h p hp]
  rw [closeAccounts, none]; rfl

/-- The third action under the limit (R258) writes islands and the agenda, and leaves the limit in force at the island. -/
theorem lowerLimit_eq (s : State) (isl : Nat) : ∃ I U, lowerLimit s isl = { s with islands := I, due := U } := by
  unfold lowerLimit; dsimp only; split
  · obtain ⟨I, U, h⟩ := movePoint_eq (s.setIsland isl { s.island isl with limit := (s.island isl).limit - 1 }) isl
    exact ⟨I, U, h⟩
  · exact ⟨s.islands, s.due, rfl⟩

theorem lowerLimit_inForce (s : State) (isl : Nat) : ((lowerLimit s isl).island isl).inForce = (s.island isl).inForce := by
  unfold lowerLimit; dsimp only; split
  · simp [movePoint_island]
  · rfl

theorem intervalEnds_iff (s : State) (dom : Nat) : intervalEnds s dom = true ↔
    dom < 256 ∧ (s.dom dom).count = 65535 ∨ 256 ≤ dom ∧ dom < 288 ∧ s.msc.cycle % 65536 = 65535 := by
  unfold intervalEnds
  by_cases h : dom < 256
  · have notSlice : ¬ 256 ≤ dom := Nat.not_le.mpr h
    simp [h, notSlice]
  · simp [h, Nat.not_lt.mp h]

/-- The end of an interval: of all of State, what follows the settlement writes islands, firmware processors and the agenda. -/
theorem correct_ends (dom m : Nat) (s u : State) (hi : intervalEnds s dom = true) (hu : correctDom s dom m = u)
    (hp : u.power = s.power) (hd : ∀ p ∈ u.ctxs, p.2.destroyed = false) :
    ∃ I F U, exec (.correct dom m) s = .next { u with islands := I, fw := F, due := U } ∧
      (dom < 256 → (Tab.get {} I dom : Island).inForce = s.power.suslim) := by
  have after : ∃ I U, (if dom < 256 then lowerLimit (applyLimit u dom) dom else u) = { u with islands := I, due := U } ∧
      (dom < 256 → (Tab.get {} I dom : Island).inForce = s.power.suslim) := by
    split
    · next hlt =>
      obtain ⟨I, U, e⟩ := lowerLimit_eq (applyLimit u dom) dom
      have keeps : (Tab.get {} I dom : Island).inForce = ((applyLimit u dom).island dom).inForce := by
        rw [← lowerLimit_inForce, e]; rfl
      refine ⟨I, U, e, fun _ => ?_⟩
      rw [keeps, applyLimit, State.setIsland_island_self, hp]
    · next hge => exact ⟨u.islands, u.due, rfl, fun hlt => absurd hlt hge⟩
  obtain ⟨I, U, e, force⟩ := after
  rw [exec_correct, execCorrect]
  simp only [hi, hu, e, Bool.not_true, Bool.false_eq_true, if_false]
  generalize (if dom < 256 then 8 + dom / 64 else if dom < 272 then 8 + (dom - 256) / 4 else 8) = ctl
  obtain ⟨F, U', e'⟩ := raiseSignal_eq { u with islands := I, due := U } ctl 15
  rw [e', closeAccounts_none_destroyed]
  · exact ⟨I, F, U', rfl, force⟩
  · exact hd

theorem correct_elsewhere (dom m : Nat) (s : State) (hi : intervalEnds s dom = false) : exec (.correct dom m) s = .next s := by
  simp [exec_correct, execCorrect, hi]

/-- The domain after its interval is settled. -/
def Domain.settled (x : Domain) (cf m : Nat) (before : List Nat) : Domain :=
  { x with cf, e := 0, part := [], integral := x.integral + (m - x.read), read := 0, before }

/-- With no charge in the interval the measured energy is the idle account's. -/
theorem correctDom_idle (s : State) (dom m : Nat) (h : (s.dom dom).e = 0) :
    correctDom s dom m =
      (s.setAcct (idleAccount s dom) { s.acct (idleAccount s dom) with acct := (s.acct (idleAccount s dom)).acct + m }).setDom dom
        ((s.dom dom).settled (s.dom dom).cf m ((s.dom dom).part.map (·.1))) := by
  simp [correctDom, Domain.settled, h]

/-- One account's residual `d` joins ACCT, what it was charged with it MEAS, and a context's bucket pays it. -/
def takeResidual (s : State) (a e : Nat) (d : Int) : State :=
  let x := s.acct a
  let u := s.setAcct a { x with acct := x.acct + d, meas := x.meas + e + d }
  if a < 0x10000 then u.setCtx a { u.ctx a with level := (u.ctx a).level - d } else u

/-- An account that has all of the charges takes the whole residual. -/
theorem residuals_single (d : Int) (e a : Nat) (h : 0 < e) : residuals d e [(a, e)] = [(a, e, d)] := by
  have he : (e : Int) ≠ 0 := by omega
  simp [residuals, largestPart, h, Int.mul_tdiv_cancel _ he]

/-- The bounds of CF in the order in which the model takes them. -/
theorem nextCf_eq (cf e m : Nat) : Claims.nextCf cf e m = min 0x2000 (max 0x0800 ((2 * cf * m + e) / (2 * e))) := by
  unfold Claims.nextCf; omega

theorem correctDom_single (s : State) (dom m a : Nat) (hp : (s.dom dom).part = [(a, (s.dom dom).e)]) (h : 0 < (s.dom dom).e) :
    correctDom s dom m =
      (takeResidual s a (s.dom dom).e ((m : Int) - (s.dom dom).e)).setDom dom
        ((s.dom dom).settled (Claims.nextCf (s.dom dom).cf (s.dom dom).e m) m [a]) := by
  have hne : (s.dom dom).e ≠ 0 := by omega
  unfold correctDom
  simp only [hne, if_false, hp, residuals_single _ _ _ h, List.foldl_cons, List.foldl_nil, List.map_cons, List.map_nil]
  rw [nextCf_eq]; rfl

theorem takeResidual_eq (s : State) (a e : Nat) (d : Int) : ∃ A X, takeResidual s a e d = { s with accts := A, ctxs := X } := by
  unfold takeResidual; dsimp only; split
  · exact ⟨_, _, rfl⟩
  · exact ⟨_, s.ctxs, rfl⟩

theorem takeResidual_acct (s : State) (a e b : Nat) (d : Int) :
    (takeResidual s a e d).acct b =
      if b = a then { s.acct a with acct := (s.acct a).acct + d, meas := (s.acct a).meas + e + d } else s.acct b := by
  unfold takeResidual; dsimp only; split
  · rw [State.setCtx_acct, State.setAcct_acct]
  · rw [State.setAcct_acct]

theorem takeResidual_level (s : State) (a e : Nat) (d : Int) (h : a < 0x10000) :
    ((takeResidual s a e d).ctx a).level = (s.ctx a).level - d := by
  simp [takeResidual, h]

/-- Residuals leave no context destroyed where none was. -/
theorem takeResidual_none_destroyed (s : State) (a e : Nat) (d : Int) (h : ∀ p ∈ s.ctxs, p.2.destroyed = false) :
    ∀ p ∈ (takeResidual s a e d).ctxs, p.2.destroyed = false := by
  have here : (s.ctx a).destroyed = false := by
    rcases Tab.get_eq_or_mem {} s.ctxs a with hd | hm
    · exact congrArg Context.destroyed hd
    · exact h _ hm
  unfold takeResidual; dsimp only; split
  · intro p hp
    rcases Tab.mem_of_mem_set hp with rfl | hp
    · exact here
    · exact h p hp
  · exact h

/-- The end of an interval with no charge. -/
theorem correct_idle (dom m : Nat) (s : State) (hi : intervalEnds s dom = true) (hd : ∀ p ∈ s.ctxs, p.2.destroyed = false)
    (he : (s.dom dom).e = 0) : ∃ t, exec (.correct dom m) s = .next t ∧
      t.dom dom = (s.dom dom).settled (s.dom dom).cf m ((s.dom dom).part.map (·.1)) ∧
      (dom < 256 → (t.island dom).inForce = s.power.suslim) ∧
      ∀ a, t.acct a = if a = idleAccount s dom then { s.acct a with acct := (s.acct a).acct + m } else s.acct a := by
  obtain ⟨I, F, U, next, force⟩ := correct_ends dom m s _ hi (correctDom_idle s dom m he) rfl hd
  refine ⟨_, next, State.setDom_dom_self .., force, fun a => (State.setAcct_acct ..).trans ?_⟩
  split
  · next h => rw [h]
  · rfl

/-- The end of an interval in which one account has all of the charges. -/
theorem correct_single (dom m a : Nat) (s : State) (hi : intervalEnds s dom = true) (hd : ∀ p ∈ s.ctxs, p.2.destroyed = false)
    (hp : (s.dom dom).part = [(a, (s.dom dom).e)]) (he : 0 < (s.dom dom).e) : ∃ t, exec (.correct dom m) s = .next t ∧
      t.dom dom = (s.dom dom).settled (Claims.nextCf (s.dom dom).cf (s.dom dom).e m) m [a] ∧
      (dom < 256 → (t.island dom).inForce = s.power.suslim) ∧
      (a < 0x10000 → (t.ctx a).level = (s.ctx a).level - ((m : Int) - (s.dom dom).e)) ∧
      ∀ b, t.acct b = if b = a then { s.acct a with acct := (s.acct a).acct + ((m : Int) - (s.dom dom).e), meas := (s.acct a).meas + m }
        else s.acct b := by
  obtain ⟨A, X, same⟩ := takeResidual_eq s a (s.dom dom).e ((m : Int) - (s.dom dom).e)
  obtain ⟨I, F, U, next, force⟩ := correct_ends dom m s _ hi (correctDom_single s dom m a hp he) (by rw [same]; rfl)
    (takeResidual_none_destroyed s a _ _ hd)
  refine ⟨_, next, State.setDom_dom_self .., force, takeResidual_level s a _ _, fun b => (takeResidual_acct s a _ b _).trans ?_⟩
  rw [show (s.acct a).meas + (s.dom dom).e + ((m : Int) - (s.dom dom).e) = (s.acct a).meas + m by omega]

/-! ### O46 -/

/-- Settles O46: one lemma per event; CORRECT by the two ways in which an interval's residuals fall to one account. -/
theorem energyEvents : Obligations.EnergyEvents := by
  unfold Obligations.EnergyEvents
  refine ⟨fun dom m s hd ends => ⟨fun he => ?_, fun a hp he => ?_⟩, fun dom m s hIsl hSlice => ?_, poolTableWrite_entry, budgetWindow_effect,
    fun vd cluster val p s hvd hc ha => ?_, fun isl s hchg => ?_⟩
  · obtain ⟨t, next, hdom, force, accts⟩ := correct_idle dom m s ((intervalEnds_iff s dom).mpr ends) hd he
    exact ⟨t, next, ⟨hdom, force⟩, accts⟩
  · obtain ⟨t, next, hdom, force, level, accts⟩ := correct_single dom m a s ((intervalEnds_iff s dom).mpr ends) hd hp he
    exact ⟨t, next, ⟨hdom, force⟩, level, accts⟩
  · refine correct_elsewhere dom m s (Bool.eq_false_iff.mpr fun ends => ?_)
    rcases (intervalEnds_iff s dom).mp ends with ⟨hlt, hcount⟩ | ⟨hge, _, hcycle⟩
    · exact hIsl hlt hcount
    · exact hSlice hge hcycle
  · obtain ⟨t, next, island, posted⟩ := pointRequest_effect vd cluster val p s hvd hc ha
    have here := (island cluster).trans (if_pos rfl)
    refine ⟨t, next, by rw [here, Island.retarget_req], by rw [here, Island.retarget_cur], fun hchg haim => ?_,
      fun k hk => by rw [island, if_neg hk]⟩
    obtain ⟨changing, goal, rail⟩ := Island.retarget_starts { s.island cluster with req := val % 16 } cluster hchg haim
    rw [here]
    exact ⟨changing, goal, posted hchg haim, rail⟩
  · obtain ⟨t, next, island, posted⟩ := pointChangeComplete_island isl s hchg
    have here : t.island isl = (s.island isl).completed isl := by rw [island, if_pos rfl]
    have rest := (s.island isl).completed_at_rest isl hchg
    rw [← here] at rest
    exact ⟨t, next, by rw [here, Island.completed_cur], fun hlow => ⟨by rw [here, Island.completed_of_lowering _ _ hlow], posted hlow⟩,
      fun hg hr => (rest hr).2 hg, fun hr => (rest hr).1, fun k hk => by rw [island, if_neg hk]⟩

end Sys2Proof.Machine
end

section
/-! PROOFS. Reseals, patrol scrubs, the soft-error window, retirement and wear (01 R16; 06 R151; 11 R306, R309, R311, R318–R320; 12 R330): the
statement O49. -/

namespace Sys2Proof.Machine

/-! ### Counts and transfers (11 R308, R315, R318) -/

/-- A correction counted at a frame (11 R318): its count, and perhaps the list of frames to migrate. -/
theorem countFrame_eq (s : State) (f : Nat) : ∃ G, countFrame s f =
    { s with sealing := { s.sealing with corrected := Tab.set 0 f (Tab.get 0 s.sealing.corrected f + 1) s.sealing.corrected, migrate := G } } := by
  unfold countFrame countAt locFrame; dsimp only; split
  · exact ⟨_, rfl⟩
  · exact ⟨s.sealing.migrate, rfl⟩

/-- `u` differs from `s` at most in what a tile's transfers, their charges and their corrected bursts write: accounts, domains, leases, contexts,
the agenda, the pseudo-channels and the correction counts. -/
def TransferOnly (s u : State) : Prop :=
  ∃ A D C X U H K B G, u = { s with accts := A, doms := D, cores := C, ctxs := X, due := U, hbm := H,
                                    sealing := { s.sealing with corrected := K, corrBursts := B, migrate := G } }

theorem TransferOnly.refl (s : State) : TransferOnly s s := ⟨_, _, _, _, _, _, _, _, _, rfl⟩

theorem TransferOnly.trans {s t u : State} (h : TransferOnly s t) (g : TransferOnly t u) : TransferOnly s u := by
  obtain ⟨_, _, _, _, _, _, _, _, _, rfl⟩ := h
  obtain ⟨_, _, _, _, _, _, _, _, _, rfl⟩ := g
  exact ⟨_, _, _, _, _, _, _, _, _, rfl⟩

theorem TransferOnly.charge (s : State) (a w d : Nat) (c : Option Nat) : TransferOnly s (charge s a w d c) := by
  obtain ⟨A, D, C, X, U, h⟩ := charge_eq s a w d c
  exact ⟨A, D, C, X, U, s.hbm, _, _, _, h⟩

theorem TransferOnly.queueTransfer (s : State) (t : Nat) (w : Bool) : TransferOnly s (queueTransfer s t w) :=
  ⟨_, _, _, _, _, _, _, _, _, rfl⟩

theorem TransferOnly.countBursts (s : State) (t : Nat) : TransferOnly s (countBursts s t) := by
  unfold Machine.countBursts
  refine List.foldlRecOn _ _ (motive := TransferOnly s) (TransferOnly.refl s) fun u hu e _ => ?_
  split
  · exact hu
  · obtain ⟨G, h⟩ := countFrame_eq _ _
    refine hu.trans ?_
    rw [h]
    exact ⟨_, _, _, _, _, _, _, _, _, rfl⟩

/-- Fill's tests read nothing of what transfers write. -/
theorem TransferOnly.fillCheck {s u : State} (h : TransferOnly s u) (t : Nat) : fillCheck u t = fillCheck s t := by
  obtain ⟨_, _, _, _, _, _, _, _, _, rfl⟩ := h
  rfl

/-! ### Placement (06 R151) -/

theorem xorNibbles_lt (n : Nat) : ∀ x, xorNibbles n x < 16 := by
  induction n with
  | zero => exact fun _ => Nat.zero_lt_succ 15
  | succ n ih => exact fun x => Nat.xor_lt_two_pow (n := 4) (Nat.mod_lt _ (by decide)) (ih _)

/-- A slice's local tile number gives back the slice and the local tile. -/
theorem homeSlice_tileAt (slice l : Nat) (h : slice < 16) : homeSlice (tileAt slice l) = slice ∧ localTile (tileAt slice l) = l := by
  have hx : slice ^^^ xorNibbles 7 l < 16 := Nat.xor_lt_two_pow (n := 4) h (xorNibbles_lt 7 l)
  have hm : tileAt slice l % 16 = slice ^^^ xorNibbles 7 l := by unfold tileAt; omega
  have hd : tileAt slice l / 16 = l := by unfold tileAt; omega
  refine ⟨?_, hd⟩
  rw [homeSlice, xorNibbles, hm, hd, Nat.xor_assoc, Nat.xor_self, Nat.xor_zero]

/-! ### The keystream covers a tile (11 R299) -/

theorem shiftRows_length (b : List Byte) : (shiftRows b).length = 16 := by
  rw [shiftRows, List.length_map, List.length_range]

theorem aesBytes_length_le (ws : List (List Byte)) (b : List Byte) : (aesBytes ws b).length ≤ 16 := by
  unfold aesBytes xorBytes
  rw [List.length_zipWith, shiftRows_length]
  exact Nat.min_le_left _ _

/-- Blocks of at most `n` bytes that follow each other. -/
theorem flatMap_length_le (f : Nat → List Byte) (n : Nat) (h : ∀ x, (f x).length ≤ n) (l : List Nat) : (l.flatMap f).length ≤ n * l.length := by
  induction l with
  | nil => exact Nat.zero_le _
  | cons x l ih =>
    rw [List.flatMap_cons, List.length_append, List.length_cons, Nat.mul_succ, Nat.add_comm]
    exact Nat.add_le_add ih (h x)

theorem keystream_length_le (slot draw t v g : Nat) : (keystream slot draw t v g).length ≤ 2048 := by
  have h := flatMap_length_le (fun j => aesBytes (keySchedule (Config.sealKey slot draw false)) (blockBytes (counterBlock t v g j))) 16
    (fun _ => aesBytes_length_le _ _) (List.range 128)
  rw [List.length_range] at h
  exact h

theorem crypt_length_le (slot draw t v g : Nat) (data : List Byte) : (crypt slot draw t v g data).length ≤ 2048 := by
  rw [crypt, List.length_zipWith]
  exact Nat.le_trans (Nat.min_le_right _ _) (keystream_length_le ..)

/-! ### Reseal (11 R306) -/

/-- A fill that succeeds writes memory within the tile, where its stored bits stand by themselves, and keeps the tile's generation. -/
theorem openTile_eq (s : State) (t : Nat) : ∃ T M, openTile s t = { s with sealing := { s.sealing with tiles := T }, mem := M } ∧
    (Tab.get {} T t : TileMeta).gen = (s.tileMeta t).gen ∧
    ∀ b, b / 2048 ≠ t ∨ (s.tileMeta t).raw = none → Tab.get 0 M b = Tab.get 0 s.mem b := by
  unfold openTile; dsimp only
  cases hr : (s.tileMeta t).raw with
  | none => exact ⟨s.sealing.tiles, s.mem, rfl, rfl, fun _ _ => rfl⟩
  | some c =>
    refine ⟨_, _, rfl, by rw [Tab.get_set_self], fun b hb => ?_⟩
    have outside : b / 2048 ≠ t := hb.resolve_right (by simp)
    have len := crypt_length_le (s.slotOfTile t) (tileDraw s t) t (s.tileMeta t).version (s.tileMeta t).gen c
    rw [Tab.get_putRun, if_neg (by omega)]

/-- A write-back of a data tile under another generation than the current begins that generation (R300). -/
theorem writeBack_other_gen (s : State) (t : Nat) (hm : isMetaTile t = false)
    (hg : (s.tileMeta t).gen ≠ (s.keySlot (s.slotOfTile t)).cur) :
    writeBack s t = (queueTransfer (s.setMeta t { version := 0, gen := (s.keySlot (s.slotOfTile t)).cur }) t true, true) := by
  simp [writeBack, hm, hg]

/-- A poisoned tile's fill is refused. -/
theorem not_poisoned_of_fillCheck (s : State) (t : Nat) (h : fillCheck s t = .ok) : s.poisoned t = false := by
  cases hp : s.poisoned t with
  | false => rfl
  | true => simp [fillCheck, hp] at h

/-- A tile on its way from its stack in a reseal step. -/
def resealFetch (s : State) (t : Nat) : State :=
  countBursts (queueTransfer (charge s firmwareAccount s.weights.ofFill (memDomain (homeSlice t)) none) t false) t

theorem TransferOnly.resealFetch (s : State) (t : Nat) : TransferOnly s (resealFetch s t) :=
  ((TransferOnly.charge ..).trans (TransferOnly.queueTransfer ..)).trans (TransferOnly.countBursts ..)

/-- A reseal step at a tile that its slice does not hold and whose fill succeeds is a fill and a write-back. -/
theorem resealStep_fill (s : State) (t : Nat) (hn : s.mscTile? t = none) (hf : fillCheck s t = .ok)
    (hg : (s.tileMeta t).gen ≠ (s.keySlot (s.slotOfTile t)).cur) :
    resealStep s t = (writeBack (charge (openTile (resealFetch s t) t) firmwareAccount (openTile (resealFetch s t) t).weights.ofBack
      (memDomain (homeSlice t)) none) t).1 := by
  have hfetched := ((TransferOnly.resealFetch s t).fillCheck t).trans hf
  rw [resealFetch] at hfetched ⊢
  simp [resealStep, not_poisoned_of_fillCheck s t hf, hn, hg, hfetched]

/-- What that step leaves: the tile under the current generation, and the memory outside the tile as it was. -/
theorem resealStep_effect (s : State) (t : Nat) (hn : s.mscTile? t = none) (hf : fillCheck s t = .ok) (hm : isMetaTile t = false)
    (hg : (s.tileMeta t).gen ≠ (s.keySlot (s.slotOfTile t)).cur) :
    (resealStep s t).tileMeta t = { version := 0, gen := (s.keySlot (s.slotOfTile t)).cur } ∧
      ∀ b, b / 2048 ≠ t ∨ (s.tileMeta t).raw = none → Tab.get 0 (resealStep s t).mem b = Tab.get 0 s.mem b := by
  rw [resealStep_fill s t hn hf hg]
  obtain ⟨_, _, _, _, _, _, _, _, _, fetched⟩ := TransferOnly.resealFetch s t
  obtain ⟨T, M, opened, gen, outside⟩ := openTile_eq (resealFetch s t) t
  obtain ⟨_, _, _, _, _, _, _, _, _, paid⟩ := TransferOnly.charge (openTile (resealFetch s t) t) firmwareAccount
    (openTile (resealFetch s t) t).weights.ofBack (memDomain (homeSlice t)) none
  rw [fetched] at gen outside
  rw [opened, fetched] at paid
  rw [opened, fetched, paid, writeBack_other_gen]
  · exact ⟨Tab.get_set_self .., outside⟩
  · exact hm
  · exact fun e => hg (gen.symm.trans e)

/-- RESEAL_TILE at a slice's next tile. -/
theorem resealTile_next (slot slice l : Nat) (s : State) (h : Claims.ResealsNext s slot slice l) :
    ∃ t, exec (.resealTile slot slice) s = .next t ∧ t.tileMeta (tileAt slice l) = { version := 0, gen := (s.keySlot slot).cur } ∧
      Tab.get 0 (t.keySlot slot).cursor slice = l + 1 ∧ .resealTile slot slice ∈ t.due ∧
      (∀ b, b / 2048 ≠ tileAt slice l ∨ (s.tileMeta (tileAt slice l)).raw = none → Tab.get 0 t.mem b = Tab.get 0 s.mem b) := by
  obtain ⟨hres, hdone, hnext, hheld, hfill, hmeta, rfl, hgen⟩ := h
  obtain ⟨tile, outside⟩ := resealStep_effect s (tileAt slice l) hheld hfill hmeta hgen
  rw [exec_resealTile, execResealTile]
  simp only [hres, hdone, hnext, Bool.not_true, List.contains_eq_mem, decide_false, Bool.or_self, Bool.false_eq_true, if_false]
  exact ⟨_, rfl, by simpa using tile, by simp, by simp, by simpa using outside⟩

/-- RESEAL_TILE at a slice with no tile left. -/
theorem resealTile_done (slot slice : Nat) (s : State) (hres : (s.keySlot slot).reseal = true) (hdone : slice ∉ (s.keySlot slot).doneSlices)
    (hnext : nextLocal s slot slice (Tab.get 0 (s.keySlot slot).cursor slice) = none) :
    ∃ t, exec (.resealTile slot slice) s = .next t ∧
      t.keySlot slot = { s.keySlot slot with doneSlices := (s.keySlot slot).doneSlices ++ [slice] } ∧
      ((s.keySlot slot).doneSlices.length = 15 → .resealEnd slot ∈ t.due) := by
  rw [exec_resealTile, execResealTile]
  simp only [hres, hdone, hnext, Bool.not_true, List.contains_eq_mem, decide_false, Bool.or_self, Bool.false_eq_true, if_false]
  exact ⟨_, rfl, by simp, fun h => by simp [h]⟩

/-- RESEAL_END where no tile has stalled meanwhile. -/
theorem resealEnd_effect (slot : Nat) (s : State) (hres : (s.keySlot slot).reseal = true) (hdone : (s.keySlot slot).doneSlices.length = 16)
    (hstall : ∀ p ∈ s.msc.tiles, p.2.stalled = false) :
    ∃ t, exec (.resealEnd slot) s = .next t ∧ (t.keySlot slot).prev = none ∧ (t.keySlot slot).reseal = false ∧
      (t.keySlot slot).cur = (s.keySlot slot).cur := by
  have none_stalled (u : State) : (s.msc.tiles.find? fun p => p.2.stalled && u.slotOfTile p.1 == slot) = none :=
    List.find?_eq_none.mpr fun p hp => by simp [hstall p hp]
  rw [exec_resealEnd, execResealEnd]
  simp only [hres, hdone, State.setKeySlot_msc, none_stalled, Bool.not_true, bne_self_eq_false, Bool.or_self, Bool.false_eq_true, if_false]
  exact ⟨_, rfl, by simp⟩

/-! ### Poison (11 R309, R311) -/

theorem Exc.faultAround (s : State) (l ctx : List Nat) (code : Nat) (f : FaultRec) : Exc s (faultAround s l ctx code f) :=
  Exc.foldl _ (fun _ _ => Exc.contextFault ..) _ s

/-- Device confinement (11 R310) leaves the seals and the scrubs, and the device has failed. -/
theorem confineDevice_effect (s : State) (cause inc : Nat) :
    (confineDevice s cause inc).sealing = s.sealing ∧ (confineDevice s cause inc).scrub = s.scrub ∧
      (confineDevice s cause inc).host.failed = true := by
  have h := Exc.faultAround s (s.contextsWith fun _ _ => true) [] (gradeB cause) { code := 0, incident := inc }
  unfold confineDevice confineAround
  dsimp only
  exact ⟨h.sealing, h.scrub, rfl⟩

/-- A tile's entry in its poison table. -/
def putPoison (s : State) (t : Nat) (p : Poison) : State :=
  { s with sealing := { s.sealing with poison := Tab.set {} t p s.sealing.poison } }

/-- An incident (11 R312) and the tile's entry after it: the count of incidents has risen, the entry stands, scrubs are as they were. -/
theorem putPoison_openIncident (s : State) (t event conf code core : Nat) (p : Poison) :
    (putPoison (openIncident s t event conf code core).1 t p).scrub = s.scrub ∧
      (putPoison (openIncident s t event conf code core).1 t p).poisonOf t = p ∧
      (putPoison (openIncident s t event conf code core).1 t p).sealing.incidents = s.sealing.incidents + 1 :=
  ⟨(Exc.eventPost ..).scrub, Tab.get_set_self .., congrArg Seal.incidents (Exc.eventPost ..).sealing⟩

/-- The state in which an uncorrectable burst of a tile has been counted at its place and its frame. -/
def lossCounted (s : State) (t place : Nat) : State := countFrame (markUncorr s place) (t / 2)

theorem lossCounted_eq (s : State) (t place : Nat) : ∃ V C G,
    lossCounted s t place = { s with sealing := { s.sealing with uncorrEvents := V, corrected := C, migrate := G } } := by
  obtain ⟨G, h⟩ := countFrame_eq (markUncorr s place) (t / 2)
  exact ⟨_, _, G, h⟩

/-- The poison entry of an uncorrectable event that is counted at a place: the next incident's number, the present window. -/
def lossEntry (s : State) (place : Nat) : Poison :=
  { incident := s.sealing.incidents + 1, window := some s.sealing.window, place }

/-- A tile with an uncorrectable burst enters a poison table that has room; an event of the device's class confines to the device. -/
theorem poisonTile_with_room (s : State) (t place : Nat) (hp : s.poisoned t = false)
    (hroom : (s.sealing.poison.filter fun q => homeSlice q.1 == homeSlice t).length < 4096) :
    ∃ v code inc, v.scrub = s.scrub ∧ (v.poisonOf t).incident = s.sealing.incidents + 1 ∧ v.sealing.incidents = s.sealing.incidents + 1 ∧
      poisonTile s t 1 place = if deviceClass s t 1 then confineDevice v code inc else v := by
  obtain ⟨V, C, G, counted⟩ := lossCounted_eq s t place
  have notFull : ¬ 4096 ≤ ((lossCounted s t place).sealing.poison.filter fun q => homeSlice q.1 == homeSlice t).length := by
    rw [counted]; exact Nat.not_le.mpr hroom
  have sameClass : deviceClass (lossCounted s t place) t 1 = deviceClass s t 1 := by rw [counted]; rfl
  have entered (conf code : Nat) := putPoison_openIncident (lossCounted s t place) t 1 conf code 0xFFFF (lossEntry (lossCounted s t place) place)
  have number : (lossCounted s t place).sealing.incidents = s.sealing.incidents := by rw [counted]
  have scrubs : (lossCounted s t place).scrub = s.scrub := by rw [counted]
  have notReseal : ¬ (1 : Nat) = 5 := by decide
  unfold poisonTile
  simp only [hp, notReseal, Bool.false_eq_true, if_false, if_true]
  rw [lossCounted] at *
  simp only [notFull, sameClass, decide_false, Bool.false_or, Bool.false_eq_true, if_false]
  obtain ⟨scrub, entry, incidents⟩ := entered _ _
  exact ⟨_, _, _, scrub.trans scrubs, by rw [entry, lossEntry, number], incidents.trans (by rw [number]), rfl⟩

/-- What that leaves; of a firmware frame the device fails. -/
theorem poisonTile_effect (s : State) (t place : Nat) (hp : s.poisoned t = false)
    (hroom : (s.sealing.poison.filter fun q => homeSlice q.1 == homeSlice t).length < 4096) :
    (poisonTile s t 1 place).scrub = s.scrub ∧ ((poisonTile s t 1 place).poisonOf t).incident = s.sealing.incidents + 1 ∧
      (poisonTile s t 1 place).sealing.incidents = s.sealing.incidents + 1 ∧
      ((s.ownerOf (t / 2)).owner = 0 → (poisonTile s t 1 place).host.failed = true) := by
  obtain ⟨v, code, inc, scrub, number, incidents, entered⟩ := poisonTile_with_room s t place hp hroom
  rw [entered]
  split
  · obtain ⟨sameSeals, sameScrubs, failed⟩ := confineDevice_effect v code inc
    exact ⟨sameScrubs.trans scrub, by rw [State.poisonOf, sameSeals]; exact number, by rw [sameSeals, incidents], fun _ => failed⟩
  · next notDevice => exact ⟨scrub, number, incidents, fun firmware => absurd (by simp [deviceClass, firmware]) notDevice⟩

/-! ### Scrubs (11 R319) -/

theorem scrubPassStart_effect (slice : Nat) (s : State) : ∃ t, exec (.scrubPassStart slice) s = .next t ∧
    ∀ k, (Tab.get {} t.scrub k : Scrub) = if k = slice then { on := true, next := 0 } else Tab.get {} s.scrub k :=
  ⟨_, exec_scrubPassStart .., fun k => by simp only [Tab.get_set]⟩

/-- The tile at which a slice's scrub stands. -/
def scrubPlace (s : State) (slice : Nat) : Nat := tileAt slice (Tab.get {} s.scrub slice : Scrub).next

/-- A scrub of that tile has begun: the next is named, and the tile is on its way. -/
def scrubFetch (s : State) (slice : Nat) : State :=
  let p : Scrub := Tab.get {} s.scrub slice
  queueTransfer { s with scrub := Tab.set {} slice { on := decide (p.next + 1 < localTiles), next := p.next + 1 } s.scrub } (scrubPlace s slice) false

theorem scrubFetch_next (s : State) (slice : Nat) :
    (Tab.get {} (scrubFetch s slice).scrub slice : Scrub).next = (Tab.get {} s.scrub slice : Scrub).next + 1 :=
  congrArg Scrub.next (Tab.get_set_self ..)

/-- SCRUB_TILE at a tile that is not poisoned and of whose bursts nothing is known: uncorrectable, one burst corrected, or clean. -/
theorem scrubTile_eq (slice result : Nat) (s : State) (hon : (Tab.get {} s.scrub slice : Scrub).on = true)
    (herrs : (s.tileMeta (scrubPlace s slice)).errs = []) (hp : s.poisoned (scrubPlace s slice) = false) :
    exec (.scrubTile slice result) s = .next (
      if result = 2 then scrubLost (scrubFetch s slice) (scrubPlace s slice)
      else if result = 1 then scrubCorrected (scrubFetch s slice) (scrubPlace s slice) 1
      else scrubFetch s slice) := by
  rw [exec_scrubTile, execScrubTile]
  unfold scrubFetch
  rw [scrubPlace] at *
  by_cases h2 : result = 2
  · simp [hon, herrs, hp, TileMeta.lost, h2]
  · by_cases h1 : result = 1 <;> simp [hon, herrs, hp, TileMeta.lost, h1, h2]

/-- An uncorrectable burst of a tile that its slice does not hold poisons the tile (11 R309). -/
theorem scrubLost_not_held (s : State) (t : Nat) (h : s.mscTile? t = none) : scrubLost s t = poisonTile s t 1 (chanOf t) := by
  rw [scrubLost, h]

/-- One corrected burst is counted at the slice and at the frame; memory and scrubs are as they were. -/
theorem scrubCorrected_one (s : State) (t : Nat) :
    (scrubCorrected s t 1).scrub = s.scrub ∧ (scrubCorrected s t 1).mem = s.mem ∧
      Tab.get 0 (scrubCorrected s t 1).sealing.corrBursts (homeSlice t) = Tab.get 0 s.sealing.corrBursts (homeSlice t) + 1 ∧
      Tab.get 0 (scrubCorrected s t 1).sealing.corrected (t / 2) = Tab.get 0 s.sealing.corrected (t / 2) + 1 := by
  unfold scrubCorrected
  simp only [List.range_one, List.foldl_cons, List.foldl_nil]
  obtain ⟨G, h⟩ := countFrame_eq _ _
  rw [h]
  exact ⟨rfl, rfl, by simp only [Tab.get_set_self]; rfl, by simp only [Tab.get_set_self]; rfl⟩

/-! ### Soft errors, retirement, wear (01 R16; 11 R311, R318, R320) -/

theorem softErrorWindow_effect (s : State) : ∃ t, exec .softErrorWindow s = .next t ∧
    t.sealing = { s.sealing with window := s.sealing.window + 1, corrected := [], corrBursts := [], uncorrEvents := [] } ∧
    ∀ c, (t.island c).corr = 0 := by
  refine ⟨_, exec_softErrorWindow .., rfl, fun c => ?_⟩
  show (Tab.get {} (s.islands.map fun p => (p.1, { p.2 with corr := 0 })) c : Island).corr = 0
  induction s.islands with
  | nil => rfl
  | cons p l ih =>
    rw [List.map_cons, Tab.get]
    split
    · rfl
    · exact ih

theorem emptyCluster_iff (s : State) (c : Nat) :
    emptyCluster s c = true ↔ ∀ k, k = 2 * c ∨ k = 2 * c + 1 → (s.core k).slot0 = 0 ∧ (s.core k).slot1 = 0 := by
  simp [emptyCluster]

theorem clusterRetire_effect (c : Nat) (s : State) (hm : (s.island c).state = .marked) (he : emptyCluster s c = true) :
    ∃ t, exec (.clusterRetire c) s = .next t ∧ (t.island c).state = .retired ∧ (t.island c).pool = 0 ∧
      (t.island c).bins = List.replicate 10 0 ∧ ∀ k, k ≠ c → t.island k = s.island k := by
  rw [exec_clusterRetire, execClusterRetire]
  simp only [hm, he, and_self, if_true]
  refine ⟨_, rfl, ?_, ?_, ?_, fun k hk => ?_⟩
  · simp
  · simp [Island.pool]
  · simp
  · simp [State.setIsland_island_ne _ _ _ _ hk]

theorem wearMonitorUpdate_effect (c hours : Nat) (s : State) :
    ∃ t, exec (.wearMonitorUpdate c hours) s = .next t ∧ (t.island c).life = hours % 2^32 ∧
      (hours % 2^32 < 168 → (s.island c).state = .enabled → (t.island c).state = .marked ∧ .clusterRetire c ∈ t.due) := by
  rw [exec_wearMonitorUpdate, execWearMonitorUpdate]
  by_cases h : hours % 2^32 < 168 ∧ (s.island c).state = .enabled
  · simp only [h, and_self, if_true]
    exact ⟨_, rfl, by simp, fun _ _ => ⟨by simp, by simp⟩⟩
  · simp only [h, if_false]
    exact ⟨_, rfl, by simp, fun h1 h2 => absurd ⟨h1, h2⟩ h⟩

theorem poisonedFrameRetire_effect (f : Nat) (s : State)
    (hp : s.poisoned (2 * f) = true ∨ s.poisoned (2 * f + 1) = true ∨ f ∈ s.sealing.migrate) (hf : frameInFlight s f = false) :
    ∃ t, exec (.poisonedFrameRetire f) s = .next t ∧ (t.ownerOf f).owner = 0 ∧ f ∈ t.sealing.retired ∧
      t.poisoned (2 * f) = false ∧ t.poisoned (2 * f + 1) = false ∧ f ∉ t.sealing.migrate := by
  have named : (s.poisoned (2 * f) || s.poisoned (2 * f + 1) || s.sealing.migrate.contains f) = true := by
    simpa [or_assoc] using hp
  rw [exec_poisonedFrameRetire, execPoisonedFrameRetire]
  simp only [named, hf, Bool.not_false, Bool.and_self, if_true]
  generalize freeze (freeze (shootDownFrame s f) (2 * f)) (2 * f + 1) = u
  refine ⟨_, rfl, ?_, ?_, ?_, ?_, ?_⟩
  · simp [State.ownerOf, Tab.get_erase_self]
  · simp
  · simp [State.poisoned, State.poisonOf, Tab.get_erase_self]
  · simp [State.poisoned, State.poisonOf, Tab.get_erase_self, Tab.get_erase_ne]
  · simp

/-! ### O49 -/

/-- Settles O49: one lemma per event; a reseal step and a scrub by what the transfer of the tile leaves. -/
theorem sealingEvents : Obligations.SealingEvents := by
  unfold Obligations.SealingEvents
  refine ⟨resealTile_next, resealTile_done, resealEnd_effect, scrubPassStart_effect,
    fun slice s hon herrs _ hp => ⟨?clean, ?corrected, fun hheld hroom => ?lost⟩,
    fun slice l h _ => homeSlice_tileAt slice l h, softErrorWindow_effect,
    fun c s hm he => clusterRetire_effect c s hm ((emptyCluster_iff s c).mpr he), wearMonitorUpdate_effect, poisonedFrameRetire_effect⟩
  case clean => exact ⟨scrubFetch s slice, scrubTile_eq slice 0 s hon herrs hp, scrubFetch_next s slice, rfl, rfl⟩
  case corrected =>
    obtain ⟨scrubs, mem, bursts, corrected⟩ := scrubCorrected_one (scrubFetch s slice) (scrubPlace s slice)
    exact ⟨scrubCorrected (scrubFetch s slice) (scrubPlace s slice) 1, scrubTile_eq slice 1 s hon herrs hp,
      by rw [scrubs, scrubFetch_next], mem, bursts, corrected⟩
  case lost =>
    obtain ⟨scrubs, number, incidents, firmware⟩ :=
      poisonTile_effect (scrubFetch s slice) (scrubPlace s slice) (chanOf (scrubPlace s slice)) hp hroom
    rw [← scrubLost_not_held (scrubFetch s slice) (scrubPlace s slice) hheld] at scrubs number incidents firmware
    exact ⟨scrubLost (scrubFetch s slice) (scrubPlace s slice), scrubTile_eq slice 2 s hon herrs hp,
      by rw [scrubs, scrubFetch_next], number, incidents, firmware⟩

end Sys2Proof.Machine
end
